-- ==== Sys2Proof/Word.lean ====
section
/-! DEFINITION. The plainest types of the model: bytes, channel numbers, and four like things. -/

namespace Sys2Proof

/-- One byte of a frame on the zone line (R165). -/
abbrev Byte := BitVec 8

/-- A station address 0..15 (R16). -/
abbrev Address := BitVec 4

/-- A channel of the station, 0..3. -/
abbrev Chan := Fin 4

/-- A slot of a step table, 0..7 (R20). -/
abbrev Slot := Fin 8

/-- Four like things: one per channel, or one per gate input. -/
structure Quad (α : Type) where
  c0 : α
  c1 : α
  c2 : α
  c3 : α
  deriving DecidableEq, Repr

/-- The four numbers in rising order. -/
def allChans : List Chan := [0, 1, 2, 3]

/-- The thing of number `c`. -/
def Quad.get {α : Type} (q : Quad α) (c : Fin 4) : α :=
  match c with
  | 0 => q.c0
  | 1 => q.c1
  | 2 => q.c2
  | 3 => q.c3

/-- `q` with the thing of number `c` replaced by `a`. -/
def Quad.set {α : Type} (q : Quad α) (c : Fin 4) (a : α) : Quad α :=
  match c with
  | 0 => { q with c0 := a }
  | 1 => { q with c1 := a }
  | 2 => { q with c2 := a }
  | 3 => { q with c3 := a }

/-- The four things `f 0` to `f 3`. -/
def Quad.ofFn {α : Type} (f : Fin 4 → α) : Quad α := ⟨f 0, f 1, f 2, f 3⟩

/-- Four copies of one thing. -/
def Quad.fill {α : Type} (a : α) : Quad α := ⟨a, a, a, a⟩

end Sys2Proof
end

