-- ==== Sys2Proof/Config.lean ====
section
/-! DEFINITION. The capacities and constants that the guide fixes for every ZTC-410.  The spec leaves no result of a
command undefined, so there is no free value. -/

namespace Sys2Proof.Config

/-- Entries the REPLY queue holds (R174). -/
def replyCapacity : Nat := 4

/-- Records the event queue holds (R193). -/
def eventCapacity : Nat := 8

/-- Records one EVENT frame carries at most (R176). -/
def eventsPerFrame : Nat := 4

/-- The longest duration, delay or remaining time in seconds (R23, R34). -/
def maxSeconds : Nat := 86399

/-- Half-cycles in a demand interval (R79). -/
def intervalLength : Nat := 50

/-- Samples of the ride-through timer at which the mains has failed (R7). -/
def rideThroughSamples : Nat := 16000

/-- A mismatch or clear count at this value reports (R114, R117). -/
def driveFaultCount : Nat := 6

/-- Samples skipped after a change of a relay's command (R113). -/
def settleSamples : Nat := 4

/-- Like samples in a row that a gate filter or the MR release filter asks for (R152, R153). -/
def filterLength : Nat := 8

end Sys2Proof.Config
end

