-- ==== Sys2Proof/Syntax.lean ====
section
/-! DEFINITION. The commands of the block: one constructor per row of spec/opcode_table.json, with what the row
carries.  The table gives no bits and no operands; the operands are those the row's rule reads. -/

namespace Sys2Proof

/-- The first payload byte of a COMMAND and its source (R165, R171). -/
structure CmdHeader where
  /-- source address, byte 0 bits 3..0 -/
  source : Address
  /-- match mask, payload byte 0 bits 7..4 -/
  mask : BitVec 4
  /-- target address, payload byte 0 bits 3..0 -/
  target : Address
  deriving DecidableEq, Repr

/-- The levels on the input pins at one accepted half-cycle. -/
structure InputPins where
  /-- G0..G3: true is a high pin, the contact made (R151) -/
  gates : Quad Bool
  /-- MR: true is a high pin, false is the button pressed (R151) -/
  mr : Bool
  /-- CS0..CS3: true is a high pin, conduction (05, What a driver holds) -/
  sense : Quad Bool
  /-- FS0..FS3: the strength 0..15 (R128) -/
  flame : Quad (BitVec 4)
  /-- SPK_SENSE: true is active (R124, R128) -/
  spark : Bool
  deriving DecidableEq, Repr

/-- The parts of the station that take an accepted half-cycle on their own state (R3). -/
inductive HalfCycleUnit where
  | program (c : Chan)
  | driver (c : Chan)
  | ignition (c : Chan)
  | hold (c : Chan)
  | prescaler
  | interval
  | gates
  | manualReset
  /-- the second event on burner `c` in PURGE (R4, R139) -/
  | purge (c : Chan)
  deriving DecidableEq, Repr

/-- The ways in which the receive assembly discards a frame (R169). -/
inductive AbortCause where
  | framingError
  | lengthOutOfRange
  | cutShort
  deriving DecidableEq, Repr

/-- The eight parameter bytes of CONFIGURE_BURNER after the channel (08, COMMAND frames). -/
structure BurnerBytes where
  position : Byte
  attempts : Byte
  sparkTime : Byte
  safetyTime : Byte
  purge : Byte
  threshold : Byte
  wOn : Byte
  wOff : Byte
  deriving DecidableEq, Repr

/-- The parameter block of CONFIGURE_CHANNEL (08, COMMAND frames). -/
structure ChannelBytes where
  channel : Byte
  kind : Byte
  load : BitVec 16
  /-- circuit in bit 7, class in bits 5..4, gate mask in bits 3..0 -/
  packed : Byte
  period : Byte
  minSwitch : Byte
  deriving DecidableEq, Repr

/-- The commands of the block, in the order of the table.  An operand with a default says which of the orders that the
spec leaves open has occurred (log entries 19 and 20); a sender that names none has the events in rising channel order,
and before the attempt.  For SPARK_END and the rows of MR it says what else the block samples (log entry 2). -/
inductive Instr where
  | supplyBelowThreshold
  | powerOnReset (straps : BitVec 4)
  | acceptedCrossing (pins : InputPins) (order : List HalfCycleUnit)
  | frequencySet
  | secondEvent
  | mainsAbsent
  | mainsRestored
  /-- `order`: the channels in the order in which the report unit takes the events of this one (R195). -/
  | mainsFailed (order : List Chan := [])
  | stationActive
  | stepExpiry (c : Chan)
  | delayEnd (c : Chan)
  | intervalEvent
  | peerRowRemoved (p : Address)
  | starvationBegin
  | raiseHoldClear (c : Chan)
  | slowPeriodStart (c : Chan) (pins : InputPins)
  | slowOnTimeEnd (c : Chan) (pins : InputPins)
  | stuckOff (c : Chan) (pins : InputPins)
  | stuckOn (c : Chan) (pins : InputPins)
  | stuckOnRepeat (c : Chan) (pins : InputPins)
  | uncontrolledCleared (c : Chan) (pins : InputPins)
  | sparkStart (c : Chan) (pins : InputPins)
  /-- `pins`: the levels that the other burners read in the same event (R125, R128); left out, those that stand. -/
  | sparkEnd (c : Chan) (pins : Option InputPins := none)
  | flameProven (c : Chan) (pins : InputPins)
  | attemptFail (c : Chan) (pins : InputPins)
  | falseFlameSet (c : Chan) (pins : InputPins)
  | falseFlameCleared (c : Chan) (pins : InputPins)
  | falseFlameLockout (c : Chan) (pins : InputPins)
  | purgeEnd (c : Chan)
  | flameLoss (c : Chan) (pins : InputPins)
  | gateChangeAccepted (pins : InputPins)
  /-- `gates`: the levels of G0..G3 at the sample, taken in the same event (R151); none where the levels that stand have
  not moved. -/
  | manualResetRequest (gates : Option (Quad Bool) := none)
  /-- `gates` as in `manualResetRequest`. -/
  | mrRelease (gates : Option (Quad Bool) := none)
  /-- `late`: the events of a change that arrived together with the attempt reach the report unit after its choice
  (R197). -/
  | lineIdle (late : Bool := false)
  /-- `pos` is the bit of byte 0: 0 the start bit, 1..8 the data bits 7..0, 9 the stop bit. -/
  | arbitrationLost (pos : Fin 10)
  /-- `byte` is the byte of the frame and `pos` the bit of it at which the readback differs. -/
  | frameAbandoned (byte : Nat) (pos : Fin 10)
  | replySent
  | demandSent
  | eventFrameSent
  | stateSent
  | receiveAborted (cause : AbortCause)
  | frameRejected (frame : List Byte)
  /-- The bytes of a REPLY, EVENT, STATE or DEMAND frame (log entry 5 for DEMAND). -/
  | peerReportReceived (frame : List Byte)
  | halt (source : Address)
  /-- A COMMAND whose code is unknown or whose payload length is wrong for its code. -/
  | commandUnknown (h : CmdHeader) (code : Byte) (parameters : List Byte)
  | configureStation (h : CmdHeader) (budgetA budgetB : BitVec 16) (gates : Byte)
  | configureChannel (h : CmdHeader) (b : ChannelBytes)
  | configureBurner (h : CmdHeader) (channel : Byte) (b : BurnerBytes)
  | loadStep (h : CmdHeader) (mask slot level : Byte) (duration : BitVec 24) (endAction : Byte)
  | loadStepClear (h : CmdHeader) (mask slot : Byte)
  | start (h : CmdHeader) (mask slot : Byte) (delay : BitVec 24)
  | pause (h : CmdHeader) (mask : Byte)
  | resume (h : CmdHeader) (mask : Byte)
  /-- `order` as in `mainsFailed`, here and in the other commands that end or expire steps (R195). -/
  | stop (h : CmdHeader) (selector : Byte) (order : List Chan := [])
  | stopLast (h : CmdHeader)
  | skip (h : CmdHeader) (mask : Byte) (order : List Chan := [])
  | adjustLevelSet (h : CmdHeader) (mask : Byte) (value : BitVec 24)
  | adjustLevelAdd (h : CmdHeader) (mask : Byte) (value : BitVec 24)
  | adjustLevelSubtract (h : CmdHeader) (mask : Byte) (value : BitVec 24)
  /-- ADJUST TIME SET (target code 1, operation code 0), and an ADJUST whose target or operation code is beyond the
  table, which has no row of its own (log entry 8). -/
  | adjustTimeSet (h : CmdHeader) (mask target operation : Byte) (value : BitVec 24) (order : List Chan := [])
  | adjustTimeAdd (h : CmdHeader) (mask : Byte) (value : BitVec 24)
  | adjustTimeSubtract (h : CmdHeader) (mask : Byte) (value : BitVec 24) (order : List Chan := [])
  | query (h : CmdHeader) (mask : Byte)
  | clearFlags (h : CmdHeader)
  /-- `straps` is the level on AD3..AD0 when the reset takes effect (R16). -/
  | resetStation (h : CmdHeader) (straps : BitVec 4)
  | commandNotMatched (h : CmdHeader)
  /-- `order` as in `mainsFailed`, which this sample may bring about (R7). -/
  | zxFilterSample (level : Bool) (order : List Chan := [])
  /-- `late` as in `lineIdle`. -/
  | contendingOnIdleLine (late : Bool := false)
  deriving DecidableEq, Repr

end Sys2Proof
end

