-- ==== Sys2Proof/Machine/State.lean ====
section
/-! DEFINITION. The state of one ZTC-410 as plain data, its values after a reset, and the reasons a step could stop. -/

namespace Sys2Proof.Machine

/-- The accepted polarity of the mains (R1). -/
inductive Sign where
  | positive
  | negative
  deriving DecidableEq, Repr

/-- What an accepted crossing means (01, Time base structure). -/
inductive MtbMode where
  | measuring
  | tracking
  | missing
  deriving DecidableEq, Repr

/-- The measured mains frequency (R2). -/
inductive Frequency where
  | hz50
  | hz60
  deriving DecidableEq, Repr

/-- The mains time base (01, table of MTB state). -/
structure Mtb where
  /-- accepted sign (R1) -/
  sign : Option Sign
  /-- the sign being counted while the accepted sign is none (R1) -/
  candidate : Option Sign
  /-- filter run -/
  run : Nat
  mode : MtbMode
  /-- f -/
  frequency : Option Frequency
  windowCount : Nat
  windowSum : Nat
  /-- half-cycle events since the last second event (R4) -/
  prescaler : Nat
  /-- samples since the last accepted crossing, capped where no rule tells more apart -/
  spacing : Nat
  /-- missing-crossing timer, `none` when stopped (R5) -/
  missingTimer : Option Nat
  /-- ride-through timer, `none` when stopped (R7) -/
  rideTimer : Option Nat
  returnRun : Nat
  deriving DecidableEq, Repr

/-- The station states (01, Station states). -/
inductive StationState where
  | mainsWait
  | listen
  | active
  | rideThrough
  | safe
  deriving DecidableEq, Repr

/-- The reset that happened last (R19). -/
inductive ResetCause where
  | powerOn
  | lineReset
  deriving DecidableEq, Repr

/-- The station supervisor (R9 to R19). -/
structure Ssv where
  station : StationState
  /-- where a ride-through returns to (R11) -/
  prior : Option StationState
  listenCount : Nat
  address : Address
  clash : Bool
  clashQuiet : Nat
  powerFail : Bool
  resetCause : ResetCause
  /-- SR: energized (R14, R19) -/
  relay : Bool
  deriving DecidableEq, Repr

/-- The channel states (R45). -/
inductive ChanState where
  | idle
  | delayed
  | igniting
  | running
  | paused
  | lockout
  | disabled
  deriving DecidableEq, Repr

/-- The pause-cause set (R52, R55). -/
structure PauseCauses where
  command : Bool
  mains : Bool
  deriving DecidableEq, Repr

/-- The state a PAUSED channel returns to (R52, R55). -/
inductive ResumeTarget where
  | delayed
  | running
  | igniting
  deriving DecidableEq, Repr

/-- Why the last program ended (R33, R63). -/
inductive EndCause where
  | none
  | completed
  | stopped
  | halted
  | mains
  | drive
  | safe
  | lockout
  | falseFlame
  deriving DecidableEq, Repr

/-- The channel controller of one channel (03, What the channel controller holds). -/
structure Chc where
  state : ChanState
  causes : PauseCauses
  target : Option ResumeTarget
  endCause : EndCause
  deriving DecidableEq, Repr

/-- What happens when a step's time runs out (02, The step table). -/
inductive EndAction where
  | next
  | finish
  | hold
  deriving DecidableEq, Repr

/-- A step record; a duration of `none` is OPEN (02, The step table). -/
structure StepRecord where
  level : Nat
  duration : Option Nat
  endAction : EndAction
  deriving DecidableEq, Repr

/-- Whether the current step's timer runs (R25). -/
inductive Timing where
  | timed
  | opened
  deriving DecidableEq, Repr

/-- The program unit of one channel (02); slots hold `none` when EMPTY. -/
structure Pgu where
  slots : List (Option StepRecord)
  pointer : Slot
  current : Option Slot
  timing : Timing
  /-- remaining seconds s -/
  seconds : Nat
  /-- half-cycle phase h -/
  phase : Nat
  holding : Bool
  /-- remaining delay d -/
  delay : Nat
  deriving DecidableEq, Repr

/-- The stages of a raise-hold (R72). -/
inductive HoldStage where
  | clear
  | pendingSend
  | counting
  deriving DecidableEq, Repr

/-- What the apportionment unit holds for one channel (04). -/
structure Claim where
  /-- t -/
  target : Nat
  /-- n -/
  needed : Nat
  /-- a -/
  announced : Nat
  stage : HoldStage
  carried : Bool
  count : Nat
  /-- e -/
  settled : Nat
  /-- g -/
  grant : Nat
  /-- p -/
  paid : Nat
  /-- k -/
  ceiling : Nat
  deriving DecidableEq, Repr

/-- The supply circuits. -/
inductive Circuit where
  | a
  | b
  deriving DecidableEq, Repr

/-- One demand record (R82a). -/
structure DemandRecord where
  demand : Nat
  cls : Fin 4
  circuit : Circuit
  deriving DecidableEq, Repr

/-- A PRESENT row of the peer table (R82a). -/
structure PeerRow where
  age : Nat
  state : StationState
  records : Quad DemandRecord
  deriving DecidableEq, Repr

/-- What the apportionment unit holds for the station (04); an EMPTY row is `none`. -/
structure Apu where
  peers : List (Option PeerRow)
  interval : Nat
  ownSendAge : Nat
  /-- a DEMAND request stands; it is also the line interface's DEMAND flag (R80, R175) -/
  request : Bool
  /-- a request was made after the last DEMAND content was built (R80) -/
  requestAfterBuild : Bool
  budgetA : Nat
  budgetB : Nat
  deriving DecidableEq, Repr

/-- The element driver of one channel (05, What a driver holds). -/
structure Driver where
  /-- drive level v -/
  level : Nat
  /-- commanded output: true is ON -/
  output : Bool
  /-- A -/
  accumulator : Nat
  conducting : Bool
  /-- period state: true is RUNNING_PERIOD -/
  inPeriod : Bool
  /-- q -/
  position : Nat
  /-- u -/
  onTime : Nat
  settle : Nat
  onMismatch : Nat
  offMismatch : Nat
  suspended : Bool
  uncontrolled : Bool
  clearCount : Nat
  deriving DecidableEq, Repr

/-- Where a burner stands in ignition (06). -/
inductive IgnitionPhase where
  | none
  | queued
  | lineWait
  | spark
  | prove
  | purge
  deriving DecidableEq, Repr

/-- The ignition record and the flame record of one channel (06). -/
structure Burner where
  phase : IgnitionPhase
  attempt : Nat
  allowed : Nat
  quiet : Nat
  /-- safety accumulator -/
  safety : Nat
  /-- S as read at entry to SPARK (R132) -/
  sparkTime : Nat
  /-- T as read at entry to SPARK (R132) -/
  safetyTime : Nat
  purge : Nat
  onRun : Nat
  offRun : Nat
  falseFlame : Bool
  falseTimer : Nat
  supervising : Bool
  blankRun : Nat
  deriving DecidableEq, Repr

/-- The ignition unit's station items (06); the lockout bits stand with their channels. -/
structure Igu where
  queue : List Chan
  holder : Option Chan
  /-- SPK_EN asserted -/
  spark : Bool
  deriving DecidableEq, Repr

/-- The kinds of a channel (R182, R185). -/
inductive ChanKind where
  | notConfigured
  | unused
  | cycle
  | slow
  | burner
  deriving DecidableEq, Repr

/-- The eight burner parameters (R122). -/
structure BurnerParams where
  position : Nat
  attempts : Nat
  sparkTime : Nat
  safetyTime : Nat
  purge : Nat
  threshold : Nat
  wOn : Nat
  wOff : Nat
  deriving DecidableEq, Repr

/-- The configuration of one channel (09, What configuration holds). -/
structure ChanConfig where
  kind : ChanKind
  load : Nat
  circuit : Circuit
  cls : Fin 4
  /-- G0 in bit 0 up to G3 in bit 3 -/
  gateMask : BitVec 4
  period : Nat
  minSwitch : Nat
  burnerTaken : Bool
  params : BurnerParams
  deriving DecidableEq, Repr

/-- Everything the part holds once for each channel. -/
structure Channel where
  cfg : ChanConfig
  chc : Chc
  pgu : Pgu
  claim : Claim
  driver : Driver
  burner : Burner
  /-- position carried on DRVn of a burner channel, 0 closed (R123) -/
  valve : Nat
  gated : Bool
  /-- non-volatile (R142) -/
  lockoutBit : Bool
  deriving DecidableEq, Repr

/-- The kinds of a gate (R155). -/
inductive GateKind where
  | unused
  | thermostat
  | door
  deriving DecidableEq, Repr

/-- One gate: filtered state, run and kind (R152, R155). -/
structure Gate where
  active : Bool
  run : Nat
  kind : GateKind
  deriving DecidableEq, Repr

/-- The gate input block (07). -/
structure Gib where
  gates : Quad Gate
  mrActive : Bool
  /-- MR activation count -/
  mrOn : Nat
  /-- MR release count -/
  mrOff : Nat
  deriving DecidableEq, Repr

/-- The frame kinds a ZTC-410 sends (R165). -/
inductive SentKind where
  | reply
  | demand
  | event
  | state
  deriving DecidableEq, Repr

/-- A frame of the station's own under way. -/
structure TxFrame where
  kind : SentKind
  bytes : List Byte
  /-- event records it carries (R176) -/
  carried : Nat
  deriving DecidableEq, Repr

/-- The line as the line interface sees it (R164, R169, R181). -/
inductive LineState where
  /-- no idle seen since the reset -/
  | unseen
  | idle
  /-- the station has a frame of its own under way -/
  | sending (frame : TxFrame)
  /-- a frame is being assembled that the station offered against or abandoned its own for -/
  | receiving
  /-- a frame has ended or was discarded; nothing is taken until the idle -/
  | closed
  deriving DecidableEq, Repr

/-- The result codes (08, Codes). -/
inductive Result where
  | done
  | refusedState
  | busy
  | notConfigured
  | configClosed
  | emptySlot
  | badValue
  | lockedOut
  | unusedChannel
  | notReady
  deriving DecidableEq, Repr

/-- An entry of the REPLY queue (R190). -/
structure ReplyEntry where
  requester : Address
  code : Byte
  results : Quad Result
  deriving DecidableEq, Repr

/-- The line interface (08). -/
structure Lif where
  line : LineState
  replies : List ReplyEntry
  stateSet : List Chan
  deriving DecidableEq, Repr

/-- The event kinds (08, Codes). -/
inductive EventKind where
  | stepEnd
  | delayEnd
  | programEnd
  | driveFault
  | ignitionFail
  | flameLoss
  | lockout
  | lockoutCleared
  | door
  | mainsAbsent
  | mainsRestored
  deriving DecidableEq, Repr

/-- A record of the event queue (R193). -/
structure EventRecord where
  kind : EventKind
  channel : Option Chan
  slot : Option Slot
  parameter : Nat
  deriving DecidableEq, Repr

/-- The report unit (10). -/
structure Rpu where
  events : List EventRecord
  /-- events-lost flag -/
  lost : Bool
  deriving DecidableEq, Repr

/-- The input pins as last read. -/
structure Pins where
  /-- ZX: true is high -/
  zx : Bool
  /-- AD3..AD0 -/
  straps : BitVec 4
  inputs : InputPins
  deriving DecidableEq, Repr

/-- Everything the spec gives one station, and the queue of commands that wait for it. -/
structure State where
  mtb : Mtb
  ssv : Ssv
  chans : Quad Channel
  lastStarted : Option Chan
  apu : Apu
  igu : Igu
  gib : Gib
  lif : Lif
  rpu : Rpu
  configOpen : Bool
  stationConfigured : Bool
  /-- the supply is below the threshold: power-on reset holds (R19) -/
  held : Bool
  pins : Pins
  /-- the units that have taken the coming half-cycle by a row of their own (the model's own; log entry 2) -/
  taken : List HalfCycleUnit
  /-- SPK_SENSE as a row ahead of the crossing has read it for the coming half-cycle (the model's own; log entry 2) -/
  sparkRead : Option Bool
  /-- the coming sample instant was taken by a timer's expiry (the model's own; log entry 2) -/
  clockTaken : Bool
  /-- the event queue was empty before the latest command, so every record in it is that command's (the model's own; log
  entry 19) -/
  eventsNew : Bool
  /-- the commands waiting, first in, first out -/
  pending : List Instr
  deriving DecidableEq, Repr

/-- Why a step could stop.  The block stops on no command: the type has no constructor. -/
inductive Fault where
  deriving DecidableEq, Repr

/-- Why a command could be left without a meaning. -/
inductive Refusal where
  /-- Raised by an arm of `exec` for a command whose meaning is not written yet; safe, since nothing is claimed of it.
  No arm raises it. -/
  | notModelled (mnemonic : String)
  deriving DecidableEq, Repr

/-- R8: the time base after either reset. -/
def Mtb.reset : Mtb :=
  { sign := none, candidate := none, run := 0, mode := .measuring, frequency := none, windowCount := 0, windowSum := 0,
    prescaler := 0, spacing := 0, missingTimer := none, rideTimer := none, returnRun := 0 }

/-- R44: a program unit after either reset. -/
def Pgu.reset : Pgu :=
  { slots := List.replicate 8 none, pointer := 0, current := none, timing := .opened, seconds := 0, phase := 0,
    holding := false, delay := 0 }

/-- R98: a channel of the apportionment unit after either reset. -/
def Claim.reset : Claim :=
  { target := 0, needed := 0, announced := 0, stage := .clear, carried := false, count := 0, settled := 0, grant := 0,
    paid := 0, ceiling := 0 }

/-- R121: an element driver after either reset. -/
def Driver.reset : Driver :=
  { level := 0, output := false, accumulator := 0, conducting := false, inPeriod := false, position := 0, onTime := 0,
    settle := 0, onMismatch := 0, offMismatch := 0, suspended := false, uncontrolled := false, clearCount := 0 }

/-- R150: the ignition and flame records after either reset. -/
def Burner.reset : Burner :=
  { phase := .none, attempt := 1, allowed := 1, quiet := 0, safety := 0, sparkTime := 0, safetyTime := 0, purge := 0,
    onRun := 0, offRun := 0, falseFlame := false, falseTimer := 0, supervising := false, blankRun := 0 }

/-- R189: a channel's configuration after either reset.  The burner parameters are "not used" until taken; they stand at
the least value of each range (DESIGN CHOICE, log entry 7). -/
def ChanConfig.reset : ChanConfig :=
  { kind := .notConfigured, load := 1, circuit := .a, cls := 0, gateMask := 0, period := 10, minSwitch := 1,
    burnerTaken := false,
    params := { position := 5, attempts := 1, sparkTime := 5, safetyTime := 20, purge := 2, threshold := 1, wOn := 2,
                wOff := 2 } }

/-- R68, R143: a channel after either reset, by its lockout bit. -/
def Channel.reset (lockoutBit : Bool) : Channel :=
  { cfg := .reset,
    chc := { state := if lockoutBit then .lockout else .idle, causes := ⟨false, false⟩, target := none, endCause := .none },
    pgu := .reset, claim := .reset, driver := .reset, burner := .reset, valve := 0, gated := false,
    lockoutBit := lockoutBit }

/-- R162: the gate input block after either reset. -/
def Gib.reset : Gib :=
  { gates := .fill { active := false, run := 0, kind := .unused }, mrActive := false, mrOn := 0, mrOff := 0 }

/-- R98, R189: the station items of the apportionment unit after either reset. -/
def Apu.reset : Apu :=
  { peers := List.replicate 16 none, interval := 0, ownSendAge := 0, request := false, requestAfterBuild := false,
    budgetA := 0, budgetB := 0 }

/-- The station right after a reset: every volatile item at the value its chapter gives for both resets (R8, R19, R44,
R68, R98, R121, R150, R162, R181, R189, R198); the reset cause, the power-fail latch, the straps read, the lockout bits
and the waiting commands are given. -/
def State.afterReset (cause : ResetCause) (powerFail : Bool) (lockoutBits : Quad Bool) (pins : Pins)
    (pending : List Instr) : State :=
  { mtb := .reset,
    ssv := { station := .mainsWait, prior := none, listenCount := 0, address := pins.straps, clash := false,
             clashQuiet := 4, powerFail := powerFail, resetCause := cause, relay := true },
    chans := .ofFn fun c => .reset (lockoutBits.get c),
    lastStarted := none,
    apu := .reset,
    igu := { queue := [], holder := none, spark := false },
    gib := .reset,
    lif := { line := .unseen, replies := [], stateSet := [] },
    rpu := { events := [], lost := false },
    configOpen := true, stationConfigured := false, held := false,
    pins := pins, taken := [], sparkRead := none, clockTaken := false, eventsNew := false, pending := pending }

/-- The pins before anything has been read: contacts open, button released, no flame, no spark, straps and ZX low
(DESIGN CHOICE, log entry 6). -/
def Pins.quiet : Pins :=
  { zx := false, straps := 0,
    inputs := { gates := .fill false, mr := true, sense := .fill false, flame := .fill 0, spark := false } }

/-- The machine right after power-on reset, with no lockout bit set and the straps at 0 (DESIGN CHOICE, log entry 6). -/
def State.reset : State := .afterReset .powerOn true (.fill false) .quiet []

end Sys2Proof.Machine
end

