-- ==== Sys2Proof/Machine/Operands.lean ====
section
/-! DEFINITION. How the raw fields of a command are read: masks, designations, codes and clamps (08, Frame and parameter
layouts; 02, R23; 09, R184, R185, R187), and the times that follow from the measured frequency. -/

namespace Sys2Proof.Machine

/-- f as a number; 0 while no frequency is measured, when no rule reads it (log entry 9). -/
def hertz (f : Option Frequency) : Nat :=
  match f with
  | none => 0
  | some .hz50 => 50
  | some .hz60 => 60

/-- Half-cycles in a second, 2f. -/
def perSecond (f : Option Frequency) : Nat := 2 * hertz f

/-- A channel mask byte names channel n by bit n; bits 7..4 are not read (R179). -/
def maskNames (mask : Byte) (c : Chan) : Bool := mask.getLsbD c.val

/-- A gate mask names gate Gn by bit n (R185). -/
def gateInMask (mask : BitVec 4) (g : Fin 4) : Bool := mask.getLsbD g.val

/-- `n` brought into `lo..hi`. -/
def clamp (lo hi n : Nat) : Nat := max lo (min hi n)

/-- The slot designation of a LOAD_STEP (R22, R179). -/
inductive SlotDesignation where
  | slot (n : Slot)
  | atPointer
  deriving DecidableEq, Repr

/-- A slot number 0..7, or nothing (R34). -/
def slotOfByte (b : Byte) : Option Slot :=
  if h : b.toNat < 8 then some ⟨b.toNat, h⟩ else none

/-- A slot number 0..7, 0Fh for AT_POINTER, or nothing (R23, R179). -/
def slotDesignation (b : Byte) : Option SlotDesignation :=
  if b = 0x0F then some .atPointer else (slotOfByte b).map .slot

/-- The end action codes (R23, R179); FFh is CLEAR and no end action. -/
def endActionOfByte (b : Byte) : Option EndAction :=
  match b.toNat with
  | 0 => some .next
  | 1 => some .finish
  | 2 => some .hold
  | _ => none

/-- A duration field: 0 is OPEN, above 86,399 is 86,399 (R23). -/
def durationOfField (d : BitVec 24) : Option Nat :=
  if d.toNat = 0 then none else some (min d.toNat Config.maxSeconds)

/-- A delay field, clamped to 86,399 (R34). -/
def delayOfField (d : BitVec 24) : Nat := min d.toNat Config.maxSeconds

/-- The highest level of a channel's kind (R20).  It goes by the kind a channel holds, for a BURNER whose burner
parameters are not taken as well (DESIGN CHOICE, log entry 21). -/
def levelMax (kind : ChanKind) : Nat :=
  match kind with
  | .burner => 9
  | .notConfigured | .unused | .cycle | .slow => 100

/-- The channel kind codes (08, Codes). -/
def kindOfByte (b : Byte) : Option ChanKind :=
  match b.toNat with
  | 0 => some .unused
  | 1 => some .cycle
  | 2 => some .slow
  | 3 => some .burner
  | _ => none

/-- The gate kind codes (08, Codes); 3 is none. -/
def gateKindOfCode (n : Nat) : Option GateKind :=
  match n with
  | 0 => some .unused
  | 1 => some .thermostat
  | 2 => some .door
  | _ => none

/-- The four two-bit gate fields of CONFIGURE_STATION, G0 in bits 1..0, or nothing where one holds 3 (R184). -/
def gateKindsOfByte (b : Byte) : Option (Quad GateKind) :=
  match gateKindOfCode (b.toNat % 4), gateKindOfCode (b.toNat / 4 % 4), gateKindOfCode (b.toNat / 16 % 4),
    gateKindOfCode (b.toNat / 64 % 4) with
  | some g0, some g1, some g2, some g3 => some ⟨g0, g1, g2, g3⟩
  | _, _, _, _ => none

/-- A channel field 0..3, or nothing (R183 step 3). -/
def chanOfByte (b : Byte) : Option Chan :=
  if h : b.toNat < 4 then some ⟨b.toNat, h⟩ else none

/-- A budget field, clamped to 4095 (R184). -/
def budgetOfField (b : BitVec 16) : Nat := min b.toNat 4095

/-- The circuit of the packed byte of CONFIGURE_CHANNEL: bit 7 (R185). -/
def circuitOfByte (b : Byte) : Circuit := if b.getLsbD 7 then .b else .a

/-- The class of the packed byte: bits 5..4 (R185). -/
def classOfByte (b : Byte) : Fin 4 := ⟨b.toNat / 16 % 4, Nat.mod_lt _ (by decide)⟩

/-- The slow minimum switch time: clamped to 1..15, then to a quarter of the stored period (R185). -/
def minSwitchOf (period : Nat) (b : Byte) : Nat := min (clamp 1 15 b.toNat) (period / 4)

/-- CYCLE or SLOW: an element channel. -/
def ChanKind.isElement (k : ChanKind) : Bool :=
  match k with
  | .cycle | .slow => true
  | .notConfigured | .unused | .burner => false

/-- The configuration CONFIGURE_CHANNEL stores for the kind `k` (R185); burner parameters stay as they are (R182). -/
def channelConfigOf (old : ChanConfig) (k : ChanKind) (b : ChannelBytes) : ChanConfig :=
  { old with
    kind := k
    load := clamp 1 1023 b.load.toNat
    circuit := circuitOfByte b.packed
    cls := classOfByte b.packed
    gateMask := if k.isElement then b.packed.setWidth 4 else 0
    period := clamp 10 60 b.period.toNat
    minSwitch := minSwitchOf (clamp 10 60 b.period.toNat) b.minSwitch }

/-- The parameters CONFIGURE_BURNER stores (R187). -/
def burnerParamsOf (b : BurnerBytes) : BurnerParams :=
  { position := clamp 5 9 b.position.toNat
    attempts := clamp 1 3 b.attempts.toNat
    sparkTime := clamp 5 30 b.sparkTime.toNat
    safetyTime := max (clamp 20 100 b.safetyTime.toNat) (clamp 5 30 b.sparkTime.toNat + 10)
    purge := clamp 2 30 b.purge.toNat
    threshold := clamp 1 15 b.threshold.toNat
    wOn := clamp 2 16 b.wOn.toNat
    wOff := clamp 2 16 b.wOff.toNat }

/-- S: the spark time in half-cycles (R122). -/
def sparkHalfCycles (f : Option Frequency) (p : BurnerParams) : Nat := p.sparkTime * hertz f / 5

/-- T: the safety time in half-cycles (R122). -/
def safetyHalfCycles (f : Option Frequency) (p : BurnerParams) : Nat := p.safetyTime * hertz f / 5

/-- P: the period of a SLOW channel in half-cycles (R105). -/
def slowPeriod (f : Option Frequency) (cfg : ChanConfig) : Nat := cfg.period * perSecond f

/-- M: the minimum switch time of a SLOW channel in half-cycles (R105). -/
def slowMinSwitch (f : Option Frequency) (cfg : ChanConfig) : Nat := cfg.minSwitch * perSecond f

/-- The target of an ADJUST. -/
inductive AdjustTarget where
  | level
  | time
  deriving DecidableEq, Repr

/-- The operation of an ADJUST. -/
inductive AdjustOperation where
  | set
  | add
  | subtract
  deriving DecidableEq, Repr

/-- Target codes: 0 LEVEL, 1 TIME (08, COMMAND frames). -/
def adjustTargetOfByte (b : Byte) : Option AdjustTarget :=
  match b.toNat with
  | 0 => some .level
  | 1 => some .time
  | _ => none

/-- Operation codes: 0 SET, 1 ADD, 2 SUBTRACT (08, COMMAND frames). -/
def adjustOperationOfByte (b : Byte) : Option AdjustOperation :=
  match b.toNat with
  | 0 => some .set
  | 1 => some .add
  | 2 => some .subtract
  | _ => none

/-- The level an ADJUST LEVEL writes (R37). -/
def adjustedLevel (kind : ChanKind) (op : AdjustOperation) (old v : Nat) : Nat :=
  match op with
  | .set => min v (levelMax kind)
  | .add => min (old + v) (levelMax kind)
  | .subtract => old - v

/-- The station matches a COMMAND when every address bit its mask selects agrees with the target (R171). -/
def addressMatches (own : Address) (h : CmdHeader) : Bool := (own ^^^ h.target) &&& h.mask == 0

end Sys2Proof.Machine
end

