-- ==== Sys2Proof/Machine/Flags.lean ====
section
/-! DEFINITION. The conditions that rules read off the state: whether a channel has a program, is ready or gated, whether
the station is starved, and the flags and codes that frames carry. -/

namespace Sys2Proof.Machine

/-- A channel has a program while it is DELAYED, IGNITING, RUNNING or PAUSED (03). -/
def ChanState.hasProgram (st : ChanState) : Bool :=
  match st with
  | .delayed | .igniting | .running | .paused => true
  | .idle | .lockout | .disabled => false

/-- The record in slot `n`, `none` when EMPTY. -/
def Pgu.slotAt (p : Pgu) (n : Slot) : Option StepRecord := (p.slots[n.val]?).join

/-- The record of the current slot. -/
def Pgu.currentRecord (p : Pgu) : Option StepRecord := p.current.bind p.slotAt

/-- The level in force: the level field of the record in the current slot (02), 0 without a program. -/
def Pgu.level (p : Pgu) : Nat := (p.currentRecord.map StepRecord.level).getD 0

/-- The end action of the record in the current slot. -/
def Pgu.endAction (p : Pgu) : EndAction := (p.currentRecord.map StepRecord.endAction).getD .next

/-- The station is starved while its own-send age is 2 (R81). -/
def starved (s : State) : Bool := s.apu.ownSendAge == 2

/-- The conditions under which every element ceiling of the station is 0 (R89). -/
def ceilingsBarred (s : State) : Bool := s.ssv.station != .active || starved s || s.ssv.clash

/-- The channel counts as configured (R182). -/
def ChanConfig.configured (cfg : ChanConfig) : Bool :=
  match cfg.kind with
  | .notConfigured => false
  | .burner => cfg.burnerTaken
  | .unused | .cycle | .slow => true

/-- A gate is gating while its kind is THERMOSTAT or DOOR and its filtered state is ACTIVE (R155). -/
def Gate.gating (g : Gate) : Bool := g.active && g.kind != .unused

/-- The gated condition of a channel (R156): its kind is an element's and a gate of its mask is gating. -/
def gatedBy (gates : Quad Gate) (cfg : ChanConfig) : Bool :=
  cfg.kind.isElement && allChans.any fun g => gateInMask cfg.gateMask g && (gates.get g).gating

/-- The channel is a burner RUNNING on a step at position 1..9. -/
def Channel.lit (ch : Channel) : Bool := ch.chc.state == .running && ch.cfg.kind == .burner && 0 < ch.pgu.level

/-- Half-cycle events are issued (R3). -/
def tracking (s : State) : Bool := s.mtb.mode == .tracking

/-! ### Codes of the frames (08, Codes) -/

/-- The code of a station state. -/
def StationState.code (st : StationState) : Nat :=
  match st with
  | .mainsWait => 0
  | .listen => 1
  | .active => 2
  | .rideThrough => 3
  | .safe => 4

/-- The station state of a peer's DEMAND that is written into the table: a code 1..4 (R82a). -/
def peerStateOfCode (n : Nat) : Option StationState :=
  match n with
  | 1 => some .listen
  | 2 => some .active
  | 3 => some .rideThrough
  | 4 => some .safe
  | _ => none

/-- The code of a channel state. -/
def ChanState.code (st : ChanState) : Nat :=
  match st with
  | .idle => 0
  | .delayed => 1
  | .igniting => 2
  | .running => 3
  | .paused => 4
  | .lockout => 5
  | .disabled => 6

/-- The code of an ignition phase. -/
def IgnitionPhase.code (p : IgnitionPhase) : Nat :=
  match p with
  | .none => 0
  | .queued => 1
  | .lineWait => 2
  | .spark => 3
  | .prove => 4
  | .purge => 5

/-- The code of an end cause. -/
def EndCause.code (e : EndCause) : Nat :=
  match e with
  | .none => 0
  | .completed => 1
  | .stopped => 2
  | .halted => 3
  | .mains => 4
  | .drive => 5
  | .safe => 6
  | .lockout => 7
  | .falseFlame => 8

/-- The code of a result. -/
def Result.code (r : Result) : Nat :=
  match r with
  | .done => 0
  | .refusedState => 1
  | .busy => 2
  | .notConfigured => 3
  | .configClosed => 4
  | .emptySlot => 5
  | .badValue => 6
  | .lockedOut => 7
  | .unusedChannel => 8
  | .notReady => 9

/-- The code of an event kind. -/
def EventKind.code (k : EventKind) : Nat :=
  match k with
  | .stepEnd => 0
  | .delayEnd => 1
  | .programEnd => 2
  | .driveFault => 3
  | .ignitionFail => 4
  | .flameLoss => 5
  | .lockout => 6
  | .lockoutCleared => 7
  | .door => 8
  | .mainsAbsent => 9
  | .mainsRestored => 10

/-- The STEP_END parameter of an end action: 0 NEXT, 1 END, 2 HOLD. -/
def EndAction.code (a : EndAction) : Nat :=
  match a with
  | .next => 0
  | .finish => 1
  | .hold => 2

/-- The code of a reset cause. -/
def ResetCause.code (r : ResetCause) : Nat :=
  match r with
  | .powerOn => 0
  | .lineReset => 1

/-- The circuit bit of a DEMAND record. -/
def Circuit.code (c : Circuit) : Nat :=
  match c with
  | .a => 0
  | .b => 1

/-- The kind code of a frame the station sends (R165). -/
def SentKind.code (k : SentKind) : Nat :=
  match k with
  | .reply => 2
  | .demand => 3
  | .event => 4
  | .state => 5

/-- A flag as a bit. -/
def bit (b : Bool) : Nat := if b then 1 else 0

/-- A slot or none, as frames carry it: 0Fh for none. -/
def slotCode (n : Option Slot) : Nat := (n.map Fin.val).getD 15

/-- A channel or none, as frames carry it: 0Fh for none. -/
def chanCode (c : Option Chan) : Nat := (c.map Fin.val).getD 15

/-- The station byte of a DEMAND: state in bits 2..0, STARVED in bit 3, SAFE in bit 4 (R75). -/
def stationByte (s : State) : Byte :=
  BitVec.ofNat 8 (s.ssv.station.code + 8 * bit (starved s) + 16 * bit (s.ssv.station == .safe))

/-- Payload byte 10 of a STATE frame: power-fail, events-lost, clash, starved (08, Frames sent). -/
def flagsByte (s : State) : Byte :=
  BitVec.ofNat 8 (bit s.ssv.powerFail + 2 * bit s.rpu.lost + 4 * bit s.ssv.clash + 8 * bit (starved s))

/-- The remaining seconds a STATE frame reports (R43). -/
def reportedSeconds (ch : Channel) : Nat :=
  if ch.chc.state = .delayed ∨ (ch.chc.state = .paused ∧ ch.chc.target = some .delayed) then ch.pgu.delay
  else if ch.chc.state.hasProgram then ch.pgu.seconds
  else 0

end Sys2Proof.Machine
end

