-- ==== Sys2Proof/Machine/Ops.lean ====
section
/-! DEFINITION. The named operations over the parts of the state that every block uses: one channel, the event queue, the
DEMAND request, the ignition unit's holder, a frame's arrival, and the reset of the station. -/

namespace Sys2Proof.Machine

/-- The channel of number `c`. -/
def State.chan (s : State) (c : Chan) : Channel := s.chans.get c

/-- Channel `c` replaced. -/
def State.setChan (s : State) (c : Chan) (ch : Channel) : State := { s with chans := s.chans.set c ch }

/-- Channel `c` changed by `f`. -/
def State.mapChan (s : State) (c : Chan) (f : Channel → Channel) : State := s.setChan c (f (s.chan c))

/-- Every channel changed by `f`. -/
def mapChans (f : Channel → Channel) (s : State) : State := { s with chans := .ofFn fun c => f (s.chan c) }

/-- `f` done for each channel in rising order. -/
def forChans (f : Chan → State → State) (s : State) : State := f 3 (f 2 (f 1 (f 0 s)))

/-- A raised event joins the tail of the queue, or is discarded with the events-lost flag set where the queue is full
(R193, R194). -/
def raise (e : EventRecord) (s : State) : State :=
  if s.rpu.events.length < Config.eventCapacity then { s with rpu := { s.rpu with events := s.rpu.events ++ [e] } }
  else { s with rpu := { s.rpu with lost := true } }

/-- An event of a channel that names its current slot as it is now (R193). -/
def raiseFor (c : Chan) (k : EventKind) (parameter : Nat) (s : State) : State :=
  raise { kind := k, channel := some c, slot := (s.chan c).pgu.current, parameter := parameter } s

/-! ### Events that several channels raise together -/

/-- The report unit set aside: what is raised from here on is collected apart from its queue. -/
def setAside (s : State) : State := { s with rpu := { events := [], lost := false } }

/-- Records that the units of several channels raised together, in the order in which the report unit takes them: `order`
names the channels whose turn it is, one record a turn, and the rest follow as they were raised (R195).  The records of
one channel keep their order (R193). -/
def inTurn (order : List Chan) (es : List EventRecord) : List EventRecord :=
  match order with
  | [] => es
  | c :: rest =>
    (es.find? fun e => e.channel == some c).toList ++ inTurn rest (es.eraseP fun e => e.channel == some c)

/-- The records collected in `t` since `s` was set aside reach the report unit of `s` (R194, R195). -/
def raiseInTurn (order : List Chan) (s t : State) : State :=
  (inTurn order t.rpu.events).foldl (fun u e => raise e u) { t with rpu := s.rpu }

/-- A DEMAND request is made (R80); none is made in MAINS_WAIT. -/
def makeRequest (s : State) : State :=
  if s.ssv.station = .mainsWait then s
  else { s with apu := { s.apu with request := true, requestAfterBuild := true } }

/-- The DEMAND request is withdrawn, on entry to MAINS_WAIT (R80). -/
def withdrawRequest (s : State) : State :=
  { s with apu := { s.apu with request := false, requestAfterBuild := false } }

/-- Every row of the peer table becomes EMPTY (R84). -/
def emptyPeers (s : State) : State := { s with apu := { s.apu with peers := List.replicate 16 none } }

/-- The power-on reset holds: every output is inactive (R19). -/
def inactiveOutputs (s : State) : State :=
  { s with
    chans := .ofFn fun c => { s.chan c with driver := { (s.chan c).driver with output := false }, valve := 0 }
    igu := { s.igu with spark := false }
    ssv := { s.ssv with relay := false }
    lif := { s.lif with line := .unseen }
    held := true }

/-- The lockout bits, which no reset touches (R142). -/
def lockoutBits (s : State) : Quad Bool := .ofFn fun c => (s.chan c).lockoutBit

/-- Either reset (R8, R19, R44, R68, R98, R121, R150, R162, R181, R189, R198): the straps are read anew, the lockout
bits are kept, the power-fail latch is set by power-on reset and kept by RESET_STATION.  The sender's queue is no part
of the block. -/
def resetAll (cause : ResetCause) (straps : BitVec 4) (s : State) : State :=
  .afterReset cause (cause == .powerOn || s.ssv.powerFail) (lockoutBits s) { s.pins with straps := straps } s.pending

/-- What a command does to the block while it is powered; nothing reaches a block that power-on reset holds (R19).  It is
noted whether the event queue was empty before it (R197, log entry 19). -/
def live (f : State → State) (s : State) : Host.Outcome State Fault Refusal :=
  .next (if s.held then s else { f s with eventsNew := s.rpu.events.isEmpty })

/-- `f` where the event of a row can arise, nothing where it cannot (log entry 1). -/
def onlyIf (p : Bool) (f : State → State) (s : State) : State := if p then f s else s

end Sys2Proof.Machine
end

