-- ==== Sys2Proof/Machine/Apportion.lean ====
section
/-! DEFINITION. The apportionment unit (04): demands and raise-holds, the division of a circuit's budget, ceilings, and
the recomputation, with the drive level that follows a ceiling (05, R100, R106, R108). -/

namespace Sys2Proof.Machine

/-- The target level of a channel (R69). -/
def targetLevel (station : StationState) (ch : Channel) : Nat :=
  if ch.cfg.kind.isElement ∧ ch.chc.state = .running ∧ ¬ ch.gated ∧ station = .active then ch.pgu.level else 0

/-- The power that pays for level `t` at rated load `load`: rounded up (R70). -/
def demandFor (load t : Nat) : Nat := (load * t + 99) / 100

/-- The needed demand of a channel (R70, R71). -/
def neededDemand (station : StationState) (ch : Channel) : Nat :=
  if ch.driver.uncontrolled then ch.cfg.load
  else if ch.cfg.kind.isElement then demandFor ch.cfg.load (targetLevel station ch)
  else 0

/-- The lowering (R73) or raise (R74) that the needed demand `n` calls for, and whether it is a raise. -/
def demandChange (n : Nat) (k : Claim) : Claim × Bool :=
  if n < k.announced then ({ k with announced := n, settled := min k.settled n }, false)
  else if k.announced < n then ({ k with announced := n, stage := .pendingSend, carried := false, count := 0 }, true)
  else (k, false)

/-- Stages 1 and 2 of a recomputation for one channel (R91), and whether its demand was raised. -/
def declareDemand (station : StationState) (ch : Channel) : Channel × Bool :=
  let k : Claim := { ch.claim with target := targetLevel station ch, needed := neededDemand station ch }
  ({ ch with claim := (demandChange k.needed k).1 }, (demandChange k.needed k).2)

/-- The class a channel's own record is announced and divided in: class 0 for an uncontrolled record (R71, R85) and for
a channel that is not configured (R75, R182). -/
def ownClass (ch : Channel) : Fin 4 := if ch.driver.uncontrolled || !ch.cfg.configured then 0 else ch.cfg.cls

/-- The circuit of a channel's own record: circuit A for a channel that is not configured (R75, R182). -/
def ownCircuit (ch : Channel) : Circuit := if ch.cfg.configured then ch.cfg.circuit else .a

/-- A channel's own demand record (R75, R85). -/
def ownRecord (ch : Channel) : DemandRecord := ⟨ch.claim.announced, ownClass ch, ownCircuit ch⟩

/-- A PRESENT row whose records are taken into the division: reported ACTIVE, RIDE_THROUGH or SAFE (R85). -/
def PeerRow.divided (r : PeerRow) : Bool :=
  match r.state with
  | .active | .rideThrough | .safe => true
  | .mainsWait | .listen => false

/-- The four records of a row. -/
def PeerRow.recordList (r : PeerRow) : List DemandRecord := [r.records.c0, r.records.c1, r.records.c2, r.records.c3]

/-- The records that take part in the division of circuit `C` (R85). -/
def circuitRecords (C : Circuit) (chans : Quad Channel) (peers : List (Option PeerRow)) : List DemandRecord :=
  (allChans.map (fun c => ownRecord (chans.get c)) ++
    peers.flatMap (fun row => match row with
      | some r => if r.divided then r.recordList else []
      | none => [])).filter fun d => decide (0 < d.demand) && d.circuit == C

/-- T_k: the sum of the demands in class `k` (R86). -/
def classTotal (recs : List DemandRecord) (k : Nat) : Nat :=
  ((recs.filter fun d => d.cls.val == k).map DemandRecord.demand).sum

/-- The remainder R that class `k` meets, when the budget is divided class by class (R86). -/
def remainder (budget : Nat) (recs : List DemandRecord) (k : Nat) : Nat :=
  match k with
  | 0 => budget
  | k + 1 =>
    if classTotal recs k ≤ remainder budget recs k then remainder budget recs k - classTotal recs k else 0

/-- The grant of a record: whole where its class fits, else its floor-rounded share (R86). -/
def grantOf (budget : Nat) (recs : List DemandRecord) (d : DemandRecord) : Nat :=
  if classTotal recs d.cls.val ≤ remainder budget recs d.cls.val then d.demand
  else d.demand * remainder budget recs d.cls.val / classTotal recs d.cls.val

/-- The budget of a circuit. -/
def Apu.budget (a : Apu) (C : Circuit) : Nat :=
  match C with
  | .a => a.budgetA
  | .b => a.budgetB

/-- The grant a channel keeps: that of its record, 0 where it announces nothing (R86). -/
def channelGrant (a : Apu) (chans : Quad Channel) (ch : Channel) : Nat :=
  if ch.claim.announced = 0 then 0
  else grantOf (a.budget (ownCircuit ch)) (circuitRecords (ownCircuit ch) chans a.peers) (ownRecord ch)

/-- The level that the power `g` pays for at rated load `load` (R87, R88). -/
def levelPaidBy (g load : Nat) : Nat := g * 100 / load

/-- Stages 3 to 5 of a recomputation for one channel: grant, paid level and ceiling (R86 to R90). -/
def settleClaim (barred : Bool) (grant : Nat) (ch : Channel) : Claim :=
  let paid := min ch.claim.target (levelPaidBy grant ch.cfg.load)
  { ch.claim with
    grant := grant
    paid := paid
    ceiling := if barred then 0 else min paid (levelPaidBy ch.claim.settled ch.cfg.load) }

/-- The on-time u of a SLOW period of `P` half-cycles at drive level `v`, with minimum switch time `M` (R106). -/
def slowOnTime (P M v : Nat) : Nat :=
  let u := P * v / 100
  if 0 < u ∧ u < M then 0 else if 0 < P - u ∧ P - u < M then P - M else u

/-- The level a driver may drive at now: the ceiling, or 0 when the channel is not RUNNING or is gated (R100). -/
def driveLimit (ch : Channel) : Nat := if ch.chc.state = .running ∧ ¬ ch.gated then ch.claim.ceiling else 0

/-- A driver takes a change of ceiling, channel state or gating that reaches it between half-cycle events (R100, R101):
a CYCLE channel follows the ceiling, a SLOW channel follows a fall at once, with a new on-time (R108), and waits with a
rise (R109). -/
def followCeiling (f : Option Frequency) (ch : Channel) : Driver :=
  if ch.chc.state = .lockout then ch.driver
  else
    match ch.cfg.kind with
    | .cycle => { ch.driver with level := driveLimit ch }
    | .slow =>
      if ch.chc.state ≠ .running then { ch.driver with level := 0 }
      else if driveLimit ch < ch.driver.level then
        { ch.driver with
          level := driveLimit ch
          onTime := slowOnTime (slowPeriod f ch.cfg) (slowMinSwitch f ch.cfg) (driveLimit ch) }
      else ch.driver
    | .notConfigured | .unused | .burner => ch.driver

/-- The channel after stages 3 to 5, with its driver following. -/
def settleChannel (f : Option Frequency) (barred : Bool) (a : Apu) (chans : Quad Channel) (ch : Channel) : Channel :=
  let ch1 := { ch with claim := settleClaim barred (channelGrant a chans ch) ch }
  { ch1 with driver := followCeiling f ch1 }

/-- Stages 1 and 2 for all four channels, with the DEMAND request of a raise (R73, R74). -/
def declareDemands (s : State) : State :=
  let s1 : State := { s with chans := .ofFn fun c => (declareDemand s.ssv.station (s.chan c)).1 }
  if allChans.any fun c => (declareDemand s.ssv.station (s.chan c)).2 then makeRequest s1 else s1

/-- The recomputation (R91): target levels and needed demands, lowerings and raises, the division, paid levels and
ceilings, for all four channels together; the drivers take the ceilings (R92, R100). -/
def recompute (s : State) : State :=
  let s1 := declareDemands s
  { s1 with
    chans := .ofFn fun c => settleChannel s1.mtb.frequency (ceilingsBarred s1) s1.apu s1.chans (s1.chan c) }

/-- Every hold becomes CLEAR with the settled demand equal to the announced demand (R78). -/
def clearHolds (s : State) : State :=
  { s with
    chans := .ofFn fun c =>
      { s.chan c with
        claim := { (s.chan c).claim with
          stage := .clear, carried := false, count := 0, settled := (s.chan c).claim.announced } } }

/-! ### The demand interval, the holds and the peer table -/

/-- A PRESENT row at an interval event: its age grows, and at 4 the row is removed (R83). -/
def agedRow (row : Option PeerRow) : Option PeerRow :=
  match row with
  | none => none
  | some r => if r.age + 1 < 4 then some { r with age := r.age + 1 } else none

/-- Whether an interval event removes the row (R83). -/
def rowExpires (row : Option PeerRow) : Bool :=
  match row with
  | none => false
  | some r => decide (4 ≤ r.age + 1)

/-- The interval event ages the peer table; the unit recomputes if a row was removed (R83). -/
def agePeers (s : State) : State :=
  let s1 : State := { s with apu := { s.apu with peers := s.apu.peers.map agedRow } }
  if s.apu.peers.any rowExpires then recompute s1 else s1

/-- The interval event adds 1 to the own-send age, up to 2; the unit recomputes when starvation begins (R81). -/
def ageOwnSend (s : State) : State :=
  let s1 : State := { s with apu := { s.apu with ownSendAge := min 2 (s.apu.ownSendAge + 1) } }
  if s.apu.ownSendAge = 1 then recompute s1 else s1

/-- The third interval event of LISTEN takes the station to ACTIVE, and the unit recomputes (R10). -/
def becomeActive (s : State) : State :=
  recompute { s with ssv := { s.ssv with listenCount := 3, station := .active } }

/-- The interval event counts towards LISTEN's end (R10). -/
def countListen (s : State) : State :=
  if s.ssv.station = .listen then
    if s.ssv.listenCount + 1 < 3 then { s with ssv := { s.ssv with listenCount := s.ssv.listenCount + 1 } }
    else becomeActive s
  else s

/-- The interval event counts towards the clash-quiet count, up to 4 (R17). -/
def countClashQuiet (s : State) : State :=
  { s with ssv := { s.ssv with clashQuiet := min 4 (s.ssv.clashQuiet + 1) } }

/-- The interval event: the four things of R79. -/
def takeInterval (s : State) : State := countClashQuiet (countListen (makeRequest (ageOwnSend (agePeers s))))

/-- The apportionment unit counts an accepted half-cycle into the demand interval (R79). -/
def intervalShare (s : State) : State :=
  if s.apu.interval + 1 < Config.intervalLength then { s with apu := { s.apu with interval := s.apu.interval + 1 } }
  else takeInterval { s with apu := { s.apu with interval := 0 } }

/-- A hold ends: CLEAR, the settled demand becomes the announced demand, and the unit recomputes (R77). -/
def clearHold (c : Chan) (s : State) : State :=
  recompute (s.mapChan c fun ch =>
    { ch with claim := { ch.claim with stage := .clear, count := 0, settled := ch.claim.announced } })

/-- A half-cycle on a COUNTING hold (R77). -/
def holdShare (c : Chan) (s : State) : State :=
  if (s.chan c).claim.stage = .counting then
    if 1 < (s.chan c).claim.count then
      s.mapChan c fun ch => { ch with claim := { ch.claim with count := ch.claim.count - 1 } }
    else clearHold c s
  else s

/-- The contents of a peer's DEMAND are written whole into its row, and the unit recomputes; in MAINS_WAIT, in a SAFE
station that is measuring, from the own address, and with a station code that is no station state but MAINS_WAIT's, they
are not (R82a). -/
def writePeer (p : Address) (stationCode : Nat) (records : Quad DemandRecord) (s : State) : State :=
  match peerStateOfCode stationCode with
  | none => s
  | some st =>
    if s.ssv.station = .mainsWait ∨ (s.ssv.station = .safe ∧ s.mtb.mode = .measuring) ∨ p = s.ssv.address then s
    else recompute { s with apu := { s.apu with peers := s.apu.peers.set p.toNat (some ⟨0, st, records⟩) } }

/-- A channel's hold when a DEMAND completes (R76). -/
def completedHold (f : Option Frequency) (k : Claim) : Claim :=
  if k.stage = .pendingSend ∧ k.carried then { k with stage := .counting, count := perSecond f }
  else k

/-- A DEMAND frame has completed transmission (R76, R80, R81). -/
def demandCompleted (s : State) : State :=
  let s1 : State :=
    { s with
      chans := .ofFn fun c => { s.chan c with claim := completedHold s.mtb.frequency (s.chan c).claim }
      apu := { s.apu with ownSendAge := 0, request := s.apu.requestAfterBuild } }
  if starved s then recompute s1 else s1

/-- A unit's share of the coming half-cycle can be taken by a row of its own: half-cycles are issued and the unit has not
taken it yet (log entry 2). -/
def mayTake (u : HalfCycleUnit) (s : State) : Bool := tracking s && !(s.taken.contains u)

/-- The coming half-cycle brings an interval event that has not been taken. -/
def intervalDue (s : State) : Bool := mayTake .interval s && s.apu.interval + 1 == Config.intervalLength

end Sys2Proof.Machine
end

