-- ==== Sys2Proof/Machine/Frames.lean ====
section
/-! DEFINITION. The frames of the zone line (08): the layouts of the frames a station sends, the check byte, and the
checks and fields of a received frame. -/

namespace Sys2Proof.Machine

/-- The sum of bytes modulo 256 (R165). -/
def byteSum (bs : List Byte) : Byte := bs.foldl (· + ·) 0

/-- A frame: kind and source, payload length, payload, check byte (R165). -/
def makeFrame (kind : Nat) (source : Address) (payload : List Byte) : List Byte :=
  let front := BitVec.ofNat 8 (kind * 16 + source.toNat) :: BitVec.ofNat 8 payload.length :: payload
  front ++ [0xFF - byteSum front]

/-- The payload of a REPLY (08, Frames sent). -/
def replyPayload (e : ReplyEntry) : List Byte :=
  [BitVec.ofNat 8 e.requester.toNat, e.code,
   BitVec.ofNat 8 (e.results.c0.code * 16 + e.results.c1.code),
   BitVec.ofNat 8 (e.results.c2.code * 16 + e.results.c3.code)]

/-- The two bytes of a demand record: demand bits 9..2; demand bits 1..0, class, circuit (08, Frames sent). -/
def demandBytes (d : DemandRecord) : List Byte :=
  [BitVec.ofNat 8 (d.demand / 4), BitVec.ofNat 8 (d.demand % 4 * 64 + d.cls.val * 16 + d.circuit.code * 8)]

/-- The payload of a DEMAND, read from the state now (R75). -/
def demandPayload (s : State) : List Byte :=
  allChans.flatMap (fun c => demandBytes (ownRecord (s.chan c))) ++ [stationByte s]

/-- The three bytes of an event record (08, Frames sent). -/
def eventBytes (e : EventRecord) : List Byte :=
  [BitVec.ofNat 8 (e.kind.code * 16 + chanCode e.channel), BitVec.ofNat 8 (slotCode e.slot), BitVec.ofNat 8 e.parameter]

/-- The payload of an EVENT frame (R176). -/
def eventPayload (es : List EventRecord) : List Byte := es.flatMap eventBytes

/-- The payload of a STATE frame for channel `c`, read from the state now (R192; 08, Frames sent). -/
def statePayload (s : State) (c : Chan) : List Byte :=
  let ch := s.chan c
  let burning := ch.cfg.kind == .burner && ch.chc.state == .igniting
  let seconds := reportedSeconds ch
  [BitVec.ofNat 8 (c.val * 64 + ch.chc.state.code * 8 + s.ssv.station.code),
   BitVec.ofNat 8 ((if burning then ch.burner.phase.code else 0) * 32 + (if burning then ch.burner.attempt else 1) * 8 +
     bit (ch.chc.state == .paused && ch.chc.causes.command) * 4 +
     bit (ch.chc.state == .paused && ch.chc.causes.mains) * 2 + bit (s.lastStarted == some c)),
   BitVec.ofNat 8 (slotCode ch.pgu.current + bit ch.gated * 16 + bit ch.pgu.holding * 32),
   BitVec.ofNat 8 (seconds / 65536), BitVec.ofNat 8 (seconds / 256), BitVec.ofNat 8 seconds,
   BitVec.ofNat 8 ch.claim.ceiling,
   BitVec.ofNat 8 (ch.claim.announced / 4),
   BitVec.ofNat 8 (ch.claim.grant / 4),
   BitVec.ofNat 8 (ch.claim.announced % 4 * 64 + ch.claim.grant % 4 * 16 + ch.chc.endCause.code),
   flagsByte s,
   BitVec.ofNat 8 s.ssv.resetCause.code]

/-- The level of bit `pos` of byte `i` of a frame on the line: true is recessive.  Position 0 is the start bit, 1 to 8
the data bits 7 to 0, 9 the stop bit (R163). -/
def sentRecessive (bytes : List Byte) (i : Nat) (pos : Fin 10) : Bool :=
  if pos = 0 then false else if pos = 9 then true else ((bytes[i]?).getD 0).getLsbD (8 - pos.val)

/-! ### Received frames -/

/-- The kind code of a frame: the high four bits of byte 0. -/
def frameKind (bytes : List Byte) : Nat := (bytes.headD 0).toNat / 16

/-- The source address of a frame: the low four bits of byte 0. -/
def frameSource (bytes : List Byte) : Address := (bytes.headD 0).setWidth 4

/-- The payload length a frame states. -/
def frameLength (bytes : List Byte) : Nat := ((bytes[1]?).getD 0).toNat

/-- The payload of a frame. -/
def framePayload (bytes : List Byte) : List Byte := (bytes.drop 2).take (frameLength bytes)

/-- Byte `i` of the payload. -/
def payloadByte (bytes : List Byte) (i : Nat) : Byte := ((framePayload bytes)[i]?).getD 0

/-- A complete frame: byte 1 gives a length n of 0..12 and n + 3 bytes have been read (R169). -/
def frameComplete (bytes : List Byte) : Bool :=
  decide (2 ≤ bytes.length) && decide (frameLength bytes ≤ 12) && bytes.length == frameLength bytes + 3

/-- The payload lengths R165 allows for a kind; for COMMAND, 2 or more (R170). -/
def lengthAllowed (kind n : Nat) : Bool :=
  match kind with
  | 0 => n == 0
  | 1 => decide (2 ≤ n)
  | 2 => n == 4
  | 3 => n == 9
  | 4 => n == 3 || n == 6 || n == 9 || n == 12
  | 5 => n == 12
  | _ => false

/-- A complete frame passes the check, kind and length checks (R170 steps 1 to 3). -/
def frameValid (bytes : List Byte) : Bool :=
  frameComplete bytes && byteSum bytes == 0xFF && lengthAllowed (frameKind bytes) (frameLength bytes)

/-- A demand record as two payload bytes carry it (08, Frames sent; bits 2..0 are not read, R179). -/
def demandOfBytes (hi lo : Byte) : DemandRecord :=
  { demand := hi.toNat * 4 + lo.toNat / 64
    cls := ⟨lo.toNat / 16 % 4, Nat.mod_lt _ (by decide)⟩
    circuit := if lo.getLsbD 3 then .b else .a }

/-- The four records of a received DEMAND. -/
def demandRecords (bytes : List Byte) : Quad DemandRecord :=
  .ofFn fun c => demandOfBytes (payloadByte bytes (2 * c.val)) (payloadByte bytes (2 * c.val + 1))

/-- The station state code of a received DEMAND: bits 2..0 of payload byte 8. -/
def demandStation (bytes : List Byte) : Nat := (payloadByte bytes 8).toNat % 8

/-- The thirteen command codes and the payload length of each (08, COMMAND frames). -/
def commandLength (code : Nat) : Option Nat :=
  match code with
  | 1 => some 7
  | 2 => some 9
  | 3 => some 11
  | 4 => some 9
  | 5 => some 7
  | 6 => some 3
  | 7 => some 3
  | 8 => some 3
  | 9 => some 3
  | 10 => some 8
  | 11 => some 3
  | 12 => some 2
  | 13 => some 2
  | _ => none

end Sys2Proof.Machine
end

