-- ==== Sys2Proof/Machine/Line.lean ====
section
/-! DEFINITION. The line interface (08): contention attempts and the pending set, arbitration and completion, and what
arrives on the line and is no command. -/

namespace Sys2Proof.Machine

/-- The state of the line replaced. -/
def setLine (l : LineState) (s : State) : State := { s with lif := { s.lif with line := l } }

/-- Building a DEMAND content sets the carried mark of every PENDING_SEND hold (R75); requests made from now on stand
beyond this frame (R80). -/
def markCarried (s : State) : State :=
  { s with
    chans := .ofFn fun c =>
      if (s.chan c).claim.stage = .pendingSend then
        { s.chan c with claim := { (s.chan c).claim with carried := true } }
      else s.chan c
    apu := { s.apu with requestAfterBuild := false } }

/-- The event queue that an attempt finds.  Records of a change that arrived together with the attempt may join the queue
after its choice, while its content shows the change (R197): all that a queue holds that was empty before the latest
command (log entry 19). -/
def eventsFound (late : Bool) (s : State) : List EventRecord := if late && s.eventsNew then [] else s.rpu.events

/-- The frame that the pending set offers now: the part of the lowest kind code that holds something, with its content as
it stands (R173 to R177, R197). -/
def offeredFrame (late : Bool) (s : State) : Option TxFrame :=
  match s.lif.replies, s.apu.request, eventsFound late s, s.lif.stateSet with
  | e :: _, _, _, _ => some ⟨.reply, makeFrame 2 s.ssv.address (replyPayload e), 0⟩
  | [], true, _, _ => some ⟨.demand, makeFrame 3 s.ssv.address (demandPayload s), 0⟩
  | [], false, e :: es, _ =>
    let carried := (e :: es).take Config.eventsPerFrame
    some ⟨.event, makeFrame 4 s.ssv.address (eventPayload carried), carried.length⟩
  | [], false, [], c :: _ => some ⟨.state, makeFrame 5 s.ssv.address (statePayload s c), 0⟩
  | [], false, [], [] => none

/-- A contention attempt: the station begins byte 0 of the frame offered, if there is one (R164, R173). -/
def beginAttempt (late : Bool) (s : State) : State :=
  match offeredFrame late s with
  | none => setLine .idle s
  | some fr =>
    match fr.kind with
    | .demand => setLine (.sending fr) (markCarried s)
    | .reply | .event | .state => setLine (.sending fr) s

/-- The frame of the station's own under way. -/
def frameUnderWay (s : State) : Option TxFrame :=
  match s.lif.line with
  | .sending fr => some fr
  | .unseen | .idle | .receiving | .closed => none

/-- The station has a frame of kind `k` under way. -/
def isSending (k : SentKind) (s : State) : Bool := (frameUnderWay s).any fun fr => fr.kind == k

/-- The receive assembly can take a frame: the line has been idle, and the station has none of its own under way (R169,
R181). -/
def receptive (s : State) : Bool :=
  match s.lif.line with
  | .idle | .receiving => true
  | .unseen | .sending _ | .closed => false

/-- A valid frame with the own address as source is a clash (R17, R170); the unit recomputes if the flag changed. -/
def noteClash (source : Address) (s : State) : State :=
  if source = s.ssv.address then
    let s1 := { s with ssv := { s.ssv with clash := true, clashQuiet := 0 } }
    if s.ssv.clash then s1 else recompute s1
  else s

/-- A valid frame is taken: it ends on the line, is judged for a clash, and is handed on to `f` (R169, R170). -/
def takeFrame (source : Address) (f : State → State) (s : State) : State :=
  onlyIf (receptive s) (fun s => f (noteClash source (setLine .closed s))) s

/-! ### The rows of the table that the line interface owns -/

/-- LINE_IDLE (R164, R173): the line becomes idle, and a station with something pending begins an attempt.  A line that
carries the station's own frame is not idle. -/
def execLineIdle (s : State) (late : Bool := false) : Host.Outcome State Fault Refusal :=
  live (onlyIf (frameUnderWay s).isNone (beginAttempt late)) s

/-- CONTENDING_ON_IDLE_LINE (R164): something has become pending while the line is idle. -/
def execContendingOnIdleLine (s : State) (late : Bool := false) : Host.Outcome State Fault Refusal :=
  live (onlyIf (s.lif.line == .idle) (beginAttempt late)) s

/-- The line after a discard (R169): a framing error and a length out of range leave the rest of the frame on it, and
nothing is taken until the next idle; a frame cut short is discarded at the idle, and the next start bit begins one. -/
def lineAfterDiscard (cause : AbortCause) : LineState :=
  match cause with
  | .framingError | .lengthOutOfRange => .closed
  | .cutShort => .idle

/-- The line after the station has left its own frame at a mismatch in bit `pos` of a byte (R166, R167): it goes on
reading, and what it has read is the frame being assembled; but a stop bit, sent recessive, differs only where it reads
dominant, and that framing error discards the frame at that bit (R169). -/
def lineAfterMismatch (pos : Fin 10) : LineState := if pos = 9 then lineAfterDiscard .framingError else .receiving

/-- ARBITRATION_LOST (R166): in byte 0 a bit sent recessive is read dominant; the station becomes a receiver, of nothing
more before the idle where it is the stop bit (R169), and the item stays pending. -/
def execArbitrationLost (pos : Fin 10) (s : State) : Host.Outcome State Fault Refusal :=
  live (onlyIf ((frameUnderWay s).any fun fr => sentRecessive fr.bytes 0 pos) (setLine (lineAfterMismatch pos))) s

/-- FRAME_ABANDONED (R166, R167): a mismatch after byte 0, or a dominant bit of byte 0 read recessive; the station
releases the line, goes on reading, up to a stop bit that reads dominant (R169), and the item stays pending.  What it then
receives is no transmission of its own (DEDUCED, log entry 18). -/
def execFrameAbandoned (byte : Nat) (pos : Fin 10) (s : State) : Host.Outcome State Fault Refusal :=
  live (onlyIf ((frameUnderWay s).any fun fr =>
      decide (byte < fr.bytes.length) && (decide (0 < byte) || !sentRecessive fr.bytes 0 pos))
    (setLine (lineAfterMismatch pos))) s

/-- REPLY_SENT (R168, R174): the oldest entry is removed. -/
def execReplySent (s : State) : Host.Outcome State Fault Refusal :=
  live (onlyIf (isSending .reply s) fun s =>
    { s with lif := { s.lif with line := .closed, replies := s.lif.replies.tail } }) s

/-- DEMAND_SENT (R76, R80, R81, R168, R175). -/
def execDemandSent (s : State) : Host.Outcome State Fault Refusal :=
  live (onlyIf (isSending .demand s) fun s => demandCompleted (setLine .closed s)) s

/-- EVENT_FRAME_SENT (R168, R176): the records carried are removed from the head of the queue. -/
def execEventFrameSent (s : State) : Host.Outcome State Fault Refusal :=
  live (onlyIf (isSending .event s) fun s =>
    setLine .closed
      { s with rpu := { s.rpu with events := s.rpu.events.drop ((frameUnderWay s).map TxFrame.carried |>.getD 0) } }) s

/-- STATE_SENT (R168, R177): the head channel is removed from the STATE set. -/
def execStateSent (s : State) : Host.Outcome State Fault Refusal :=
  live (onlyIf (isSending .state s) fun s =>
    { s with lif := { s.lif with line := .closed, stateSet := s.lif.stateSet.tail } }) s

/-- A frame is being assembled that `cause` can discard (R169).  The assembly reads the station's own frame too; bit by
bit equal to what was sent, its length is in range and no idle falls within it, but a stop bit may read dominant, and then
the station leaves the frame at that mismatch (R166, R167). -/
def canAbort (cause : AbortCause) (s : State) : Bool :=
  receptive s || (cause == .framingError && (frameUnderWay s).isSome)

/-- RECEIVE_ABORTED (R169): the frame that is being assembled is discarded. -/
def execReceiveAborted (cause : AbortCause) (s : State) : Host.Outcome State Fault Refusal :=
  live (onlyIf (canAbort cause s) (setLine (lineAfterDiscard cause))) s

/-- FRAME_REJECTED (R170): a complete frame fails a check and has no effect on any block. -/
def execFrameRejected (frame : List Byte) (s : State) : Host.Outcome State Fault Refusal :=
  live (onlyIf (receptive s && frameComplete frame && !frameValid frame) (setLine .closed)) s

/-- PEER_REPORT_RECEIVED (R170): a valid REPLY, EVENT or STATE is checked only for a clash; a valid DEMAND, for which the
table has no row of its own, is handed to the apportionment unit as well (R82a, log entry 5). -/
def execPeerReportReceived (frame : List Byte) (s : State) : Host.Outcome State Fault Refusal :=
  live (onlyIf (frameValid frame && decide (2 ≤ frameKind frame)) (takeFrame (frameSource frame) fun s =>
    if frameKind frame = 3 then
      writePeer (frameSource frame) (demandStation frame) (demandRecords frame) s
    else s)) s

/-- COMMAND_NOT_MATCHED (R171): a valid COMMAND that does not match is dropped after the clash check. -/
def execCommandNotMatched (h : CmdHeader) (s : State) : Host.Outcome State Fault Refusal :=
  live (onlyIf (!addressMatches s.ssv.address h) (takeFrame h.source id)) s

end Sys2Proof.Machine
end

