-- ==== Sys2Proof/Machine/Burners.lean ====
section
/-! DEFINITION. The ignition queue and the holder (06, The ignition queue and the holder): how a burner joins, becomes
holder, and is cleared out of ignition. -/

namespace Sys2Proof.Machine

/-- The record of a burner that becomes holder: LINE_WAIT with quiet count 0 (R126). -/
def Burner.atLineWait (b : Burner) : Burner := { b with phase := .lineWait, quiet := 0 }

/-- Whenever the holder is none and the queue is not empty, the head becomes holder (R126). -/
def promote (s : State) : State :=
  match s.igu.holder, s.igu.queue with
  | none, c :: rest =>
    { s with igu := { s.igu with holder := some c, queue := rest } }.mapChan c fun ch =>
      { ch with burner := ch.burner.atLineWait }
  | _, _ => s

/-- The burner joins the tail of the queue in phase QUEUED, and the head becomes holder if the unit is free (R125,
R126). -/
def joinQueue (c : Chan) (s : State) : State :=
  promote ({ s with igu := { s.igu with queue := s.igu.queue ++ [c] } }.mapChan c fun ch =>
    { ch with burner := { ch.burner with phase := .queued } })

/-- Entry to IGNITING with the given number of attempts: attempt 1, at the tail of the queue (R125). -/
def enterIgnition (c : Chan) (allowed : Nat) (s : State) : State :=
  joinQueue c (s.mapChan c fun ch =>
    { ch with
      chc := { ch.chc with state := .igniting }
      burner := { ch.burner with attempt := 1, allowed := allowed } })

/-- Entry to IGNITING with the configured attempts (R125). -/
def enterIgnitionConfigured (c : Chan) (s : State) : State := enterIgnition c (s.chan c).cfg.params.attempts s

/-- The holder releases the ignition unit, with the spark, and the next head becomes holder (R124, R126). -/
def releaseUnit (s : State) : State := promote { s with igu := { s.igu with holder := none, spark := false } }

/-- The record of a burner taken out of ignition: everything but the attempts allowed returns to its reset value
(R127). -/
def Burner.outOfIgnition (b : Burner) : Burner := { Burner.reset with allowed := b.allowed }

/-- A burner leaves IGNITING by STOP, HALT or mains absence: its part in ignition is cleared by its phase (R127). -/
def leaveIgnition (c : Chan) (s : State) : State :=
  let cleared (s : State) : State :=
    s.mapChan c fun ch => { ch with burner := ch.burner.outOfIgnition, valve := 0 }
  match (s.chan c).burner.phase with
  | .none => s
  | .queued => cleared { s with igu := { s.igu with queue := s.igu.queue.filter (· ≠ c) } }
  | .lineWait | .spark | .prove => releaseUnit (cleared s)
  | .purge => cleared s

/-- Supervision ends: the flame runs and the blank run become 0 (R140). -/
def Burner.unsupervised (b : Burner) : Burner :=
  { b with supervising := false, onRun := 0, offRun := 0, blankRun := 0 }

/-- A lit burner closes its valve and its supervision ends (R52, R56, R140). -/
def Channel.extinguished (ch : Channel) : Channel := { ch with burner := ch.burner.unsupervised, valve := 0 }

/-- A burner gives up flame and ignition, whatever it holds (R56, R127, R140). -/
def quench (c : Chan) (s : State) : State := (leaveIgnition c s).mapChan c Channel.extinguished

end Sys2Proof.Machine
end

