-- ==== Sys2Proof/Machine/Program.lean ====
section
/-! DEFINITION. The program unit and the channel controller's part in it (02, 03): starting a slot, the end of a program,
expiry and end actions, the start delay, pausing and leaving PAUSED, and a half-cycle on the timers. -/

namespace Sys2Proof.Machine

/-- The program state after a program has ended; the step table and the load pointer are kept (R33). -/
def Pgu.ended (p : Pgu) : Pgu :=
  { p with current := none, timing := .opened, seconds := 0, phase := 0, holding := false, delay := 0 }

/-- A program ends with `cause`, and the channel enters `into` (R33, R56, R61): PROGRAM_END names the slot that was
current; a burner gives up ignition, flame and valve. -/
def endProgram (c : Chan) (cause : EndCause) (into : ChanState) (s : State) : State :=
  (quench c (raiseFor c .programEnd cause.code s)).mapChan c fun ch =>
    { ch with
      pgu := ch.pgu.ended
      chc := { state := into, causes := ⟨false, false⟩, target := none, endCause := cause } }

/-- The program of a channel ends with `cause` and the channel enters IDLE; a channel with no program is unchanged. -/
def endIfProgram (c : Chan) (cause : EndCause) (s : State) : State :=
  if (s.chan c).chc.state.hasProgram then endProgram c cause .idle s else s

/-- The program state when slot `n` starts (R25). -/
def Pgu.started (p : Pgu) (n : Slot) : Pgu :=
  { p with
    current := some n
    timing := if ((p.slotAt n).bind StepRecord.duration).isSome then .timed else .opened
    seconds := ((p.slotAt n).bind StepRecord.duration).getD 0
    phase := 0
    holding := false
    delay := 0 }

/-- A driver started afresh on entry to RUNNING (R104). -/
def Driver.afresh (kind : ChanKind) (d : Driver) : Driver :=
  match kind with
  | .cycle => { d with accumulator := 0, conducting := false }
  | .slow => { d with inPeriod := false, position := 0, onTime := 0 }
  | .notConfigured | .unused | .burner => d

/-- The channel enters RUNNING from another state: the driver of an element starts afresh (R50, R104). -/
def Channel.enterRunning (ch : Channel) : Channel :=
  { ch with
    chc := { ch.chc with state := .running }
    driver := if ch.chc.state = .running then ch.driver else ch.driver.afresh ch.cfg.kind }

/-- A slot starts (R25, R26, R59).  A PAUSED channel stays PAUSED with resume target RUNNING.  An element, and a burner
at position 0, is RUNNING.  A burner at a lit position stays lit from a lit step, and must be ignited otherwise. -/
def startSlot (c : Chan) (n : Slot) (s : State) : State :=
  let wasLit := (s.chan c).lit
  let s1 := s.mapChan c fun ch => { ch with pgu := ch.pgu.started n }
  if (s.chan c).chc.state = .paused then
    s1.mapChan c fun ch => { ch with chc := { ch.chc with target := some .running } }
  else if (s.chan c).cfg.kind ≠ .burner then s1.mapChan c Channel.enterRunning
  else if (s1.chan c).pgu.level = 0 then s1.mapChan c fun ch => ch.extinguished.enterRunning
  else if wasLit then s1.mapChan c fun ch => { ch with valve := ch.pgu.level }
  else enterIgnitionConfigured c s1

/-- The slot after `n`, if it holds a step (R29). -/
def Pgu.following (p : Pgu) (n : Slot) : Option Slot :=
  if n = 7 then none else if (p.slotAt (n + 1)).isSome then some (n + 1) else none

/-- The program state of a step that becomes holding (R31). -/
def Pgu.held (p : Pgu) : Pgu := { p with seconds := 0, phase := 0, holding := true, timing := .timed }

/-- The current step expires and the end action `a` is applied (R29, R30, R31, R32). -/
def expireStep (c : Chan) (a : EndAction) (s : State) : State :=
  let s1 := raiseFor c .stepEnd a.code s
  match a with
  | .hold => s1.mapChan c fun ch => { ch with pgu := ch.pgu.held }
  | .finish => endProgram c .completed .idle s1
  | .next =>
    match (s.chan c).pgu.current.bind (s.chan c).pgu.following with
    | some n => startSlot c n s1
    | none => endProgram c .completed .idle s1

/-- The current step expires with its record's own end action. -/
def expireByRecord (c : Chan) (s : State) : State := expireStep c (s.chan c).pgu.endAction s

/-- The start delay ends: DELAY_END is raised for the start slot, which then starts (R35). -/
def endDelay (c : Chan) (s : State) : State :=
  let s1 := raiseFor c .delayEnd 0 s
  match (s.chan c).pgu.current with
  | some n => startSlot c n s1
  | none => s1

/-- The step timer of the channel runs at a half-cycle (R27). -/
def stepTimerRuns (ch : Channel) : Bool := ch.chc.state == .running && ch.pgu.timing == .timed && !ch.pgu.holding

/-- The timer of the channel counts its last half-cycle: h is at its end and one whole second is left. -/
def lastHalfCycle (f : Option Frequency) (seconds phase : Nat) : Bool :=
  decide (perSecond f ≤ phase + 1) && decide (seconds ≤ 1)

/-- The channel's current step expires at the next half-cycle that reaches it (R27). -/
def stepExpires (f : Option Frequency) (ch : Channel) : Bool :=
  stepTimerRuns ch && lastHalfCycle f ch.pgu.seconds ch.pgu.phase

/-- The channel's start delay ends at the next half-cycle that reaches it (R35). -/
def delayExpires (f : Option Frequency) (ch : Channel) : Bool :=
  ch.chc.state == .delayed && lastHalfCycle f ch.pgu.delay ch.pgu.phase

/-- The step timer after a half-cycle: h counts to 2f, and then s loses one second (R27). -/
def Pgu.countStep (f : Option Frequency) (p : Pgu) : Pgu :=
  if p.phase + 1 < perSecond f then { p with phase := p.phase + 1 } else { p with phase := 0, seconds := p.seconds - 1 }

/-- The start delay after a half-cycle (R35). -/
def Pgu.countDelay (f : Option Frequency) (p : Pgu) : Pgu :=
  if p.phase + 1 < perSecond f then { p with phase := p.phase + 1 } else { p with phase := 0, delay := p.delay - 1 }

/-- An accepted half-cycle on the program unit of a channel (R27, R28, R35). -/
def programShare (c : Chan) (s : State) : State :=
  if stepTimerRuns (s.chan c) then
    let s1 := s.mapChan c fun ch => { ch with pgu := ch.pgu.countStep s.mtb.frequency }
    if stepExpires s.mtb.frequency (s.chan c) then recompute (expireByRecord c s1) else s1
  else if (s.chan c).chc.state = .delayed then
    let s1 := s.mapChan c fun ch => { ch with pgu := ch.pgu.countDelay s.mtb.frequency }
    if delayExpires s.mtb.frequency (s.chan c) then recompute (endDelay c s1) else s1
  else s

/-! ### Pausing and resuming -/

/-- The resume target of a channel that is paused out of `st` (R52, R55). -/
def resumeTargetOf (st : ChanState) : Option ResumeTarget :=
  match st with
  | .delayed => some .delayed
  | .running => some .running
  | .igniting => some .igniting
  | .idle | .paused | .lockout | .disabled => none

/-- The channel enters PAUSED from DELAYED, RUNNING or IGNITING with the given causes (R52, R55): a burner gives up
ignition, flame and valve. -/
def enterPaused (c : Chan) (causes : PauseCauses) (s : State) : State :=
  (quench c s).mapChan c fun ch =>
    { ch with
      chc := { ch.chc with state := .paused, causes := causes, target := resumeTargetOf (s.chan c).chc.state } }

/-- A PAUSED channel whose pause-cause set has become empty leaves PAUSED (R54). -/
def leavePaused (c : Chan) (s : State) : State :=
  let ch := s.chan c
  let s1 := s.mapChan c fun ch => { ch with chc := { ch.chc with target := none } }
  if ch.chc.target = some .delayed then
    s1.mapChan c fun ch => { ch with chc := { ch.chc with state := .delayed } }
  else if ch.cfg.kind = .burner ∧ 0 < ch.pgu.level then enterIgnitionConfigured c s1
  else s1.mapChan c Channel.enterRunning

/-- A cause is removed from a PAUSED channel, which leaves PAUSED if none is left (R53, R54, R55). -/
def removeCause (c : Chan) (causes : PauseCauses) (s : State) : State :=
  let s1 := s.mapChan c fun ch => { ch with chc := { ch.chc with causes := causes } }
  if causes.command ∨ causes.mains then s1 else leavePaused c s1

end Sys2Proof.Machine
end

