-- ==== Sys2Proof/Machine/Commands.lean ====
section
/-! DEFINITION. Commands of the zone line and what every one of them shares (03, 08, 10): acceptance, the judging of the
named channels, and the commands that act on programs, reports and the station. -/

namespace Sys2Proof.Machine

/-! ### Accepting a command -/

/-- A COMMAND that the station matches is taken from the line and handed to `f` (R170, R171). -/
def takeCommand (h : CmdHeader) (f : State → State) (s : State) : State :=
  onlyIf (addressMatches s.ssv.address h) (takeFrame h.source f) s

/-- A REPLY entry can be made (R172 step 1). -/
def replyRoom (s : State) : Bool := decide (s.lif.replies.length < Config.replyCapacity)

/-- An entry joins the tail of the REPLY queue (R174, R190). -/
def pushReply (e : ReplyEntry) (s : State) : State :=
  { s with lif := { s.lif with replies := s.lif.replies ++ [e] } }

/-- A command is carried out and its four results are written into its entry; without room for the entry it is
discarded (R172). -/
def carryOut (source : Address) (code : Byte) (run : State → State × Quad Result) (s : State) : State :=
  if replyRoom s then pushReply ⟨source, code, (run s).2⟩ (run s).1 else s

/-- A COMMAND of code `code` is accepted (R172). -/
def acceptCommand (h : CmdHeader) (code : Byte) (run : State → State × Quad Result) (s : State) : State :=
  takeCommand h (carryOut h.source code run) s

/-! ### Channels judging a command -/

/-- What a channel does with a command that names it. -/
abbrev ChannelAct := Chan → State → State × Result

/-- A channel that is not named does not act, and its result is DONE (R46). -/
def actIfNamed (mask : Byte) (act : ChannelAct) (c : Chan) (s : State) : State × Result :=
  if maskNames mask c then act c s else (s, .done)

/-- Each named channel judges and carries out the command by itself (R46), those that join the ignition queue in rising
order (R125).  No rule orders the rest: that every channel acts in rising order is the model's choice (DESIGN CHOICE, log
entry 20), and the events of a command that raises any go through `raisedInTurn`, in any order. -/
def actOnMask (mask : Byte) (act : ChannelAct) (s : State) : State × Quad Result :=
  let r0 := actIfNamed mask act 0 s
  let r1 := actIfNamed mask act 1 r0.1
  let r2 := actIfNamed mask act 2 r1.1
  let r3 := actIfNamed mask act 3 r2.1
  (r3.1, ⟨r0.2, r1.2, r2.2, r3.2⟩)

/-- The recomputation after a command that acted on channels (R91). -/
def settled (r : State × Quad Result) : State × Quad Result := (recompute r.1, r.2)

/-- Steps 1 and 2 of the judging order, before `act` (R47). -/
def unlessBarred (act : ChannelAct) (c : Chan) (s : State) : State × Result :=
  if (s.chan c).chc.state = .lockout then (s, .lockedOut)
  else if (s.chan c).cfg.kind = .unused then (s, .unusedChannel)
  else act c s

/-- A command whose channels raise events: the report unit takes them in the turns that `order` gives (R195, log entry
20). -/
def raisedInTurn (order : List Chan) (run : State → State × Quad Result) (s : State) : State × Quad Result :=
  let r := run (setAside s)
  (raiseInTurn order s r.1, r.2)

/-! ### START -/

/-- The station state admits a START on the channel (R49). -/
def startReady (s : State) (c : Chan) : Bool :=
  match s.ssv.station with
  | .mainsWait | .rideThrough => false
  | .listen | .active => true
  | .safe => (s.chan c).cfg.kind == .burner && tracking s

/-- The channel and the station are configured (R182). -/
def configuredFor (s : State) (c : Chan) : Bool := (s.chan c).cfg.configured && s.stationConfigured

/-- The program state on entry to DELAYED (R34). -/
def Pgu.delayed (p : Pgu) (n : Slot) (d : Nat) : Pgu :=
  { p with current := some n, delay := d, phase := 0, seconds := 0, timing := .opened, holding := false }

/-- A START that is taken begins a program at slot `n` (R50). -/
def beginProgram (c : Chan) (n : Slot) (d : Nat) (s : State) : State :=
  if d = 0 then startSlot c n s
  else s.mapChan c fun ch => { ch with pgu := ch.pgu.delayed n d, chc := { ch.chc with state := .delayed } }

/-- Steps 3 to 7 of R47 for a START, and the start. -/
def startChannel (slot : Byte) (delay : BitVec 24) : ChannelAct := fun c s =>
  if !configuredFor s c then (s, .notConfigured)
  else if (s.chan c).chc.state ≠ .idle then (s, .refusedState)
  else
    match slotOfByte slot with
    | none => (s, .badValue)
    | some n =>
      if !startReady s c then (s, .notReady)
      else if ((s.chan c).pgu.slotAt n).isNone then (s, .emptySlot)
      else (beginProgram c n (delayOfField delay) s, .done)

/-- The highest-numbered named channel that answered DONE (R51). -/
def highestDone (mask : Byte) (r : Quad Result) : Option Chan :=
  [(3 : Chan), 2, 1, 0].find? fun c => maskNames mask c && r.get c == .done

/-- The last-started record and the closing of configuration after a START (R51, R188). -/
def noteStart (mask : Byte) (r : State × Quad Result) : State × Quad Result :=
  match highestDone mask r.2 with
  | none => r
  | some c => ({ r.1 with lastStarted := some c, configOpen := false }, r.2)

/-- START (R34, R47 to R51). -/
def runStart (mask slot : Byte) (delay : BitVec 24) (s : State) : State × Quad Result :=
  settled (noteStart mask (actOnMask mask (unlessBarred (startChannel slot delay)) s))

/-! ### PAUSE, RESUME, STOP, SKIP -/

/-- PAUSE on a channel past steps 1 and 2 (R48, R52). -/
def pauseChannel : ChannelAct := fun c s =>
  match (s.chan c).chc.state with
  | .delayed | .running => (enterPaused c ⟨true, false⟩ s, .done)
  | .paused =>
    (s.mapChan c fun ch => { ch with chc := { ch.chc with causes := { ch.chc.causes with command := true } } }, .done)
  | .igniting => (s, .busy)
  | .idle | .disabled => (s, .refusedState)
  | .lockout => (s, .lockedOut)

/-- RESUME on a channel past steps 1 and 2 (R48, R53). -/
def resumeChannel : ChannelAct := fun c s =>
  match (s.chan c).chc.state with
  | .paused => (removeCause c ⟨false, (s.chan c).chc.causes.mains⟩ s, .done)
  | .idle | .delayed | .igniting | .running | .disabled => (s, .refusedState)
  | .lockout => (s, .lockedOut)

/-- STOP on a channel past steps 1 and 2 (R48, R56). -/
def stopChannel : ChannelAct := fun c s => (endIfProgram c .stopped s, .done)

/-- STOP with a channel mask (R56). -/
def runStopMask (order : List Chan) (mask : Byte) (s : State) : State × Quad Result :=
  settled (raisedInTurn order (actOnMask mask (unlessBarred stopChannel)) s)

/-- The mask that names one channel. -/
def maskOf (c : Chan) : Byte := BitVec.ofNat 8 (2 ^ c.val)

/-- STOP with the selector LAST (R57). -/
def runStopLast (s : State) : State × Quad Result :=
  match s.lastStarted with
  | none => (s, .fill .done)
  | some c => runStopMask [] (maskOf c) s

/-- STOP by its selector byte: 00h..0Fh a mask, 80h LAST, any other BAD_VALUE on all four channels (R56, R179). -/
def runStop (order : List Chan) (selector : Byte) (s : State) : State × Quad Result :=
  if selector.toNat < 16 then runStopMask order selector s
  else if selector = 0x80 then runStopLast s
  else (s, .fill .badValue)

/-- SKIP on a channel past steps 1 and 2 (R36, R48). -/
def skipChannel : ChannelAct := fun c s =>
  match (s.chan c).chc.state with
  | .running => (if (s.chan c).pgu.holding then expireStep c .next s else expireByRecord c s, .done)
  | .delayed => (endDelay c s, .done)
  | .igniting => (s, .busy)
  | .idle | .paused | .disabled => (s, .refusedState)
  | .lockout => (s, .lockedOut)

/-! ### ADJUST -/

/-- The record of the current slot given the level `v` (R37). -/
def Pgu.withLevel (p : Pgu) (v : Nat) : Pgu :=
  match p.current with
  | none => p
  | some n =>
    match p.slotAt n with
    | none => p
    | some r => { p with slots := p.slots.set n.val (some { r with level := v }) }

/-- What a changed position does to a RUNNING burner (R40). -/
def moveValve (c : Chan) (old : Nat) (s : State) : State :=
  if 0 < old ∧ 0 < (s.chan c).pgu.level then s.mapChan c fun ch => { ch with valve := ch.pgu.level }
  else if 0 < old then s.mapChan c Channel.extinguished
  else if 0 < (s.chan c).pgu.level then enterIgnitionConfigured c s
  else s

/-- ADJUST LEVEL on a channel that is DELAYED, RUNNING or PAUSED (R37, R40). -/
def adjustLevel (op : AdjustOperation) (v : Nat) (c : Chan) (s : State) : State :=
  let old := (s.chan c).pgu.level
  let s1 := s.mapChan c fun ch => { ch with pgu := ch.pgu.withLevel (adjustedLevel ch.cfg.kind op old v) }
  if (s.chan c).chc.state = .running ∧ (s.chan c).cfg.kind = .burner then moveValve c old s1 else s1

/-- The timer after it is set or grows: at most 86,399 s, no longer holding (R38). -/
def Pgu.timedFor (p : Pgu) (seconds phase : Nat) : Pgu :=
  { p with timing := .timed, seconds := min seconds Config.maxSeconds, phase := phase, holding := false }

/-- ADJUST TIME on the timer of the current step (R38). -/
def adjustStepTime (op : AdjustOperation) (v : Nat) : ChannelAct := fun c s =>
  let p := (s.chan c).pgu
  let put (q : Pgu) : State := s.mapChan c fun ch => { ch with pgu := q }
  match op with
  | .set => if v = 0 then (expireByRecord c s, .done) else (put (p.timedFor v 0), .done)
  | .add =>
    if p.timing = .opened then (s, .badValue)
    else if v = 0 then (s, .done)
    else (put (p.timedFor (p.seconds + v) p.phase), .done)
  | .subtract =>
    if p.timing = .opened then (s, .badValue)
    else if v = 0 then (s, .done)
    else if p.seconds ≤ v then (expireByRecord c s, .done)
    else (put { p with seconds := p.seconds - v }, .done)

/-- ADJUST TIME on the remaining delay (R39). -/
def adjustDelay (op : AdjustOperation) (v : Nat) : ChannelAct := fun c s =>
  let p := (s.chan c).pgu
  let put (q : Pgu) : State := s.mapChan c fun ch => { ch with pgu := q }
  match op with
  | .set =>
    if v = 0 then (endDelay c s, .done) else (put { p with delay := min v Config.maxSeconds, phase := 0 }, .done)
  | .add =>
    if v = 0 then (s, .done) else (put { p with delay := min (p.delay + v) Config.maxSeconds }, .done)
  | .subtract =>
    if v = 0 then (s, .done)
    else if p.delay ≤ v then (endDelay c s, .done)
    else (put { p with delay := p.delay - v }, .done)

/-- The channel's program stands in its delay (R37, R39). -/
def inDelay (ch : Channel) : Bool :=
  ch.chc.state == .delayed || (ch.chc.state == .paused && ch.chc.target == some .delayed)

/-- An ADJUST with known codes on a channel that the state table lets go on (R37 to R40). -/
def adjustKnown (target : AdjustTarget) (op : AdjustOperation) (v : Nat) : ChannelAct := fun c s =>
  match target with
  | .level => (adjustLevel op v c s, .done)
  | .time => if inDelay (s.chan c) then adjustDelay op v c s else adjustStepTime op v c s

/-- The state table of ADJUST (R48), before `act`. -/
def whereAdjustable (act : ChannelAct) : ChannelAct := fun c s =>
  match (s.chan c).chc.state with
  | .delayed | .running | .paused => act c s
  | .igniting => (s, .busy)
  | .idle | .disabled => (s, .refusedState)
  | .lockout => (s, .lockedOut)

/-- ADJUST by its target and operation codes, BAD_VALUE where one is beyond the table (R47 step 5, R179). -/
def runAdjustCodes (order : List Chan) (mask target operation : Byte) (value : BitVec 24) (s : State) :
    State × Quad Result :=
  settled (raisedInTurn order (actOnMask mask (unlessBarred (whereAdjustable fun c s =>
    match adjustTargetOfByte target, adjustOperationOfByte operation with
    | some t, some op => adjustKnown t op value.toNat c s
    | _, _ => (s, .badValue)))) s)

/-- ADJUST with a known target and operation; only TIME SET and TIME SUBTRACT raise events. -/
def runAdjust (target : AdjustTarget) (op : AdjustOperation) (order : List Chan) (mask : Byte) (value : BitVec 24)
    (s : State) : State × Quad Result :=
  settled (raisedInTurn order (actOnMask mask (unlessBarred (whereAdjustable (adjustKnown target op value.toNat)))) s)

/-! ### LOAD_STEP -/

/-- The slot a designation chooses (R22). -/
def SlotDesignation.target (d : SlotDesignation) (pointer : Slot) : Slot :=
  match d with
  | .slot n => n
  | .atPointer => pointer

/-- The slot written and the load pointer moved on; slot 7 is followed by slot 0 (R22). -/
def Pgu.load (p : Pgu) (n : Slot) (content : Option StepRecord) : Pgu :=
  { p with slots := p.slots.set n.val content, pointer := n + 1 }

/-- A channel takes a LOAD_STEP whose content for it is `content`, `none` where the end action is no code (R22 to R24):
the designation is judged first, then the current slot, then the end action (R47). -/
def loadChannel (slot : Byte) (content : ChanKind → Option (Option StepRecord)) : ChannelAct := fun c s =>
  match slotDesignation slot with
  | none => (s, .badValue)
  | some d =>
    let n := d.target (s.chan c).pgu.pointer
    if (s.chan c).chc.state.hasProgram ∧ (s.chan c).pgu.current = some n then (s, .refusedState)
    else
      match content (s.chan c).cfg.kind with
      | none => (s, .badValue)
      | some r => (s.mapChan c fun ch => { ch with pgu := ch.pgu.load n r }, .done)

/-- The record a LOAD_STEP carries, clamped for the kind of the channel; FFh is CLEAR (R23, R179). -/
def loadedRecord (level : Byte) (duration : BitVec 24) (endAction : Byte) (kind : ChanKind) :
    Option (Option StepRecord) :=
  if endAction = 0xFF then some none
  else (endActionOfByte endAction).map fun a =>
    some { level := min level.toNat (levelMax kind), duration := durationOfField duration, endAction := a }

/-- LOAD_STEP (R22 to R24); steps 1 and 2 of R47 do not judge it. -/
def runLoadStep (mask slot level : Byte) (duration : BitVec 24) (endAction : Byte) (s : State) : State × Quad Result :=
  actOnMask mask (loadChannel slot (loadedRecord level duration endAction)) s

/-- LOAD_STEP carrying CLEAR (R22, R24). -/
def runLoadClear (mask slot : Byte) (s : State) : State × Quad Result :=
  actOnMask mask (loadChannel slot fun _ => some none) s

/-! ### QUERY, CLEAR_FLAGS, HALT and RESET_STATION -/

/-- A channel joins the STATE set at its tail unless it is in it (R177, R191). -/
def joinStateSet (mask : Byte) (set : List Chan) (c : Chan) : List Chan :=
  if maskNames mask c && !set.contains c then set ++ [c] else set

/-- QUERY (R191). -/
def runQuery (mask : Byte) (s : State) : State × Quad Result :=
  ({ s with lif := { s.lif with stateSet := allChans.foldl (joinStateSet mask) s.lif.stateSet } }, .fill .done)

/-- The clash flag that CLEAR_FLAGS leaves: it clears only when the clash-quiet count is 4 (R18). -/
def clashAfterClear (s : State) : Bool := s.ssv.clash && s.ssv.clashQuiet != 4

/-- CLEAR_FLAGS (R18, R196); a change of the clash flag makes the unit recompute (R91). -/
def runClearFlags (s : State) : State × Quad Result :=
  let s1 : State :=
    { s with
      rpu := { s.rpu with lost := false }
      ssv := { s.ssv with powerFail := false, clash := clashAfterClear s } }
  (if clashAfterClear s = s.ssv.clash then s1 else recompute s1, .fill .done)

/-- A HALT on the channels (R58), with the recomputation. -/
def haltAll (s : State) : State := recompute (forChans (fun c => endIfProgram c .halted) s)

/-- RESET_STATION with room for a reply: every block is reset, and no entry is made (R172, R19). -/
def resetStation (straps : BitVec 4) (s : State) : State := if replyRoom s then resetAll .lineReset straps s else s

/-! ### The rows of the table -/

/-- HALT (R58, R170): carried out whether or not the REPLY queue is full. -/
def execHalt (source : Address) (s : State) : Host.Outcome State Fault Refusal :=
  live (takeFrame source haltAll) s

/-- The code is unknown, or the payload length is not the one of its code; a payload has at most 12 bytes (R169,
R172). -/
def unknownCommand (code : Byte) (parameters : List Byte) : Bool :=
  decide (parameters.length ≤ 10) && commandLength code.toNat != some (parameters.length + 2)

/-- COMMAND_UNKNOWN (R172 step 2). -/
def execCommandUnknown (h : CmdHeader) (code : Byte) (parameters : List Byte) (s : State) :
    Host.Outcome State Fault Refusal :=
  live (onlyIf (unknownCommand code parameters) (acceptCommand h code fun s => (s, .fill .badValue))) s

/-- LOAD_STEP (R22 to R24). -/
def execLoadStep (h : CmdHeader) (mask slot level : Byte) (duration : BitVec 24) (endAction : Byte) (s : State) :
    Host.Outcome State Fault Refusal :=
  live (acceptCommand h 4 (runLoadStep mask slot level duration endAction)) s

/-- LOAD_STEP_CLEAR (R22, R24). -/
def execLoadStepClear (h : CmdHeader) (mask slot : Byte) (s : State) : Host.Outcome State Fault Refusal :=
  live (acceptCommand h 4 (runLoadClear mask slot)) s

/-- START (R34, R47 to R51). -/
def execStart (h : CmdHeader) (mask slot : Byte) (delay : BitVec 24) (s : State) : Host.Outcome State Fault Refusal :=
  live (acceptCommand h 5 (runStart mask slot delay)) s

/-- PAUSE (R48, R52). -/
def execPause (h : CmdHeader) (mask : Byte) (s : State) : Host.Outcome State Fault Refusal :=
  live (acceptCommand h 6 fun s => settled (actOnMask mask (unlessBarred pauseChannel) s)) s

/-- RESUME (R48, R53, R54). -/
def execResume (h : CmdHeader) (mask : Byte) (s : State) : Host.Outcome State Fault Refusal :=
  live (acceptCommand h 7 fun s => settled (actOnMask mask (unlessBarred resumeChannel) s)) s

/-- STOP (R48, R56). -/
def execStop (h : CmdHeader) (selector : Byte) (s : State) (order : List Chan := []) :
    Host.Outcome State Fault Refusal :=
  live (acceptCommand h 8 (runStop order selector)) s

/-- STOP_LAST (R57). -/
def execStopLast (h : CmdHeader) (s : State) : Host.Outcome State Fault Refusal :=
  live (acceptCommand h 8 runStopLast) s

/-- SKIP (R36, R48). -/
def execSkip (h : CmdHeader) (mask : Byte) (s : State) (order : List Chan := []) : Host.Outcome State Fault Refusal :=
  live (acceptCommand h 9 fun s => settled (raisedInTurn order (actOnMask mask (unlessBarred skipChannel)) s)) s

/-- ADJUST_LEVEL_SET (R37, R40). -/
def execAdjustLevelSet (h : CmdHeader) (mask : Byte) (value : BitVec 24) (s : State) :
    Host.Outcome State Fault Refusal :=
  live (acceptCommand h 10 (runAdjust .level .set [] mask value)) s

/-- ADJUST_LEVEL_ADD (R37, R40). -/
def execAdjustLevelAdd (h : CmdHeader) (mask : Byte) (value : BitVec 24) (s : State) :
    Host.Outcome State Fault Refusal :=
  live (acceptCommand h 10 (runAdjust .level .add [] mask value)) s

/-- ADJUST_LEVEL_SUBTRACT (R37, R40). -/
def execAdjustLevelSubtract (h : CmdHeader) (mask : Byte) (value : BitVec 24) (s : State) :
    Host.Outcome State Fault Refusal :=
  live (acceptCommand h 10 (runAdjust .level .subtract [] mask value)) s

/-- ADJUST_TIME_SET (R38, R39), and an ADJUST whose codes are beyond the table (R179, log entry 8). -/
def execAdjustTimeSet (h : CmdHeader) (mask target operation : Byte) (value : BitVec 24) (s : State)
    (order : List Chan := []) : Host.Outcome State Fault Refusal :=
  live (acceptCommand h 10 (runAdjustCodes order mask target operation value)) s

/-- ADJUST_TIME_ADD (R38, R39). -/
def execAdjustTimeAdd (h : CmdHeader) (mask : Byte) (value : BitVec 24) (s : State) :
    Host.Outcome State Fault Refusal :=
  live (acceptCommand h 10 (runAdjust .time .add [] mask value)) s

/-- ADJUST_TIME_SUBTRACT (R38, R39). -/
def execAdjustTimeSubtract (h : CmdHeader) (mask : Byte) (value : BitVec 24) (s : State) (order : List Chan := []) :
    Host.Outcome State Fault Refusal :=
  live (acceptCommand h 10 (runAdjust .time .subtract order mask value)) s

/-- QUERY (R191). -/
def execQuery (h : CmdHeader) (mask : Byte) (s : State) : Host.Outcome State Fault Refusal :=
  live (acceptCommand h 11 (runQuery mask)) s

/-- CLEAR_FLAGS (R18, R196). -/
def execClearFlags (h : CmdHeader) (s : State) : Host.Outcome State Fault Refusal :=
  live (acceptCommand h 12 runClearFlags) s

/-- RESET_STATION (R19, R172). -/
def execResetStation (h : CmdHeader) (straps : BitVec 4) (s : State) : Host.Outcome State Fault Refusal :=
  live (takeCommand h (resetStation straps)) s

end Sys2Proof.Machine
end

