-- ==== Sys2Proof/Machine/Ignition.lean ====
section
/-! DEFINITION. The ignition unit (06): samples, LINE_WAIT, SPARK, PROVE, purge, flame supervision, lockout and manual
reset. -/

namespace Sys2Proof.Machine

/-- A reading of a burner's flame-sense input (R128). -/
inductive Sample where
  | blanked
  | flame
  | noFlame
  deriving DecidableEq, Repr

/-- The sample of channel `c` at this half-cycle: blanked while SPK_SENSE is active, else counted against the threshold
(R128). -/
def flameSample (s : State) (c : Chan) : Sample :=
  if s.pins.inputs.spark then .blanked
  else if (s.chan c).cfg.params.threshold ≤ (s.pins.inputs.flame.get c).toNat then .flame
  else .noFlame

/-- A sample moves the flame runs, up to 16; a blanked one moves none (R128). -/
def Burner.sampled (b : Burner) (x : Sample) : Burner :=
  match x with
  | .blanked => b
  | .flame => { b with onRun := min 16 (b.onRun + 1), offRun := 0 }
  | .noFlame => { b with offRun := min 16 (b.offRun + 1), onRun := 0 }

/-- The counted flame sample that proves flame or makes a false flame (R130, R134). -/
def Burner.flameOn (b : Burner) (x : Sample) (p : BurnerParams) : Bool := x == .flame && decide (p.wOn ≤ b.onRun)

/-- The counted no-flame sample that loses flame or ends a false flame (R130, R140). -/
def Burner.flameOff (b : Burner) (x : Sample) (p : BurnerParams) : Bool := x == .noFlame && decide (p.wOff ≤ b.offRun)

/-- False flame and its timer after the sample `x` has moved the runs of `b` (R130): a false flame that is set is ended
by the off-run, and its timer counts this half-cycle otherwise. -/
def Burner.falseFlameStep (b : Burner) (x : Sample) (p : BurnerParams) : Burner :=
  if b.falseFlame then
    if b.flameOff x p then { b with falseFlame := false, falseTimer := 0 } else { b with falseTimer := b.falseTimer + 1 }
  else if b.flameOn x p then { b with falseFlame := true, falseTimer := 0 }
  else b

/-- The quiet count in LINE_WAIT (R129). -/
def Burner.quietStep (b : Burner) (f : Nat) (sparkSense : Bool) : Burner :=
  { b with quiet := if sparkSense then 0 else min f (b.quiet + 1) }

/-- What a half-cycle brings about on a burner. -/
inductive IgnitionOutcome where
  /-- the record alone moves -/
  | stays
  | sparkStart
  | falseFlameLockout
  | sparkEnd
  | proven
  | failed
  | lostSense
  | lostBlanking
  deriving DecidableEq, Repr

/-- A half-cycle on the holder in LINE_WAIT (R129, R130, R131). -/
def lineWaitStep (f : Nat) (sparkSense : Bool) (x : Sample) (p : BurnerParams) (b : Burner) : Burner × IgnitionOutcome :=
  let b1 := ((b.sampled x).falseFlameStep x p).quietStep f sparkSense
  if b1.falseFlame then (b1, if 20 * f ≤ b1.falseTimer then .falseFlameLockout else .stays)
  else (b1, if f ≤ b1.quiet then .sparkStart else .stays)

/-- A half-cycle on the holder in SPARK (R133). -/
def sparkStep (b : Burner) : Burner × IgnitionOutcome :=
  let b1 := { b with safety := b.safety + 1 }
  (b1, if b1.sparkTime ≤ b1.safety then .sparkEnd else .stays)

/-- A half-cycle on the holder in PROVE: the accumulator first, then the sample (R134). -/
def proveStep (x : Sample) (p : BurnerParams) (b : Burner) : Burner × IgnitionOutcome :=
  let b1 := { b with safety := b.safety + 1 }.sampled x
  (b1, if b1.flameOn x p then .proven else if b1.safetyTime ≤ b1.safety then .failed else .stays)

/-- A half-cycle on a supervised burner (R140). -/
def superviseStep (f : Nat) (x : Sample) (p : BurnerParams) (b : Burner) : Burner × IgnitionOutcome :=
  let b1 := { b.sampled x with blankRun := if x = .blanked then b.blankRun + 1 else 0 }
  (b1, if b1.flameOff x p then .lostSense else if 8 * f ≤ b1.blankRun then .lostBlanking else .stays)

/-- What a half-cycle does to the record of burner `c`, and what it brings about (R128 to R134, R140). -/
def ignitionStep (s : State) (c : Chan) : Burner × IgnitionOutcome :=
  let b := (s.chan c).burner
  let p := (s.chan c).cfg.params
  let f := hertz s.mtb.frequency
  if (s.chan c).cfg.kind ≠ .burner then (b, .stays)
  else
    match b.phase with
    | .lineWait => lineWaitStep f s.pins.inputs.spark (flameSample s c) p b
    | .spark => sparkStep b
    | .prove => proveStep (flameSample s c) p b
    | .none | .queued | .purge => if b.supervising then superviseStep f (flameSample s c) p b else (b, .stays)

/-- The record at entry to SPARK: accumulator and flame runs 0, S and T read (R132). -/
def Burner.atSpark (f : Option Frequency) (p : BurnerParams) (b : Burner) : Burner :=
  { b with
    phase := .spark, safety := 0, onRun := 0, offRun := 0
    sparkTime := sparkHalfCycles f p, safetyTime := safetyHalfCycles f p }

/-- Entry to SPARK: the valve opens at the ignition position and SPK_EN is asserted (R123, R124, R132). -/
def startSpark (c : Chan) (s : State) : State :=
  { s with igu := { s.igu with spark := true } }.mapChan c fun ch =>
    { ch with burner := ch.burner.atSpark s.mtb.frequency ch.cfg.params, valve := ch.cfg.params.position }

/-- The spark time has run: SPK_EN is released and the holder enters PROVE (R133). -/
def endSpark (c : Chan) (s : State) : State :=
  { s with igu := { s.igu with spark := false } }.mapChan c fun ch =>
    { ch with burner := { ch.burner with phase := .prove } }

/-- The record at a proof: the on-run stands, supervision begins (R135). -/
def Burner.atProof (b : Burner) : Burner :=
  { b with
    phase := .none, attempt := 1, safety := 0, quiet := 0, purge := 0, falseFlame := false, falseTimer := 0
    supervising := true, offRun := 0, blankRun := 0 }

/-- Flame is proven on the holder (R135). -/
def proveFlame (c : Chan) (s : State) : State :=
  releaseUnit (s.mapChan c fun ch =>
    { ch with
      chc := { ch.chc with state := .running }
      valve := ch.pgu.level
      burner := ch.burner.atProof })

/-- A burner is locked out with `cause` (R131, R138, R142): the bit is set, LOCKOUT is raised, the channel enters
LOCKOUT and its program ends, its records return to their reset values, and the unit is released. -/
def lockOut (c : Chan) (cause : EndCause) (s : State) : State :=
  let s1 := s.mapChan c fun ch => { ch with lockoutBit := true, valve := 0 }
  let s2 := endProgram c cause .lockout (raiseFor c .lockout cause.code s1)
  s2.mapChan c fun ch => { ch with burner := .reset }

/-- The record of a burner that goes to PURGE: flame runs and accumulator 0, purge count set (R137). -/
def Burner.atPurge (p : BurnerParams) (b : Burner) : Burner :=
  { b with phase := .purge, purge := p.purge + 1, safety := 0, onRun := 0, offRun := 0 }

/-- An attempt fails (R137, R138): IGNITION_FAIL is raised; the burner goes to PURGE, or is locked out on its last
attempt. -/
def failAttempt (c : Chan) (s : State) : State :=
  let s1 := raiseFor c .ignitionFail (s.chan c).burner.attempt (s.mapChan c fun ch => { ch with valve := 0 })
  if (s.chan c).burner.attempt < (s.chan c).burner.allowed then
    releaseUnit (s1.mapChan c fun ch => { ch with burner := ch.burner.atPurge ch.cfg.params })
  else lockOut c .lockout s1

/-- Flame is lost on a supervised burner (R141): FLAME_LOSS, and IGNITING with one attempt. -/
def loseFlame (c : Chan) (parameter : Nat) (s : State) : State :=
  enterIgnition c 1 (raiseFor c .flameLoss parameter (s.mapChan c Channel.extinguished))

/-- What the outcome of a half-cycle does to the station. -/
def applyIgnition (c : Chan) (o : IgnitionOutcome) (s : State) : State :=
  match o with
  | .stays => s
  | .sparkStart => startSpark c s
  | .falseFlameLockout => recompute (lockOut c .falseFlame s)
  | .sparkEnd => endSpark c s
  | .proven => recompute (proveFlame c s)
  | .failed => recompute (failAttempt c s)
  | .lostSense => recompute (loseFlame c 0 s)
  | .lostBlanking => recompute (loseFlame c 1 s)

/-- An accepted half-cycle on the ignition unit, as far as burner `c` is concerned (R128). -/
def ignitionShare (c : Chan) (s : State) : State :=
  applyIgnition c (ignitionStep s c).2 (s.mapChan c fun ch => { ch with burner := (ignitionStep s c).1 })

/-- A second event on a burner in PURGE; at 0 it rejoins the queue with its attempt number raised by 1 (R139). -/
def purgeSecond (c : Chan) (s : State) : State :=
  if (s.chan c).burner.phase = .purge then
    if 1 < (s.chan c).burner.purge then
      s.mapChan c fun ch => { ch with burner := { ch.burner with purge := ch.burner.purge - 1 } }
    else
      joinQueue c (s.mapChan c fun ch =>
        { ch with burner := { ch.burner with purge := 0, attempt := ch.burner.attempt + 1 } })
  else s

/-- The second event on burner `c`, unless it has taken it, or has entered PURGE within the same half-cycle (R139). -/
def purgeShare (c : Chan) (s : State) : State := if s.taken.contains (.purge c) then s else purgeSecond c s

/-- The prescaler counts a half-cycle; at 2f it returns to 0 and a second event reaches every purging burner, in rising
order (R4, R125, R139). -/
def prescalerShare (s : State) : State :=
  if s.mtb.prescaler + 1 < perSecond s.mtb.frequency then
    { s with mtb := { s.mtb with prescaler := s.mtb.prescaler + 1 } }
  else forChans purgeShare { s with mtb := { s.mtb with prescaler := 0 } }

/-- A LOCKOUT channel is cleared by a manual reset (R60, R144). -/
def clearLockout (c : Chan) (s : State) : State :=
  if (s.chan c).chc.state = .lockout then
    raise { kind := .lockoutCleared, channel := some c, slot := none, parameter := 0 }
      (s.mapChan c fun ch => { ch with lockoutBit := false, chc := { ch.chc with state := .idle } })
  else s

/-- The manual reset request: taken while no burner holds the unit, ignored otherwise (R144). -/
def takeManualReset (s : State) : State :=
  match s.igu.holder with
  | none => recompute (forChans clearLockout s)
  | some _ => s

end Sys2Proof.Machine
end

