-- ==== Sys2Proof/Machine/Gates.lean ====
section
/-! DEFINITION. The gate input block (07): the gate and MR filters, gated conditions and DOOR events. -/

namespace Sys2Proof.Machine

/-- The gate's next sample is its eighth of the new state: the change is accepted (R152). -/
def gateAccepts (sample : Bool) (g : Gate) : Bool := sample != g.active && decide (Config.filterLength ≤ g.run + 1)

/-- A sample on a gate's filter (R152). -/
def gateStep (sample : Bool) (g : Gate) : Gate :=
  if sample = g.active then { g with run := 0 }
  else if g.run + 1 < Config.filterLength then { g with run := g.run + 1 }
  else { g with active := sample, run := 0 }

/-- The channels with their gated conditions worked out anew from the kinds, masks and filtered states (R156). -/
def regated (s : State) : State := mapChans (fun ch => { ch with gated := gatedBy s.gib.gates ch.cfg }) s

/-- The gated conditions are worked out anew, and the unit and the drivers are told where one changes (R157, R159). -/
def regate (s : State) : State :=
  if allChans.any fun c => ((regated s).chan c).gated != (s.chan c).gated then recompute (regated s) else regated s

/-- The DOOR event of gate `g` for channel `c`, whose mask includes it: OPEN for a change to ACTIVE (R158). -/
def doorEvent (g : Fin 4) (nowActive : Bool) (c : Chan) (s : State) : State :=
  if (s.chan c).cfg.kind.isElement && gateInMask (s.chan c).cfg.gateMask g then
    raiseFor c .door (if nowActive then 0 else 1) s
  else s

/-- The events of gate `g`, where it is a door and its change is accepted at this sample (R158). -/
def doorEvents (samples : Quad Bool) (before : Quad Gate) (g : Fin 4) (s : State) : State :=
  if (before.get g).kind = .door ∧ gateAccepts (samples.get g) (before.get g) then
    forChans (doorEvent g (samples.get g)) s
  else s

/-- An accepted half-cycle on the four gate filters (R151, R152, R157, R158). -/
def gatesShare (s : State) : State :=
  let samples := s.pins.inputs.gates
  let s1 := forChans (doorEvents samples s.gib.gates) s
  regate { s1 with gib := { s1.gib with gates := .ofFn fun g => gateStep (samples.get g) (s.gib.gates.get g) } }

/-- The MR filter at a sample: `pressed` is an active sample; the answer says whether a press is qualified (R153). -/
def manualStep (f : Option Frequency) (pressed : Bool) (g : Gib) : Gib × Bool :=
  match g.mrActive, pressed with
  | false, true =>
    if g.mrOn + 1 < perSecond f then ({ g with mrOn := g.mrOn + 1 }, false)
    else ({ g with mrActive := true, mrOn := 0 }, true)
  | false, false => ({ g with mrOn := 0 }, false)
  | true, false =>
    if g.mrOff + 1 < Config.filterLength then ({ g with mrOff := g.mrOff + 1 }, false)
    else ({ g with mrActive := false, mrOff := 0 }, false)
  | true, true => ({ g with mrOff := 0 }, false)

/-- An accepted half-cycle on the MR filter: a low pin is a press, and a qualified press is one manual reset request
(R151, R153). -/
def manualShare (s : State) : State :=
  let step := manualStep s.mtb.frequency (!s.pins.inputs.mr) s.gib
  if step.2 then takeManualReset { s with gib := step.1 } else { s with gib := step.1 }

/-- Mains failure: the filtered states hold, the runs and counts become 0 (R154). -/
def clearFilters (s : State) : State :=
  { s with
    gib := { s.gib with
      gates := .ofFn fun g => { s.gib.gates.get g with run := 0 }
      mrOn := 0, mrOff := 0 } }

end Sys2Proof.Machine
end

