-- ==== Sys2Proof/Machine/Configure.lean ====
section
/-! DEFINITION. The three configuration commands (09): the judging order of R183 and what each stores. -/

namespace Sys2Proof.Machine

/-- The result `r` on channel `c` alone, DONE on the others (R183). -/
def resultOn (c : Chan) (r : Result) : Quad Result := (Quad.fill .done).set c r

/-- Steps 1 and 2 of R183 for CONFIGURE_STATION and CONFIGURE_CHANNEL, before `f`. -/
def whereConfigurable (f : State → State × Quad Result) (s : State) : State × Quad Result :=
  if !s.configOpen then (s, .fill .configClosed)
  else if s.ssv.station = .safe then (s, .fill .refusedState)
  else f s

/-- The gate kinds stored (R184). -/
def Gib.withKinds (g : Gib) (kinds : Quad GateKind) : Gib :=
  { g with gates := .ofFn fun i => { g.gates.get i with kind := kinds.get i } }

/-- CONFIGURE_STATION that is taken (R184): budgets, gate kinds, gated conditions, recomputation. -/
def storeStation (a b : BitVec 16) (kinds : Quad GateKind) (s : State) : State :=
  recompute (regate
    { s with
      apu := { s.apu with budgetA := budgetOfField a, budgetB := budgetOfField b }
      gib := s.gib.withKinds kinds
      stationConfigured := true })

/-- CONFIGURE_STATION (R183, R184). -/
def runConfigureStation (a b : BitVec 16) (gates : Byte) : State → State × Quad Result :=
  whereConfigurable fun s =>
    match gateKindsOfByte gates with
    | none => (s, .fill .badValue)
    | some kinds => (storeStation a b kinds s, .fill .done)

/-- The step table with every level above 9 brought to 9 (R21). -/
def Pgu.clampLevels (p : Pgu) : Pgu :=
  { p with slots := p.slots.map (Option.map fun r => { r with level := min 9 r.level }) }

/-- The channel as CONFIGURE_CHANNEL leaves it (R185, R186 steps 1 and 2): the fields, the step table of a burner, the
driver at its reset values and the output off. -/
def Channel.configure (k : ChanKind) (b : ChannelBytes) (ch : Channel) : Channel :=
  { ch with
    cfg := channelConfigOf ch.cfg k b
    pgu := if k = .burner then ch.pgu.clampLevels else ch.pgu
    driver := .reset
    valve := 0 }

/-- The channel state admits a configuration command (R183 step 4). -/
def stateConfigurable (st : ChanState) : Bool :=
  match st with
  | .idle | .lockout => true
  | .delayed | .igniting | .running | .paused | .disabled => false

/-- CONFIGURE_CHANNEL (R183, R185, R186). -/
def runConfigureChannel (b : ChannelBytes) : State → State × Quad Result :=
  whereConfigurable fun s =>
    match chanOfByte b.channel with
    | none => (s, .fill .badValue)
    | some c =>
      if !stateConfigurable (s.chan c).chc.state then (s, resultOn c .refusedState)
      else
        match kindOfByte b.kind with
        | none => (s, resultOn c .badValue)
        | some k => (recompute (regate (s.mapChan c (Channel.configure k b))), .fill .done)

/-- The eight parameters stored (R187). -/
def storeBurner (b : BurnerBytes) (ch : Channel) : Channel :=
  { ch with cfg := { ch.cfg with burnerTaken := true, params := burnerParamsOf b } }

/-- CONFIGURE_BURNER (R183 step 3, R187). -/
def runConfigureBurner (channel : Byte) (b : BurnerBytes) (s : State) : State × Quad Result :=
  match chanOfByte channel with
  | none => (s, .fill .badValue)
  | some c => (s.mapChan c (storeBurner b), .fill .done)

/-! ### The rows of the table -/

/-- CONFIGURE_STATION (R183, R184). -/
def execConfigureStation (h : CmdHeader) (budgetA budgetB : BitVec 16) (gates : Byte) (s : State) :
    Host.Outcome State Fault Refusal :=
  live (acceptCommand h 1 (runConfigureStation budgetA budgetB gates)) s

/-- CONFIGURE_CHANNEL (R183, R185, R186). -/
def execConfigureChannel (h : CmdHeader) (b : ChannelBytes) (s : State) : Host.Outcome State Fault Refusal :=
  live (acceptCommand h 2 (runConfigureChannel b)) s

/-- CONFIGURE_BURNER (R183, R187). -/
def execConfigureBurner (h : CmdHeader) (channel : Byte) (b : BurnerBytes) (s : State) :
    Host.Outcome State Fault Refusal :=
  live (acceptCommand h 3 (runConfigureBurner channel b)) s

end Sys2Proof.Machine
end

