-- ==== Sys2Proof/Decode.lean ====
section
/-! DEFINITION. The command that a word spells, and the command that a frame of the zone line carries.

The table gives no row any bits, so no word spells a command.  What the spec does give is the layout of COMMAND and HALT
frames (08, Frame and parameter layouts); `commandOfFrame` reads the row of a valid frame from its bytes. -/

namespace Sys2Proof

/-- The command that the bits `w` spell: none, since the table gives no row any bits. -/
def decodeTableWord (_nbits _w : Nat) : Option Instr := none

/-- The header of a COMMAND frame: source in byte 0, match mask and target in payload byte 0 (R165, R171). -/
def headerOfFrame (frame : List Byte) : CmdHeader :=
  { source := Machine.frameSource frame
    mask := (Machine.payloadByte frame 0).extractLsb' 4 4
    target := (Machine.payloadByte frame 0).extractLsb' 0 4 }

/-- Two payload bytes from `i` on as one number, most significant first. -/
def payloadWord (frame : List Byte) (i : Nat) : BitVec 16 :=
  Machine.payloadByte frame i ++ Machine.payloadByte frame (i + 1)

/-- Three payload bytes from `i` on as one number, most significant first. -/
def payloadTriple (frame : List Byte) (i : Nat) : BitVec 24 :=
  Machine.payloadByte frame i ++ payloadWord frame (i + 1)

/-- The row of an ADJUST by its target and operation bytes; codes beyond the table go to ADJUST_TIME_SET (log entry
8). -/
def adjustRow (order : List Chan) (h : CmdHeader) (mask target operation : Byte) (value : BitVec 24) : Instr :=
  match Machine.adjustTargetOfByte target, Machine.adjustOperationOfByte operation with
  | some .level, some .set => .adjustLevelSet h mask value
  | some .level, some .add => .adjustLevelAdd h mask value
  | some .level, some .subtract => .adjustLevelSubtract h mask value
  | some .time, some .add => .adjustTimeAdd h mask value
  | some .time, some .subtract => .adjustTimeSubtract h mask value order
  | _, _ => .adjustTimeSet h mask target operation value order

/-- The row of a COMMAND whose code and length agree with the table of 08, for a station that the frame matches; a frame
carries neither the straps nor the order of the events it causes. -/
def commandRow (straps : BitVec 4) (order : List Chan) (frame : List Byte) : Instr :=
  let h := headerOfFrame frame
  let b := Machine.payloadByte frame
  match (b 1).toNat with
  | 1 => .configureStation h (payloadWord frame 2) (payloadWord frame 4) (b 6)
  | 2 => .configureChannel h ⟨b 2, b 3, payloadWord frame 4, b 6, b 7, b 8⟩
  | 3 => .configureBurner h (b 2) ⟨b 3, b 4, b 5, b 6, b 7, b 8, b 9, b 10⟩
  | 4 =>
    if b 8 = 0xFF then .loadStepClear h (b 2) (b 3) else .loadStep h (b 2) (b 3) (b 4) (payloadTriple frame 5) (b 8)
  | 5 => .start h (b 2) (b 3) (payloadTriple frame 4)
  | 6 => .pause h (b 2)
  | 7 => .resume h (b 2)
  | 8 => if b 2 = 0x80 then .stopLast h else .stop h (b 2) order
  | 9 => .skip h (b 2) order
  | 10 => adjustRow order h (b 2) (b 3) (b 4) (payloadTriple frame 5)
  | 11 => .query h (b 2)
  | 12 => .clearFlags h
  | _ => .resetStation h straps

/-- The row of a complete frame taken by the station of address `own`, whose straps now stand at `straps` (R170 to
R172), and whose report unit takes the events it causes in the turns of `order` (R195). -/
def commandOfFrame (own : Address) (straps : BitVec 4) (order : List Chan) (frame : List Byte) : Instr :=
  if !Machine.frameValid frame then .frameRejected frame
  else
    match Machine.frameKind frame with
    | 0 => .halt (Machine.frameSource frame)
    | 1 =>
      if !Machine.addressMatches own (headerOfFrame frame) then .commandNotMatched (headerOfFrame frame)
      else if Machine.commandLength (Machine.payloadByte frame 1).toNat = some (Machine.frameLength frame) then
        commandRow straps order frame
      else
        .commandUnknown (headerOfFrame frame) (Machine.payloadByte frame 1) ((Machine.framePayload frame).drop 2)
    | _ => .peerReportReceived frame

/-- Payload byte 0 of a COMMAND (R171). -/
def headerByte (h : CmdHeader) : Byte := h.mask ++ h.target

/-- A number of two bytes, most significant first. -/
def wordBytes (w : BitVec 16) : List Byte := [w.extractLsb' 8 8, w.extractLsb' 0 8]

/-- A number of three bytes, most significant first. -/
def tripleBytes (w : BitVec 24) : List Byte := [w.extractLsb' 16 8, w.extractLsb' 8 8, w.extractLsb' 0 8]

/-- A COMMAND frame (R165; 08, COMMAND frames). -/
def commandFrame (h : CmdHeader) (code : Byte) (parameters : List Byte) : List Byte :=
  Machine.makeFrame 1 h.source (headerByte h :: code :: parameters)

/-- The frame that brings a HALT or a command of the zone line about; none for the other rows. -/
def frameOfCommand (i : Instr) : Option (List Byte) :=
  match i with
  | .halt source => some (Machine.makeFrame 0 source [])
  | .commandUnknown h code parameters => some (commandFrame h code parameters)
  | .configureStation h a b gates => some (commandFrame h 1 (wordBytes a ++ wordBytes b ++ [gates]))
  | .configureChannel h b =>
    some (commandFrame h 2 ([b.channel, b.kind] ++ wordBytes b.load ++ [b.packed, b.period, b.minSwitch]))
  | .configureBurner h channel b =>
    some (commandFrame h 3
      [channel, b.position, b.attempts, b.sparkTime, b.safetyTime, b.purge, b.threshold, b.wOn, b.wOff])
  | .loadStep h mask slot level duration endAction =>
    some (commandFrame h 4 ([mask, slot, level] ++ tripleBytes duration ++ [endAction]))
  | .loadStepClear h mask slot => some (commandFrame h 4 [mask, slot, 0, 0, 0, 0, 0xFF])
  | .start h mask slot delay => some (commandFrame h 5 ([mask, slot] ++ tripleBytes delay))
  | .pause h mask => some (commandFrame h 6 [mask])
  | .resume h mask => some (commandFrame h 7 [mask])
  | .stop h selector _ => some (commandFrame h 8 [selector])
  | .stopLast h => some (commandFrame h 8 [0x80])
  | .skip h mask _ => some (commandFrame h 9 [mask])
  | .adjustLevelSet h mask value => some (commandFrame h 10 ([mask, 0, 0] ++ tripleBytes value))
  | .adjustLevelAdd h mask value => some (commandFrame h 10 ([mask, 0, 1] ++ tripleBytes value))
  | .adjustLevelSubtract h mask value => some (commandFrame h 10 ([mask, 0, 2] ++ tripleBytes value))
  | .adjustTimeSet h mask target operation value _ =>
    some (commandFrame h 10 ([mask, target, operation] ++ tripleBytes value))
  | .adjustTimeAdd h mask value => some (commandFrame h 10 ([mask, 1, 1] ++ tripleBytes value))
  | .adjustTimeSubtract h mask value _ => some (commandFrame h 10 ([mask, 1, 2] ++ tripleBytes value))
  | .query h mask => some (commandFrame h 11 [mask])
  | .clearFlags h => some (commandFrame h 12 [])
  | .resetStation h _ => some (commandFrame h 13 [])
  | .supplyBelowThreshold | .powerOnReset _ | .acceptedCrossing _ _ | .frequencySet | .secondEvent | .mainsAbsent
  | .mainsRestored | .mainsFailed _ | .stationActive | .stepExpiry _ | .delayEnd _ | .intervalEvent | .peerRowRemoved _
  | .starvationBegin | .raiseHoldClear _ | .slowPeriodStart _ _ | .slowOnTimeEnd _ _ | .stuckOff _ _ | .stuckOn _ _
  | .stuckOnRepeat _ _ | .uncontrolledCleared _ _ | .sparkStart _ _ | .sparkEnd _ _ | .flameProven _ _ | .attemptFail _ _
  | .falseFlameSet _ _ | .falseFlameCleared _ _ | .falseFlameLockout _ _ | .purgeEnd _ | .flameLoss _ _
  | .gateChangeAccepted _ | .manualResetRequest _ | .mrRelease _ | .lineIdle _ | .arbitrationLost _ | .frameAbandoned _ _
  | .replySent | .demandSent | .eventFrameSent | .stateSent | .receiveAborted _ | .frameRejected _
  | .peerReportReceived _ | .commandNotMatched _ | .zxFilterSample _ _ | .contendingOnIdleLine _ => none

end Sys2Proof
end

