-- ==== Sys2Proof/Machine/Drive.lean ====
section
/-! DEFINITION. The element drivers (05): the drive check, drive faults and the entry to SAFE, cycle drive and slow
drive, and what the mains does to a driver. -/

namespace Sys2Proof.Machine

/-- A driver works for its channel: CYCLE or SLOW, and not in LOCKOUT (R99). -/
def driverWorks (ch : Channel) : Bool := ch.cfg.kind.isElement && ch.chc.state != .lockout

/-- What a sample reports. -/
inductive DriveVerdict where
  | nothing
  | stuckOff
  | stuckOn
  | cleared
  deriving DecidableEq, Repr

/-- A judged sample while the uncontrolled status is set (R117). -/
def judgeUncontrolled (conducting : Bool) (d : Driver) : Driver × DriveVerdict :=
  if conducting then ({ d with clearCount := 0 }, .nothing)
  else if d.clearCount + 1 < Config.driveFaultCount then ({ d with clearCount := d.clearCount + 1 }, .nothing)
  else ({ d with uncontrolled := false, clearCount := 0, offMismatch := 0 }, .cleared)

/-- A judged sample otherwise (R114): a count that reaches 6 is reported and becomes 0. -/
def judgeControlled (conducting : Bool) (d : Driver) : Driver × DriveVerdict :=
  match d.output, conducting with
  | true, true => ({ d with onMismatch := 0 }, .nothing)
  | true, false =>
    if d.onMismatch + 1 < Config.driveFaultCount then ({ d with onMismatch := d.onMismatch + 1 }, .nothing)
    else ({ d with onMismatch := 0 }, .stuckOff)
  | false, true =>
    if d.offMismatch + 1 < Config.driveFaultCount then ({ d with offMismatch := d.offMismatch + 1 }, .nothing)
    else ({ d with offMismatch := 0 }, .stuckOn)
  | false, false => ({ d with offMismatch := 0 }, .nothing)

/-- Step 1 of a half-cycle: the sample of the sense input, unless the check is suspended or a relay settles (R101,
R112, R113). -/
def driveSample (kind : ChanKind) (conducting : Bool) (d : Driver) : Driver × DriveVerdict :=
  if d.suspended then (d, .nothing)
  else if kind = .slow ∧ 0 < d.settle then ({ d with settle := d.settle - 1 }, .nothing)
  else if d.uncontrolled then judgeUncontrolled conducting d
  else judgeControlled conducting d

/-- The sample of channel `c`'s driver at this half-cycle. -/
def driverSample (s : State) (c : Chan) : Driver × DriveVerdict :=
  driveSample (s.chan c).cfg.kind (s.pins.inputs.sense.get c) (s.chan c).driver

/-- An element channel with a program ends it with cause SAFE on entry to SAFE (R14, R62). -/
def safeChannel (c : Chan) (s : State) : State :=
  if (s.chan c).cfg.kind.isElement then endIfProgram c .safe s else s

/-- The station enters SAFE: SR is released and every element program ends; a station that is SAFE stays so (R14). -/
def enterSafe (s : State) : State :=
  if s.ssv.station = .safe then s
  else forChans safeChannel { s with ssv := { s.ssv with station := .safe, prior := none, relay := false } }

/-- The channel enters DISABLED with end cause DRIVE, ending a program it had; a DISABLED channel is unchanged (R61,
R118). -/
def disableChannel (c : Chan) (s : State) : State :=
  if (s.chan c).chc.state = .disabled then s
  else if (s.chan c).chc.state.hasProgram then endProgram c .drive .disabled s
  else s.mapChan c fun ch => { ch with chc := { ch.chc with state := .disabled, endCause := .drive } }

/-- STUCK_OFF is reported (R115). -/
def reportStuckOff (c : Chan) (s : State) : State := recompute (disableChannel c (raiseFor c .driveFault 0 s))

/-- STUCK_ON is reported, for the first time or again (R116, R118, R71). -/
def reportStuckOn (c : Chan) (s : State) : State :=
  recompute (makeRequest (enterSafe
    ((disableChannel c (raiseFor c .driveFault 1 s)).mapChan c fun ch =>
      { ch with driver := { ch.driver with uncontrolled := true, clearCount := 0 } })))

/-- What the verdict of a sample does to the station. -/
def applyVerdict (c : Chan) (v : DriveVerdict) (s : State) : State :=
  match v with
  | .nothing => s
  | .stuckOff => reportStuckOff c s
  | .stuckOn => reportStuckOn c s
  | .cleared => recompute s

/-- Step 2 for a CYCLE channel: the cycle decision at a cycle-start (R102), and the second half (R103). -/
def cycleCommand (rising : Bool) (d : Driver) : Driver :=
  if rising then
    if 100 ≤ d.accumulator + d.level then
      { d with accumulator := d.accumulator + d.level - 100, conducting := true, output := true }
    else { d with accumulator := d.accumulator + d.level, conducting := false, output := false }
  else if d.conducting ∧ 0 < d.level then { d with output := true }
  else { d with output := false, conducting := false }

/-- The period position and on-time of a RUNNING SLOW channel at a half-cycle: a period starts at the first event and
whenever q reaches P, at the limit then in force (R106, R107). -/
def slowAdvance (P M limit : Nat) (d : Driver) : Driver :=
  if d.inPeriod ∧ d.position + 1 < P then { d with position := d.position + 1 }
  else { d with inPeriod := true, position := 0, level := limit, onTime := slowOnTime P M limit }

/-- The command of a relay; a change of it sets the settle count (R113). -/
def Driver.commandRelay (d : Driver) (on : Bool) : Driver :=
  { d with output := on, settle := if d.output = on then d.settle else Config.settleSamples }

/-- Step 2 for a SLOW channel (R107). -/
def slowCommand (P M : Nat) (ch : Channel) : Driver :=
  if ch.chc.state = .running then
    let d := slowAdvance P M (driveLimit ch) ch.driver
    d.commandRelay (decide (d.position < d.onTime))
  else { ch.driver with inPeriod := false, position := 0, onTime := 0, level := 0 }.commandRelay false

/-- Step 2 of a half-cycle (R101). -/
def driveCommand (f : Option Frequency) (rising : Bool) (ch : Channel) : Driver :=
  match ch.cfg.kind with
  | .cycle => cycleCommand rising ch.driver
  | .slow => slowCommand (slowPeriod f ch.cfg) (slowMinSwitch f ch.cfg) ch
  | .notConfigured | .unused | .burner => ch.driver

/-- An accepted half-cycle on the driver of a channel: the sample, what it reports, and the command (R101). -/
def driverShare (rising : Bool) (c : Chan) (s : State) : State :=
  if driverWorks (s.chan c) then
    let s1 := applyVerdict c (driverSample s c).2 (s.mapChan c fun ch => { ch with driver := (driverSample s c).1 })
    s1.mapChan c fun ch => { ch with driver := driveCommand s.mtb.frequency rising ch }
  else s

/-- The mains absent report on a driver: OFF at once, checks suspended; a relay that was ON has its settle count set
(R111, R113). -/
def Driver.mainsAbsent (kind : ChanKind) (d : Driver) : Driver :=
  { d with
    output := false
    suspended := true
    settle := if kind = .slow ∧ d.output then Config.settleSamples else d.settle }

/-- The mains absent report on a channel's driver, where it works (R99, R111). -/
def suspendDriver (ch : Channel) : Channel :=
  if driverWorks ch then { ch with driver := ch.driver.mainsAbsent ch.cfg.kind } else ch

/-- The drive checks resume (R12, R111). -/
def resumeDriver (ch : Channel) : Channel := { ch with driver := { ch.driver with suspended := false } }

end Sys2Proof.Machine
end

