-- ==== Sys2Proof/Machine/Station.lean ====
section
/-! DEFINITION. The station supervisor (01, Station states): the reports of the mains time base and what the station does
on each, and the resets. -/

namespace Sys2Proof.Machine

/-- A channel on the mains absent report: one that is DELAYED, RUNNING or IGNITING is PAUSED by MAINS, a PAUSED one has
MAINS added (R11, R55, R145). -/
def absentChannel (c : Chan) (s : State) : State :=
  match (s.chan c).chc.state with
  | .delayed | .running | .igniting => enterPaused c ⟨false, true⟩ s
  | .paused =>
    s.mapChan c fun ch => { ch with chc := { ch.chc with causes := { ch.chc.causes with mains := true } } }
  | .idle | .lockout | .disabled => s

/-- The station state on the mains absent report: LISTEN and ACTIVE go to RIDE_THROUGH and are recorded, SAFE stays
(R11, R15). -/
def Ssv.mainsAbsent (v : Ssv) : Ssv :=
  match v.station with
  | .listen | .active => { v with station := .rideThrough, prior := some v.station }
  | .mainsWait | .rideThrough | .safe => v

/-- The time base when the missing-crossing timer expires (R5). -/
def Mtb.mainsAbsent (m : Mtb) : Mtb :=
  { m with mode := .missing, missingTimer := none, rideTimer := some 0, returnRun := 0 }

/-- Mains absent (R5, R11, R15, R55, R111, R145): the event first, then the channels, the outputs and the recomputation
for the station state. -/
def reportMainsAbsent (s : State) : State :=
  let s1 := { s with mtb := s.mtb.mainsAbsent, ssv := s.ssv.mainsAbsent, taken := [], sparkRead := none }
  let s2 := raise { kind := .mainsAbsent, channel := none, slot := none, parameter := 0 } s1
  recompute (mapChans suspendDriver (forChans absentChannel s2))

/-- MAINS is removed from a PAUSED channel, which leaves PAUSED if no cause is left (R12, R55). -/
def restoredChannel (c : Chan) (s : State) : State :=
  if (s.chan c).chc.state = .paused then removeCause c ⟨(s.chan c).chc.causes.command, false⟩ s else s

/-- The station state on the mains restored report (R12, R15). -/
def Ssv.mainsRestored (v : Ssv) : Ssv :=
  if v.station = .rideThrough then { v with station := v.prior.getD .rideThrough, prior := none } else v

/-- The time base when the run of correctly spaced crossings reaches 10 (R6). -/
def Mtb.mainsRestored (m : Mtb) : Mtb :=
  { m with mode := .tracking, rideTimer := none, missingTimer := some 0, returnRun := 10 }

/-- Mains restored (R6, R12, R15, R54, R111, R146): MAINS_RESTORED carries the absence in tenths. -/
def reportMainsRestored (s : State) : State :=
  let tenths := s.mtb.rideTimer.getD 0 / 800
  let s1 := { s with mtb := s.mtb.mainsRestored, ssv := s.ssv.mainsRestored }
  let s2 := raise { kind := .mainsRestored, channel := none, slot := none, parameter := tenths } s1
  recompute (mapChans resumeDriver (forChans restoredChannel s2))

/-- The time base when the ride-through timer expires (R7). -/
def Mtb.mainsFailed (m : Mtb) : Mtb :=
  { m with
    mode := .measuring, frequency := none, prescaler := 0, windowCount := 0, windowSum := 0, rideTimer := none
    missingTimer := none }

/-- Entry to MAINS_WAIT from RIDE_THROUGH: the supervisor, the interval counter, the own-send age and the request (R13,
R79, R80, R81). -/
def enterMainsWait (s : State) : State :=
  withdrawRequest
    { s with
      ssv := { s.ssv with station := .mainsWait, listenCount := 0, prior := none }
      apu := { s.apu with interval := 0, ownSendAge := 0 } }

/-- Mains failed (R7, R13, R15, R55, R78, R84, R154): programs end with cause MAINS, the power-fail latch is set, the peer
table is emptied and every hold is cleared.  No rule orders the PROGRAM_END records of the channels: `order` does
(R195, log entry 20). -/
def reportMainsFailed (order : List Chan) (s : State) : State :=
  let s1 := raiseInTurn order s (forChans (fun c => endIfProgram c .mains) (setAside { s with mtb := s.mtb.mainsFailed }))
  let s2 := if s1.ssv.station = .safe then s1 else enterMainsWait s1
  clearHolds (recompute (clearFilters (emptyPeers { s2 with ssv := { s2.ssv with powerFail := true } })))

/-- The supervisor on the frequency set report: LISTEN with listen count 0, or SAFE as it was (R9, R15). -/
def Ssv.frequencySet (v : Ssv) : Ssv :=
  if v.station = .safe then v else { v with station := .listen, listenCount := 0, prior := none }

/-- The time base when the window gives a frequency (R2). -/
def Mtb.frequencySet (m : Mtb) (f : Frequency) : Mtb :=
  { m with mode := .tracking, frequency := some f, prescaler := 0, missingTimer := some 0 }

/-- Frequency set (R2, R9, R15, R79, R80, R81, R111). -/
def reportFrequencySet (f : Frequency) (s : State) : State :=
  let s1 :=
    { s with
      mtb := s.mtb.frequencySet f
      ssv := s.ssv.frequencySet
      apu := { s.apu with interval := 0, ownSendAge := 0 } }
  recompute (mapChans resumeDriver (makeRequest s1))

/-- SUPPLY_BELOW_THRESHOLD (R19). -/
def execSupplyBelowThreshold (s : State) : Host.Outcome State Fault Refusal := .next (inactiveOutputs s)

/-- POWER_ON_RESET (R19): the part leaves reset with the straps as they are. -/
def execPowerOnReset (straps : BitVec 4) (s : State) : Host.Outcome State Fault Refusal :=
  .next (resetAll .powerOn straps s)

end Sys2Proof.Machine
end

