-- ==== Sys2Proof/Machine/TimeBase.lean ====
section
/-! DEFINITION. The mains time base (01, Time base structure): the zero-crossing filter, the frequency measurement, the
half-cycle that every block takes, the loss and the return of the mains. -/

namespace Sys2Proof.Machine

/-! ### The half-cycle -/

/-- Every unit that takes a half-cycle, in the order in which the model delivers those the sender does not order (log
entry 4). -/
def allUnits : List HalfCycleUnit :=
  [.gates, .manualReset, .prescaler,
   .program 0, .program 1, .program 2, .program 3,
   .ignition 0, .ignition 1, .ignition 2, .ignition 3,
   .driver 0, .driver 1, .driver 2, .driver 3,
   .hold 0, .hold 1, .hold 2, .hold 3,
   .interval]

/-- The second event of the coming half-cycle is still to be taken: the prescaler reaches 2f with it (R4). -/
def secondDue (s : State) : Bool :=
  mayTake .prescaler s && decide (perSecond s.mtb.frequency ≤ s.mtb.prescaler + 1)

/-- What a half-cycle does on one unit (R3); `rising` is a cycle-start.  The prescaler's share gives every burner its
second event, so `purge` is a share of its own only ahead of the prescaler's. -/
def unitShare (rising : Bool) (u : HalfCycleUnit) (s : State) : State :=
  match u with
  | .program c => programShare c s
  | .driver c => driverShare rising c s
  | .ignition c => ignitionShare c s
  | .hold c => holdShare c s
  | .prescaler => prescalerShare s
  | .interval => intervalShare s
  | .gates => gatesShare s
  | .manualReset => manualShare s
  | .purge c => onlyIf (secondDue s) (purgeSecond c) s

/-- A burner that became holder within a half-cycle takes its first sample at the next one (R126). -/
def newHolder (before after : State) : List HalfCycleUnit :=
  if before.igu.holder = after.igu.holder then [] else (after.igu.holder.map HalfCycleUnit.ignition).toList

/-- The step timer of a burner whose flame was proven within a half-cycle runs on with the next one (R28, R135). -/
def newlyProven (before after : State) : List HalfCycleUnit :=
  (allChans.filter fun c => (before.chan c).chc.state == .igniting && (after.chan c).chc.state == .running).map .program

/-- A purge that began within a half-cycle does not take that half-cycle's second event (R139). -/
def newPurges (before after : State) : List HalfCycleUnit :=
  (allChans.filter fun c => (before.chan c).burner.phase != .purge && (after.chan c).burner.phase == .purge).map .purge

/-- What began within a share and takes its own first share at a later half-cycle. -/
def begun (before after : State) : List HalfCycleUnit :=
  newHolder before after ++ newlyProven before after ++ newPurges before after

/-- The shares of the same event of the ignition unit that come before `u`: its burners take a half-cycle, and a second
event, in rising channel order, so that those that join the queue in one event join in that order (R125). -/
def earlierShares (u : HalfCycleUnit) : List HalfCycleUnit :=
  match u with
  | .ignition c => (allChans.filter (· < c)).map .ignition
  | .purge c => (allChans.filter (· < c)).map .purge
  | .program _ | .driver _ | .hold _ | .prescaler | .interval | .gates | .manualReset => []

/-- A unit takes its share of the half-cycle, once. -/
def deliverOne (rising : Bool) (u : HalfCycleUnit) (s : State) : State :=
  if s.taken.contains u then s
  else
    let t := unitShare rising u s
    { t with taken := u :: (begun s t ++ s.taken) }

/-- The shares that come before `u`'s in its event are taken. -/
def lead (rising : Bool) (u : HalfCycleUnit) (s : State) : State :=
  (earlierShares u).foldl (fun s v => deliverOne rising v s) s

/-- The shares of the same event that come right after `u`'s.  A block takes an event whole (R3): the ignition unit on all
its burners, in rising order (R125), and a second event likewise, with the return of the prescaler that issues it (R4); the
apportionment unit on its holds and its interval counter (R77, R79); the gate input block on its five inputs, the gates and
MR together (R151).  Which share of the last two a sender names first goes first (log entry 4). -/
def companions (u : HalfCycleUnit) : List HalfCycleUnit :=
  match u with
  | .ignition c => (allChans.filter (c < ·)).map .ignition
  | .purge c => (allChans.filter (c < ·)).map .purge ++ [.prescaler]
  | .hold c => (allChans.filter (· ≠ c)).map .hold ++ [.interval]
  | .interval => allChans.map .hold
  | .gates => [.manualReset]
  | .manualReset => [.gates]
  | .program _ | .driver _ | .prescaler => []

/-- The shares that come after `u`'s in its event are taken. -/
def trail (rising : Bool) (u : HalfCycleUnit) (s : State) : State :=
  (companions u).foldl (fun s v => deliverOne rising v s) s

/-- A unit takes its share of the half-cycle, once, and with it those of the same event that come right after. -/
def deliverEvent (rising : Bool) (u : HalfCycleUnit) (s : State) : State := trail rising u (deliverOne rising u s)

/-- A unit takes its share of the half-cycle, once, in the one event with those that come before and after it. -/
def deliver (rising : Bool) (u : HalfCycleUnit) (s : State) : State :=
  if s.taken.contains u then s else deliverEvent rising u (lead rising u s)

/-- Units take their shares one after another.  R195 lets the records of two blocks that act on one half-cycle join in
either order, record by record; here each unit's records join together, in the order of the units (DESIGN CHOICE, log
entry 4). -/
def deliverAll (rising : Bool) (us : List HalfCycleUnit) (s : State) : State :=
  us.foldl (fun s u => deliver rising u s) s

/-- An accepted half-cycle in TRACKING (R3): the missing-crossing timer restarts, and every unit that has not taken the
half-cycle by a row of its own takes it, in the order given and then in the fixed one. -/
def halfCycle (order : List HalfCycleUnit) (s : State) : State :=
  let s1 := { s with mtb := { s.mtb with missingTimer := some 0 } }
  { deliverAll (s.mtb.sign = some .positive) (order ++ allUnits) s1 with taken := [], sparkRead := none }

/-! ### The input pins at a half-cycle -/

/-- The levels read at a half-cycle at which `pins` stand: SPK_SENSE is read once (R128), so a reading that a row of the
same half-cycle has taken stands. -/
def levelsRead (pins : InputPins) (s : State) : InputPins := { pins with spark := s.sparkRead.getD pins.spark }

/-- The input pins are read at the coming half-cycle. -/
def withInputs (pins : InputPins) (s : State) : State := { s with pins := { s.pins with inputs := levelsRead pins s } }

/-- A unit of the ignition unit that has taken a sample has read SPK_SENSE for the station (R128). -/
def noteSpark (u : HalfCycleUnit) (s : State) : State :=
  match u with
  | .ignition _ => { s with sparkRead := some s.pins.inputs.spark }
  | .program _ | .driver _ | .hold _ | .purge _ | .prescaler | .interval | .gates | .manualReset => s

/-! ### Crossings -/

/-- The frequency that a sum of nine spacings gives (R2). -/
def judgeWindow (sum : Nat) : Option Frequency :=
  if 648 ≤ sum ∧ sum ≤ 792 then some .hz50 else if 540 ≤ sum ∧ sum ≤ 647 then some .hz60 else none

/-- A crossing becomes the first of a measurement window (R2). -/
def Mtb.startWindow (m : Mtb) : Mtb := { m with windowCount := 1, windowSum := 0 }

/-- A crossing in MEASURING (R2). -/
def measureCrossing (s : State) : State :=
  if s.mtb.windowCount = 0 ∨ 120 < s.mtb.spacing then { s with mtb := s.mtb.startWindow }
  else
    let m := { s.mtb with windowCount := s.mtb.windowCount + 1, windowSum := s.mtb.windowSum + s.mtb.spacing }
    if m.windowCount < 10 then { s with mtb := m }
    else
      match judgeWindow m.windowSum with
      | some f => reportFrequencySet f { s with mtb := m }
      | none => { s with mtb := m.startWindow }

/-- The spacings allowed in a return run, 0.8 to 1.2 nominal half-periods (R6). -/
def returnSpacing (f : Option Frequency) (n : Nat) : Bool :=
  match f with
  | some .hz50 => decide (64 ≤ n ∧ n ≤ 96)
  | some .hz60 => decide (54 ≤ n ∧ n ≤ 80)
  | none => false

/-- A crossing in MISSING (R6). -/
def returnCrossing (s : State) : State :=
  if s.mtb.returnRun = 0 ∨ ¬ returnSpacing s.mtb.frequency s.mtb.spacing then
    { s with mtb := { s.mtb with returnRun := 1 } }
  else if s.mtb.returnRun + 1 < 10 then { s with mtb := { s.mtb with returnRun := s.mtb.returnRun + 1 } }
  else reportMainsRestored s

/-- An accepted crossing goes to the handling of the mode (R1), and the next spacing is measured from it. -/
def takeCrossing (order : List HalfCycleUnit) (s : State) : State :=
  let t :=
    match s.mtb.mode with
    | .measuring => measureCrossing s
    | .tracking => halfCycle order s
    | .missing => returnCrossing s
  { t with mtb := { t.mtb with spacing := 0 } }

/-! ### The filter and the timers -/

/-- The sign a level of ZX reads as (R1). -/
def signOf (level : Bool) : Sign := if level then .positive else .negative

/-- A sample of ZX on the filter, and whether it produces an accepted crossing (R1). -/
def filterStep (level : Bool) (m : Mtb) : Mtb × Bool :=
  match m.sign with
  | none =>
    if m.candidate = some (signOf level) then
      if m.run + 1 < 4 then ({ m with run := m.run + 1 }, false)
      else ({ m with sign := some (signOf level), candidate := none, run := 0 }, false)
    else ({ m with candidate := some (signOf level), run := 1 }, false)
  | some a =>
    if signOf level = a then ({ m with run := 0 }, false)
    else if m.run + 1 < 4 then ({ m with run := m.run + 1 }, false)
    else ({ m with sign := some (signOf level), run := 0 }, true)

/-- One 125 µs period passes: the spacing and the running timers count it.  The spacing stops at 121, above which R2 and
R6 tell no more apart. -/
def Mtb.tick (m : Mtb) : Mtb :=
  { m with
    spacing := min 121 (m.spacing + 1)
    missingTimer := m.missingTimer.map (· + 1)
    rideTimer := m.rideTimer.map (· + 1) }

/-- 1.5 nominal half-periods in samples (R5). -/
def missingLimit (f : Option Frequency) : Nat :=
  match f with
  | some .hz50 => 120
  | some .hz60 => 100
  | none => 0

/-- The missing-crossing timer of a TRACKING time base has expired (R5). -/
def missingExpired (m : Mtb) : Bool :=
  m.mode == .tracking && (m.missingTimer.map fun n => decide (missingLimit m.frequency ≤ n)).getD false

/-- The ride-through timer has expired (R7). -/
def rideExpired (m : Mtb) : Bool :=
  m.mode == .missing && (m.rideTimer.map fun n => decide (Config.rideThroughSamples ≤ n)).getD false

/-- The timers that have expired are acted on (R5, R7); `turns` orders the events of a mains failure. -/
def expireTimers (turns : List Chan) (s : State) : State :=
  if missingExpired s.mtb then reportMainsAbsent s else if rideExpired s.mtb then reportMainsFailed turns s else s

/-- The time base at the coming sample instant: the tick, unless an expiry taken at that instant has counted it. -/
def clocked (s : State) : Mtb := if s.clockTaken then s.mtb else s.mtb.tick

/-- A sample of ZX at the coming instant: the timers count it, the filter takes it, a crossing it produces is handled,
and then a timer that has expired is acted on (R1, R5, R7: the crossing first). -/
def takeSample (level : Bool) (order : List HalfCycleUnit) (turns : List Chan) (s : State) : State :=
  let step := filterStep level (clocked s)
  let s1 := { s with mtb := step.1, pins := { s.pins with zx := level }, clockTaken := false }
  expireTimers turns (if step.2 then takeCrossing order s1 else s1)

/-- The order of the channels' program units in an order of the units. -/
def programTurns (order : List HalfCycleUnit) : List Chan :=
  order.filterMap fun u => match u with
    | .program c => some c
    | .driver _ | .ignition _ | .hold _ | .prescaler | .interval | .gates | .manualReset | .purge _ => none

/-- The next sample of the other sign produces an accepted crossing (R1). -/
def crossingDue (s : State) : Bool := s.mtb.sign.isSome && s.mtb.run == 3

/-- The level of the sign that is not accepted. -/
def oppositeLevel (s : State) : Bool := s.mtb.sign == some .negative

/-- The coming crossing is the tenth of a window that gives a frequency (R2). -/
def frequencyDue (s : State) : Bool :=
  crossingDue s && s.mtb.mode == .measuring && s.mtb.windowCount == 9 && decide ((clocked s).spacing ≤ 120) &&
    (judgeWindow (s.mtb.windowSum + (clocked s).spacing)).isSome

/-- The coming crossing is the tenth of a return run (R6). -/
def restoreDue (s : State) : Bool :=
  crossingDue s && s.mtb.mode == .missing && s.mtb.returnRun == 9 &&
    returnSpacing s.mtb.frequency (clocked s).spacing

/-- The coming sample instant is taken ahead of its sample by a timer's expiry (R5, R7: the expiry first). -/
def takeExpiry (report : State → State) (s : State) : State :=
  { report { s with mtb := s.mtb.tick } with clockTaken := true }

/-! ### The rows of the table that the time base owns -/

/-- ZX_FILTER_SAMPLE (R1): a sample that produces no accepted crossing. -/
def execZxFilterSample (level : Bool) (s : State) (order : List Chan := []) : Host.Outcome State Fault Refusal :=
  live (onlyIf (!(crossingDue s && level == oppositeLevel s)) (takeSample level [] order)) s

/-- ACCEPTED_CROSSING (R1, R2, R3, R6): the sample that produces a crossing, with the levels on the input pins at that
instant and the order in which the units take a half-cycle. -/
def execAcceptedCrossing (pins : InputPins) (order : List HalfCycleUnit) (s : State) :
    Host.Outcome State Fault Refusal :=
  live (onlyIf (crossingDue s) fun s =>
    takeSample (oppositeLevel s) order (programTurns order) (withInputs pins s)) s

/-- FREQUENCY_SET (R2): the tenth crossing of a window that gives a frequency. -/
def execFrequencySet (s : State) : Host.Outcome State Fault Refusal :=
  live (onlyIf (frequencyDue s) fun s => takeSample (oppositeLevel s) [] [] s) s

/-- MAINS_RESTORED (R6): the tenth crossing of a return run. -/
def execMainsRestored (s : State) : Host.Outcome State Fault Refusal :=
  live (onlyIf (restoreDue s) fun s => takeSample (oppositeLevel s) [] [] s) s

/-- MAINS_ABSENT (R5): the missing-crossing timer expires at the coming sample instant, before that sample is taken. -/
def execMainsAbsent (s : State) : Host.Outcome State Fault Refusal :=
  live (onlyIf (!s.clockTaken && missingExpired s.mtb.tick) (takeExpiry reportMainsAbsent)) s

/-- MAINS_FAILED (R7): the ride-through timer expires at the coming sample instant, before that sample is taken. -/
def execMainsFailed (s : State) (order : List Chan := []) : Host.Outcome State Fault Refusal :=
  live (onlyIf (!s.clockTaken && rideExpired s.mtb.tick) (takeExpiry (reportMainsFailed order))) s

/-! ### Rows that are one unit's share of the coming half-cycle -/

/-- The coming half-cycle is a cycle-start (R3). -/
def comingRising (s : State) : Bool := s.mtb.sign == some .negative

/-- A unit takes its share of the coming half-cycle by a row of its own, in the one event with the shares that come before
and after it, where its share has the outcome the row names (log entry 2). -/
def takeShare (u : HalfCycleUnit) (due : State → Bool) (s : State) : State :=
  let t := lead (comingRising s) u s
  if mayTake u t && due t then deliverEvent (comingRising s) u t else s

/-- A share whose outcome the input pins decide: the pins are read where the share is taken, and the shares of the same
event read them with it. -/
def takeShareWith (pins : InputPins) (u : HalfCycleUnit) (due : State → Bool) (s : State) : State :=
  let t := lead (comingRising s) u (withInputs pins s)
  if mayTake u t && due t then noteSpark u (deliverEvent (comingRising s) u t) else s

/-- SECOND_EVENT (R4): the prescaler reaches 2f. -/
def execSecondEvent (s : State) : Host.Outcome State Fault Refusal :=
  live (takeShare .prescaler fun s => decide (perSecond s.mtb.frequency ≤ s.mtb.prescaler + 1)) s

/-- PURGE_END (R139): the second event of the coming half-cycle, which ends the purge of burner `c`. -/
def execPurgeEnd (c : Chan) (s : State) : Host.Outcome State Fault Refusal :=
  live (takeShare (.purge c) fun s =>
    secondDue s && (s.chan c).burner.phase == .purge && decide ((s.chan c).burner.purge ≤ 1)) s

/-- INTERVAL_EVENT (R79): the interval counter reaches 50. -/
def execIntervalEvent (s : State) : Host.Outcome State Fault Refusal :=
  live (takeShare .interval intervalDue) s

/-- STATION_ACTIVE (R10): the interval event that brings the listen count to 3. -/
def execStationActive (s : State) : Host.Outcome State Fault Refusal :=
  live (takeShare .interval fun s => intervalDue s && s.ssv.station == .listen && s.ssv.listenCount == 2) s

/-- PEER_ROW_REMOVED (R83): the interval event that brings row `p` to age 4. -/
def execPeerRowRemoved (p : Address) (s : State) : Host.Outcome State Fault Refusal :=
  live (takeShare .interval fun s => intervalDue s && rowExpires (s.apu.peers[p.toNat]?).join) s

/-- STARVATION_BEGIN (R81): the interval event that brings the own-send age to 2. -/
def execStarvationBegin (s : State) : Host.Outcome State Fault Refusal :=
  live (takeShare .interval fun s => intervalDue s && s.apu.ownSendAge == 1) s

/-- RAISE_HOLD_CLEAR (R77): the count of a COUNTING hold reaches 0. -/
def execRaiseHoldClear (c : Chan) (s : State) : Host.Outcome State Fault Refusal :=
  live (takeShare (.hold c) fun s =>
    (s.chan c).claim.stage == .counting && decide ((s.chan c).claim.count ≤ 1)) s

/-- STEP_EXPIRY (R27): the remaining seconds of a running step timer reach 0. -/
def execStepExpiry (c : Chan) (s : State) : Host.Outcome State Fault Refusal :=
  live (takeShare (.program c) fun s => stepExpires s.mtb.frequency (s.chan c)) s

/-- DELAY_END (R35): the remaining delay of a DELAYED channel reaches 0. -/
def execDelayEnd (c : Chan) (s : State) : Host.Outcome State Fault Refusal :=
  live (takeShare (.program c) fun s => delayExpires s.mtb.frequency (s.chan c)) s

/-- The driver of a SLOW channel that works takes a RUNNING channel's half-cycle, and no fault is found in it. -/
def slowRuns (s : State) (c : Chan) : Bool :=
  driverWorks (s.chan c) && (s.chan c).cfg.kind == .slow && (s.chan c).chc.state == .running &&
    (driverSample s c).2 == .nothing

/-- A SLOW channel's period starts at the coming half-cycle (R107). -/
def periodStarts (s : State) (c : Chan) : Bool :=
  slowRuns s c && (!(s.chan c).driver.inPeriod ||
    decide (slowPeriod s.mtb.frequency (s.chan c).cfg ≤ (s.chan c).driver.position + 1))

/-- A SLOW channel's on-time ends at the coming half-cycle, within its period (R107). -/
def onTimeEnds (s : State) (c : Chan) : Bool :=
  slowRuns s c && (s.chan c).driver.output && (s.chan c).driver.inPeriod &&
    decide ((s.chan c).driver.position + 1 < slowPeriod s.mtb.frequency (s.chan c).cfg) &&
    decide ((s.chan c).driver.onTime ≤ (s.chan c).driver.position + 1)

/-- SLOW_PERIOD_START (R107). -/
def execSlowPeriodStart (c : Chan) (pins : InputPins) (s : State) : Host.Outcome State Fault Refusal :=
  live (takeShareWith pins (.driver c) fun s => periodStarts s c) s

/-- SLOW_ON_TIME_END (R107). -/
def execSlowOnTimeEnd (c : Chan) (pins : InputPins) (s : State) : Host.Outcome State Fault Refusal :=
  live (takeShareWith pins (.driver c) fun s => onTimeEnds s c) s

/-- The coming sample of a working driver has the verdict `v`. -/
def verdictIs (v : DriveVerdict) (s : State) (c : Chan) : Bool := driverWorks (s.chan c) && (driverSample s c).2 == v

/-- STUCK_OFF (R115). -/
def execStuckOff (c : Chan) (pins : InputPins) (s : State) : Host.Outcome State Fault Refusal :=
  live (takeShareWith pins (.driver c) fun s => verdictIs .stuckOff s c) s

/-- STUCK_ON (R116): the channel is not DISABLED yet. -/
def execStuckOn (c : Chan) (pins : InputPins) (s : State) : Host.Outcome State Fault Refusal :=
  live (takeShareWith pins (.driver c) fun s => verdictIs .stuckOn s c && (s.chan c).chc.state != .disabled) s

/-- STUCK_ON_REPEAT (R118): the channel is DISABLED already. -/
def execStuckOnRepeat (c : Chan) (pins : InputPins) (s : State) : Host.Outcome State Fault Refusal :=
  live (takeShareWith pins (.driver c) fun s => verdictIs .stuckOn s c && (s.chan c).chc.state == .disabled) s

/-- UNCONTROLLED_CLEARED (R117). -/
def execUncontrolledCleared (c : Chan) (pins : InputPins) (s : State) : Host.Outcome State Fault Refusal :=
  live (takeShareWith pins (.driver c) fun s => verdictIs .cleared s c) s

/-- The coming half-cycle brings `o` about on burner `c`. -/
def outcomeIs (o : IgnitionOutcome) (s : State) (c : Chan) : Bool := (ignitionStep s c).2 == o

/-- SPARK_START (R129, R130, R132). -/
def execSparkStart (c : Chan) (pins : InputPins) (s : State) : Host.Outcome State Fault Refusal :=
  live (takeShareWith pins (.ignition c) fun s => outcomeIs .sparkStart s c) s

/-- SPARK_END (R133): burner `c` takes no sample in SPARK; `pins` is what the other burners read in the same event, or
they read the levels that stand (log entry 2). -/
def execSparkEnd (c : Chan) (s : State) (pins : Option InputPins := none) : Host.Outcome State Fault Refusal :=
  live (takeShareWith (pins.getD s.pins.inputs) (.ignition c) fun s => outcomeIs .sparkEnd s c) s

/-- FLAME_PROVEN (R134, R135). -/
def execFlameProven (c : Chan) (pins : InputPins) (s : State) : Host.Outcome State Fault Refusal :=
  live (takeShareWith pins (.ignition c) fun s => outcomeIs .proven s c) s

/-- ATTEMPT_FAIL (R134, R137, R138). -/
def execAttemptFail (c : Chan) (pins : InputPins) (s : State) : Host.Outcome State Fault Refusal :=
  live (takeShareWith pins (.ignition c) fun s => outcomeIs .failed s c) s

/-- FALSE_FLAME_SET (R130). -/
def execFalseFlameSet (c : Chan) (pins : InputPins) (s : State) : Host.Outcome State Fault Refusal :=
  live (takeShareWith pins (.ignition c) fun s =>
    !(s.chan c).burner.falseFlame && (ignitionStep s c).1.falseFlame) s

/-- FALSE_FLAME_CLEARED (R130). -/
def execFalseFlameCleared (c : Chan) (pins : InputPins) (s : State) : Host.Outcome State Fault Refusal :=
  live (takeShareWith pins (.ignition c) fun s =>
    (s.chan c).burner.falseFlame && !(ignitionStep s c).1.falseFlame) s

/-- FALSE_FLAME_LOCKOUT (R131). -/
def execFalseFlameLockout (c : Chan) (pins : InputPins) (s : State) : Host.Outcome State Fault Refusal :=
  live (takeShareWith pins (.ignition c) fun s => outcomeIs .falseFlameLockout s c) s

/-- FLAME_LOSS (R140, R141): by the off-run or by continuous blanking. -/
def execFlameLoss (c : Chan) (pins : InputPins) (s : State) : Host.Outcome State Fault Refusal :=
  live (takeShareWith pins (.ignition c) fun s => outcomeIs .lostSense s c || outcomeIs .lostBlanking s c) s

/-- GATE_CHANGE_ACCEPTED (R152): the coming sample of a gate is its eighth of the new state; MR is sampled with it (R151). -/
def execGateChangeAccepted (pins : InputPins) (s : State) : Host.Outcome State Fault Refusal :=
  live (takeShareWith pins .gates fun s =>
    allChans.any fun g => gateAccepts (s.pins.inputs.gates.get g) (s.gib.gates.get g)) s

/-- The five inputs at the coming half-cycle, at which MR reads low (pressed) or high, and the gates the levels that the
command gives, or those that stand (R151, log entry 2). -/
def withButton (pressed : Bool) (gates : Option (Quad Bool)) (s : State) : InputPins :=
  { s.pins.inputs with gates := gates.getD s.pins.inputs.gates, mr := !pressed }

/-- MANUAL_RESET_REQUEST (R153, R144): the press is qualified at the coming sample of the five inputs (R151). -/
def execManualResetRequest (s : State) (gates : Option (Quad Bool) := none) : Host.Outcome State Fault Refusal :=
  live (takeShareWith (withButton true gates s) .manualReset fun s => (manualStep s.mtb.frequency true s.gib).2) s

/-- MR_RELEASE (R153): the release is accepted at the coming sample of the five inputs (R151). -/
def execMrRelease (s : State) (gates : Option (Quad Bool) := none) : Host.Outcome State Fault Refusal :=
  live (takeShareWith (withButton false gates s) .manualReset fun s =>
    s.gib.mrActive && !(manualStep s.mtb.frequency false s.gib).1.mrActive) s

end Sys2Proof.Machine
end

