-- ==== Sys2Proof/Machine/Dispatch.lean ====
section
/-! DEFINITION. One arm per command: the meaning it calls. -/

namespace Sys2Proof.Machine

def exec (i : Instr) (s : State) : Host.Outcome State Fault Refusal :=
  match i with
  | .supplyBelowThreshold => Sys2Proof.Machine.execSupplyBelowThreshold s
  | .powerOnReset straps => Sys2Proof.Machine.execPowerOnReset straps s
  | .acceptedCrossing pins order => Sys2Proof.Machine.execAcceptedCrossing pins order s
  | .frequencySet => Sys2Proof.Machine.execFrequencySet s
  | .secondEvent => Sys2Proof.Machine.execSecondEvent s
  | .mainsAbsent => Sys2Proof.Machine.execMainsAbsent s
  | .mainsRestored => Sys2Proof.Machine.execMainsRestored s
  | .mainsFailed order => Sys2Proof.Machine.execMainsFailed s order
  | .stationActive => Sys2Proof.Machine.execStationActive s
  | .stepExpiry c => Sys2Proof.Machine.execStepExpiry c s
  | .delayEnd c => Sys2Proof.Machine.execDelayEnd c s
  | .intervalEvent => Sys2Proof.Machine.execIntervalEvent s
  | .peerRowRemoved p => Sys2Proof.Machine.execPeerRowRemoved p s
  | .starvationBegin => Sys2Proof.Machine.execStarvationBegin s
  | .raiseHoldClear c => Sys2Proof.Machine.execRaiseHoldClear c s
  | .slowPeriodStart c pins => Sys2Proof.Machine.execSlowPeriodStart c pins s
  | .slowOnTimeEnd c pins => Sys2Proof.Machine.execSlowOnTimeEnd c pins s
  | .stuckOff c pins => Sys2Proof.Machine.execStuckOff c pins s
  | .stuckOn c pins => Sys2Proof.Machine.execStuckOn c pins s
  | .stuckOnRepeat c pins => Sys2Proof.Machine.execStuckOnRepeat c pins s
  | .uncontrolledCleared c pins => Sys2Proof.Machine.execUncontrolledCleared c pins s
  | .sparkStart c pins => Sys2Proof.Machine.execSparkStart c pins s
  | .sparkEnd c pins => Sys2Proof.Machine.execSparkEnd c s pins
  | .flameProven c pins => Sys2Proof.Machine.execFlameProven c pins s
  | .attemptFail c pins => Sys2Proof.Machine.execAttemptFail c pins s
  | .falseFlameSet c pins => Sys2Proof.Machine.execFalseFlameSet c pins s
  | .falseFlameCleared c pins => Sys2Proof.Machine.execFalseFlameCleared c pins s
  | .falseFlameLockout c pins => Sys2Proof.Machine.execFalseFlameLockout c pins s
  | .purgeEnd c => Sys2Proof.Machine.execPurgeEnd c s
  | .flameLoss c pins => Sys2Proof.Machine.execFlameLoss c pins s
  | .gateChangeAccepted pins => Sys2Proof.Machine.execGateChangeAccepted pins s
  | .manualResetRequest gates => Sys2Proof.Machine.execManualResetRequest s gates
  | .mrRelease gates => Sys2Proof.Machine.execMrRelease s gates
  | .lineIdle late => Sys2Proof.Machine.execLineIdle s late
  | .arbitrationLost pos => Sys2Proof.Machine.execArbitrationLost pos s
  | .frameAbandoned byte pos => Sys2Proof.Machine.execFrameAbandoned byte pos s
  | .replySent => Sys2Proof.Machine.execReplySent s
  | .demandSent => Sys2Proof.Machine.execDemandSent s
  | .eventFrameSent => Sys2Proof.Machine.execEventFrameSent s
  | .stateSent => Sys2Proof.Machine.execStateSent s
  | .receiveAborted cause => Sys2Proof.Machine.execReceiveAborted cause s
  | .frameRejected frame => Sys2Proof.Machine.execFrameRejected frame s
  | .peerReportReceived frame => Sys2Proof.Machine.execPeerReportReceived frame s
  | .halt source => Sys2Proof.Machine.execHalt source s
  | .commandUnknown h code parameters => Sys2Proof.Machine.execCommandUnknown h code parameters s
  | .configureStation h budgetA budgetB gates => Sys2Proof.Machine.execConfigureStation h budgetA budgetB gates s
  | .configureChannel h b => Sys2Proof.Machine.execConfigureChannel h b s
  | .configureBurner h channel b => Sys2Proof.Machine.execConfigureBurner h channel b s
  | .loadStep h mask slot level duration endAction => Sys2Proof.Machine.execLoadStep h mask slot level duration endAction s
  | .loadStepClear h mask slot => Sys2Proof.Machine.execLoadStepClear h mask slot s
  | .start h mask slot delay => Sys2Proof.Machine.execStart h mask slot delay s
  | .pause h mask => Sys2Proof.Machine.execPause h mask s
  | .resume h mask => Sys2Proof.Machine.execResume h mask s
  | .stop h selector order => Sys2Proof.Machine.execStop h selector s order
  | .stopLast h => Sys2Proof.Machine.execStopLast h s
  | .skip h mask order => Sys2Proof.Machine.execSkip h mask s order
  | .adjustLevelSet h mask value => Sys2Proof.Machine.execAdjustLevelSet h mask value s
  | .adjustLevelAdd h mask value => Sys2Proof.Machine.execAdjustLevelAdd h mask value s
  | .adjustLevelSubtract h mask value => Sys2Proof.Machine.execAdjustLevelSubtract h mask value s
  | .adjustTimeSet h mask target operation value order => Sys2Proof.Machine.execAdjustTimeSet h mask target operation value s order
  | .adjustTimeAdd h mask value => Sys2Proof.Machine.execAdjustTimeAdd h mask value s
  | .adjustTimeSubtract h mask value order => Sys2Proof.Machine.execAdjustTimeSubtract h mask value s order
  | .query h mask => Sys2Proof.Machine.execQuery h mask s
  | .clearFlags h => Sys2Proof.Machine.execClearFlags h s
  | .resetStation h straps => Sys2Proof.Machine.execResetStation h straps s
  | .commandNotMatched h => Sys2Proof.Machine.execCommandNotMatched h s
  | .zxFilterSample level order => Sys2Proof.Machine.execZxFilterSample level s order
  | .contendingOnIdleLine late => Sys2Proof.Machine.execContendingOnIdleLine s late

end Sys2Proof.Machine
end

