-- ==== Sys2Proof/Safety.lean ====
section
/-! DEFINITION. What counts as a sound station: the conditions the spec's chapters promise of every state, and the
conditions under which a frame from the line or a half-cycle's share is taken, and what an ordinary half-cycle counts.
The statements for the provers are written in these terms. -/

namespace Sys2Proof.Machine

/-! ### When a command is taken -/

/-- A COMMAND of header `h` is taken and finds room for its REPLY (R170 to R172): the station is powered, the frame
matches, the line interface can take a frame, and the queue holds fewer than four entries. -/
abbrev Accepts (h : CmdHeader) (s : State) : Prop :=
  s.held = false ∧ addressMatches s.ssv.address h = true ∧ receptive s = true ∧ s.lif.replies.length < 4

/-- The unit `u` can take its share of the coming half-cycle: the station is powered, half-cycles are issued at a
measured frequency, and the share has not been taken. -/
abbrev Shares (u : HalfCycleUnit) (s : State) : Prop :=
  s.held = false ∧ s.mtb.mode = .tracking ∧ s.mtb.frequency.isSome = true ∧ u ∉ s.taken

/-- The unit `u` takes its share of the coming half-cycle in `s`, which is `s₀` with the shares taken that come before
`u`'s in the same event of the ignition unit (R125); `s` is `s₀` where there are none.  The shares that come after `u`'s
are those of `trail`: a row that answers with `u`'s share in `t` answers `trail (comingRising s₀) u t`. -/
abbrev LeadsTo (u : HalfCycleUnit) (s₀ s : State) : Prop :=
  Shares u s₀ ∧ s = lead (comingRising s₀) u s₀ ∧ Shares u s

/-- One REPLY entry has joined the tail of the queue, of header `h` and code `code`, and its result on channel `c` is
`r`. -/
def Replies (h : CmdHeader) (code : Byte) (c : Chan) (r : Result) (s t : State) : Prop :=
  ∃ q : Quad Result, t.lif.replies = s.lif.replies ++ [⟨h.source, code, q⟩] ∧ q.get c = r

/-- The level in slot `n` of a channel's step table, 0 where it is EMPTY. -/
def levelAt (ch : Channel) (n : Slot) : Nat := ((ch.pgu.slotAt n).map StepRecord.level).getD 0

/-- A phase in which a burner holds the ignition unit. -/
def IgnitionPhase.holdsUnit (p : IgnitionPhase) : Bool :=
  match p with
  | .lineWait | .spark | .prove => true
  | .none | .queued | .purge => false

/-! ### An ordinary half-cycle, at which `f` is the measured frequency (50 or 60) -/

/-- The program of a channel after a half-cycle that ends no second of it: the step timer of a RUNNING channel runs
while it is TIMED and not holding, the delay while the channel is DELAYED; the phase counts to 2f, and then one second is
gone (R27, R35). -/
def countedProgram (f : Nat) (ch : Channel) : Pgu :=
  if ch.chc.state = .running ∧ ch.pgu.timing = .timed ∧ ch.pgu.holding = false then
    if ch.pgu.phase + 1 < 2 * f then { ch.pgu with phase := ch.pgu.phase + 1 }
    else { ch.pgu with phase := 0, seconds := ch.pgu.seconds - 1 }
  else if ch.chc.state = .delayed then
    if ch.pgu.phase + 1 < 2 * f then { ch.pgu with phase := ch.pgu.phase + 1 }
    else { ch.pgu with phase := 0, delay := ch.pgu.delay - 1 }
  else ch.pgu

/-- Neither the step timer nor the delay of the channel reaches 0 (R27, R35). -/
def quietProgram (f : Nat) (ch : Channel) : Bool :=
  decide (2 * f ≤ ch.pgu.phase + 1 →
    (ch.chc.state = .running → ch.pgu.timing = .timed → ch.pgu.holding = false → 1 < ch.pgu.seconds) ∧
    (ch.chc.state = .delayed → 1 < ch.pgu.delay))

/-- The driver of a channel after its sample reads `conducts`, where no count reaches 6 (R101 step 1, R111 to R114,
R117). -/
def judgedDriver (conducts : Bool) (ch : Channel) : Driver :=
  if ch.driver.suspended = true then ch.driver
  else if ch.cfg.kind = .slow ∧ 0 < ch.driver.settle then { ch.driver with settle := ch.driver.settle - 1 }
  else if ch.driver.uncontrolled = true then
    { ch.driver with clearCount := if conducts then 0 else ch.driver.clearCount + 1 }
  else if ch.driver.output = true then
    { ch.driver with onMismatch := if conducts then 0 else ch.driver.onMismatch + 1 }
  else { ch.driver with offMismatch := if conducts then ch.driver.offMismatch + 1 else 0 }

/-- The driver `d` of a CYCLE channel after the command of a half-cycle: the cycle decision at a cycle-start (R102), the
second half of the cycle otherwise (R103). -/
def cycledDriver (rising : Bool) (d : Driver) : Driver :=
  if rising then
    if 100 ≤ d.accumulator + d.level then
      { d with accumulator := d.accumulator + d.level - 100, conducting := true, output := true }
    else { d with accumulator := d.accumulator + d.level, conducting := false, output := false }
  else if d.conducting = true ∧ 0 < d.level then { d with output := true }
  else { d with conducting := false, output := false }

/-- The driver `d` of a SLOW channel after the command of a half-cycle: a period of `P` half-cycles starts at the first
one and whenever q reaches P, at the ceiling in force, 0 while gated (R106, R107); the output is ON while q is below u,
and a change of it sets the settle count to 4 (R113).  A channel that is not RUNNING is commanded OFF (R100). -/
def slowedDriver (P M : Nat) (ch : Channel) (d : Driver) : Driver :=
  if ch.chc.state ≠ .running then
    { d with
      inPeriod := false, position := 0, onTime := 0, level := 0, output := false
      settle := if d.output then 4 else d.settle }
  else if d.inPeriod = true ∧ d.position + 1 < P then
    { d with
      position := d.position + 1, output := decide (d.position + 1 < d.onTime)
      settle := if d.output = decide (d.position + 1 < d.onTime) then d.settle else 4 }
  else
    let v := if ch.gated then 0 else ch.claim.ceiling
    { d with
      inPeriod := true, position := 0, level := v, onTime := slowOnTime P M v, output := decide (0 < slowOnTime P M v)
      settle := if d.output = decide (0 < slowOnTime P M v) then d.settle else 4 }

/-- The driver of a channel after a half-cycle whose sample reports nothing: it judges, then commands, where the channel
is CYCLE or SLOW and not in LOCKOUT (R99, R101). -/
def countedDriver (f : Nat) (rising conducts : Bool) (ch : Channel) : Driver :=
  if ch.chc.state = .lockout then ch.driver
  else if ch.cfg.kind = .cycle then cycledDriver rising (judgedDriver conducts ch)
  else if ch.cfg.kind = .slow then
    slowedDriver (ch.cfg.period * (2 * f)) (ch.cfg.minSwitch * (2 * f)) ch (judgedDriver conducts ch)
  else ch.driver

/-- The sample of the channel's driver reports nothing: no count reaches 6 (R114 to R117). -/
def quietDriver (conducts : Bool) (ch : Channel) : Bool :=
  decide (ch.cfg.kind = .cycle ∨ ch.cfg.kind = .slow → ch.chc.state ≠ .lockout → ch.driver.suspended = false →
    (ch.cfg.kind = .slow → ch.driver.settle = 0) →
    (ch.driver.uncontrolled = true → conducts = false → ch.driver.clearCount < 5) ∧
    (ch.driver.uncontrolled = false → ch.driver.output = true → conducts = false → ch.driver.onMismatch < 5) ∧
    (ch.driver.uncontrolled = false → ch.driver.output = false → conducts = true → ch.driver.offMismatch < 5))

/-- The flame runs after a sample, which `blanked` leaves alone, and which shows flame where `flame` says so (R128). -/
def sampledBurner (blanked flame : Bool) (b : Burner) : Burner :=
  if blanked then b
  else if flame then { b with onRun := min 16 (b.onRun + 1), offRun := 0 }
  else { b with onRun := 0, offRun := min 16 (b.offRun + 1) }

/-- The counted sample brings the on-run of `b`, which has taken it, to W_on (R130, R134). -/
def onReached (blanked flame : Bool) (ch : Channel) (b : Burner) : Bool :=
  !blanked && flame && decide (ch.cfg.params.wOn ≤ b.onRun)

/-- The counted sample brings the off-run of `b`, which has taken it, to W_off (R130, R140). -/
def offReached (blanked flame : Bool) (ch : Channel) (b : Burner) : Bool :=
  !blanked && !flame && decide (ch.cfg.params.wOff ≤ b.offRun)

/-- The record of a burner after a half-cycle without an outcome, phase by phase: in LINE_WAIT the sample, the quiet count,
false flame and its timer (R128 to R130); in SPARK the accumulator alone (R133); in PROVE accumulator and sample (R134);
on a supervised burner the sample and the blank run (R140); and nothing on any other. -/
def countedBurner (f : Nat) (blanked flame : Bool) (ch : Channel) : Burner :=
  let b := ch.burner
  let x := sampledBurner blanked flame b
  if ch.cfg.kind ≠ .burner then b
  else
    match b.phase with
    | .lineWait =>
      { x with
        quiet := if blanked then 0 else min f (b.quiet + 1)
        falseFlame := if b.falseFlame then !offReached blanked flame ch x else onReached blanked flame ch x
        falseTimer :=
          if b.falseFlame then if offReached blanked flame ch x then 0 else b.falseTimer + 1
          else if onReached blanked flame ch x then 0 else b.falseTimer }
    | .spark => { b with safety := b.safety + 1 }
    | .prove => { x with safety := b.safety + 1 }
    | .none | .queued | .purge =>
      if b.supervising then { x with blankRun := if blanked then b.blankRun + 1 else 0 } else b

/-- The half-cycle has no outcome on a burner whose record after it is `b`: a false flame stays below 20f and an attempt
that has none below f quiet half-cycles; a spark stays below S; an attempt is neither proven nor at T; a supervised burner
loses its flame by neither run (R129 to R134, R140). -/
def quietBurner (f : Nat) (blanked flame : Bool) (ch : Channel) (b : Burner) : Bool :=
  decide (ch.cfg.kind = .burner →
    (ch.burner.phase = .lineWait → b.falseFlame = true → b.falseTimer < 20 * f) ∧
    (ch.burner.phase = .lineWait → b.falseFlame = false → b.quiet < f) ∧
    (ch.burner.phase = .spark → b.safety < b.sparkTime) ∧
    (ch.burner.phase = .prove → b.safety < b.safetyTime ∧ onReached blanked flame ch b = false) ∧
    (ch.burner.phase.holdsUnit = false → ch.burner.supervising = true →
      b.blankRun < 8 * f ∧ offReached blanked flame ch b = false))

/-- The MR filter after a sample that qualifies no press, `released` where MR reads high (R153). -/
def countedButton (released : Bool) (g : Gib) : Gib :=
  if g.mrActive then
    if released then if g.mrOff < 7 then { g with mrOff := g.mrOff + 1 } else { g with mrActive := false, mrOff := 0 }
    else { g with mrOff := 0 }
  else { g with mrOn := if released then 0 else g.mrOn + 1 }

/-- A gate's filter after a sample that accepts no change (R152). -/
def countedGate (sample : Bool) (g : Gate) : Gate := { g with run := if sample = g.active then 0 else g.run + 1 }

/-- The samples of a half-cycle with the levels `pins` are blanked: SPK_SENSE is read once for the station,
so a reading that has been taken ahead stands (R128; its note, log entry 2). -/
def blankedAt (pins : InputPins) (s : State) : Bool := s.sparkRead.getD pins.spark

/-- The flame input of channel `c` reads at or above its threshold (R128). -/
def flameAt (pins : InputPins) (s : State) (c : Chan) : Bool :=
  decide ((s.chan c).cfg.params.threshold ≤ (pins.flame.get c).toNat)

/-- The record of burner `c` after a half-cycle with the levels `pins` that has no outcome on it. -/
def burnerAfter (f : Nat) (pins : InputPins) (s : State) (c : Chan) : Burner :=
  countedBurner f (blankedAt pins s) (flameAt pins s c) (s.chan c)

/-- The gated condition of channel `c` is the one that its kind, its mask, the gate kinds and the filtered states give
(R155, R156). -/
abbrev GatedAsConfigured (s : State) (c : Chan) : Prop :=
  (s.chan c).gated = true ↔
    (s.chan c).cfg.kind.isElement = true ∧
    ∃ k : Fin 4, (s.chan c).cfg.gateMask.getLsbD k.val = true ∧ (s.gib.gates.get k).active = true ∧
      (s.gib.gates.get k).kind ≠ .unused

/-- A half-cycle whose gate samples are `samples` accepts no change and moves no gated condition (R152, R156). -/
abbrev GatesQuiet (samples : Quad Bool) (s : State) : Prop :=
  (∀ g : Fin 4, samples.get g ≠ (s.gib.gates.get g).active → (s.gib.gates.get g).run < 7) ∧
  ∀ c : Chan, GatedAsConfigured s c

/-- The coming half-cycle with the levels `pins` brings about nothing but counting, on the units that have still to take
it: no timer, hold, interval, prescaler or press reaches its end, no gate changes, no driver's sample reports anything,
and no burner's half-cycle has an outcome. -/
abbrev Ordinary (f : Nat) (pins : InputPins) (s : State) : Prop :=
  (.prescaler ∉ s.taken → s.mtb.prescaler + 1 < 2 * f) ∧
  (.interval ∉ s.taken → s.apu.interval < 49) ∧
  (.manualReset ∉ s.taken → s.gib.mrActive = false → pins.mr = false → s.gib.mrOn + 1 < 2 * f) ∧
  (.gates ∉ s.taken → GatesQuiet pins.gates s) ∧
  ∀ c : Chan,
    (.program c ∉ s.taken → quietProgram f (s.chan c) = true) ∧
    (.driver c ∉ s.taken → quietDriver (pins.sense.get c) (s.chan c) = true) ∧
    (.ignition c ∉ s.taken →
      quietBurner f (blankedAt pins s) (flameAt pins s c) (s.chan c) (burnerAfter f pins s c) = true) ∧
    (.hold c ∉ s.taken → (s.chan c).claim.stage = .counting → 1 < (s.chan c).claim.count)

/-! ### The rows that are one unit's share of a half-cycle -/

/-- The unit whose share of the coming half-cycle row `i` takes ahead of the crossing (log entry 2), where the row reads
the levels `pins`, or none. -/
def rowUnit (pins : InputPins) (s : State) (i : Instr) : Option HalfCycleUnit :=
  match i with
  | .stepExpiry c | .delayEnd c => some (.program c)
  | .intervalEvent | .stationActive | .peerRowRemoved _ | .starvationBegin => some .interval
  | .secondEvent => some .prescaler
  | .raiseHoldClear c => some (.hold c)
  | .purgeEnd c => some (.purge c)
  | .slowPeriodStart c p | .slowOnTimeEnd c p | .stuckOff c p | .stuckOn c p | .stuckOnRepeat c p
  | .uncontrolledCleared c p => if p = pins then some (.driver c) else none
  | .sparkEnd c p => if p.getD s.pins.inputs = pins then some (.ignition c) else none
  | .sparkStart c p | .flameProven c p | .attemptFail c p | .falseFlameSet c p
  | .falseFlameCleared c p | .falseFlameLockout c p | .flameLoss c p => if p = pins then some (.ignition c) else none
  | .gateChangeAccepted p => if p = pins then some .gates else none
  | .manualResetRequest g =>
    if g.getD s.pins.inputs.gates = pins.gates ∧ pins.mr = false then some .manualReset else none
  | .mrRelease g => if g.getD s.pins.inputs.gates = pins.gates ∧ pins.mr = true then some .manualReset else none
  | _ => none

/-! ### What a command leaves alone -/

/-- Channel `c` keeps its controller, its program and its configuration. -/
abbrev KeepsProgram (c : Chan) (s t : State) : Prop :=
  (t.chan c).chc = (s.chan c).chc ∧ (t.chan c).pgu = (s.chan c).pgu ∧ (t.chan c).cfg = (s.chan c).cfg

/-- Channel `c` keeps its controller, its program, its configuration, its valve, its gated condition, its lockout bit and
its flame supervision. -/
abbrev KeepsChannel (c : Chan) (s t : State) : Prop :=
  KeepsProgram c s t ∧ (t.chan c).valve = (s.chan c).valve ∧ (t.chan c).gated = (s.chan c).gated ∧
  (t.chan c).lockoutBit = (s.chan c).lockoutBit ∧
  (t.chan c).burner.supervising = (s.chan c).burner.supervising

/-- Every channel but `c` is kept. -/
abbrev KeepsOthers (c : Chan) (s t : State) : Prop := ∀ d : Chan, d ≠ c → KeepsChannel d s t

/-- Every channel keeps its controller, its program and its configuration. -/
abbrev KeepsPrograms (s t : State) : Prop := ∀ d : Chan, KeepsProgram d s t

/-- The items no command of the zone line touches but the resets: the time base, the pins, the manual reset filter, the
straps' address, the reset cause, the relay, the station state, the peer table, the interval counter, the own-send age,
the lockout bits, and the sender's queue. -/
abbrev KeepsClockwork (s t : State) : Prop :=
  t.mtb = s.mtb ∧ t.pins = s.pins ∧ t.gib.mrActive = s.gib.mrActive ∧ t.gib.mrOn = s.gib.mrOn ∧
  t.gib.mrOff = s.gib.mrOff ∧ t.ssv.address = s.ssv.address ∧ t.ssv.resetCause = s.ssv.resetCause ∧
  t.ssv.relay = s.ssv.relay ∧ t.ssv.station = s.ssv.station ∧ t.ssv.listenCount = s.ssv.listenCount ∧
  t.apu.peers = s.apu.peers ∧ t.apu.interval = s.apu.interval ∧ t.apu.ownSendAge = s.apu.ownSendAge ∧
  t.held = s.held ∧ t.taken = s.taken ∧ t.sparkRead = s.sparkRead ∧ t.clockTaken = s.clockTaken ∧
  t.pending = s.pending ∧
  lockoutBits t = lockoutBits s

/-- The line interface, the configuration's openness, the last-started record and the sender's queue stay as they are. -/
abbrev KeepsLine (s t : State) : Prop :=
  t.lif = s.lif ∧ t.configOpen = s.configOpen ∧ t.stationConfigured = s.stationConfigured ∧
  t.lastStarted = s.lastStarted ∧ t.pending = s.pending

/-- The gate input block, the peer table, the budgets, the interval counter, the own-send age and the power stay as they
are. -/
abbrev KeepsInputsAndPeers (s t : State) : Prop :=
  t.gib = s.gib ∧ t.apu.peers = s.apu.peers ∧ t.apu.budgetA = s.apu.budgetA ∧ t.apu.budgetB = s.apu.budgetB ∧
  t.apu.interval = s.apu.interval ∧ t.apu.ownSendAge = s.apu.ownSendAge ∧ t.held = s.held ∧
  t.pins.zx = s.pins.zx ∧ t.pins.straps = s.pins.straps

/-! ### A sample of the five inputs -/

/-- The coming sample of MR qualifies a press: it is the 2f-th active one (R153). -/
def pressQualifies (x : InputPins) (s : State) : Bool :=
  !s.gib.mrActive && !x.mr && decide (perSecond s.mtb.frequency ≤ s.gib.mrOn + 1)

/-- The DOOR records of a sample with the levels `x`: the doors whose change it accepts, from G0 to G3, each for the
element channels whose mask includes it (R158). -/
def doorRecords (x : InputPins) (s : State) : List EventRecord :=
  (([0, 1, 2, 3] : List (Fin 4)).filter fun k =>
      decide ((s.gib.gates.get k).kind = .door ∧ x.gates.get k ≠ (s.gib.gates.get k).active ∧
        7 ≤ (s.gib.gates.get k).run)).flatMap fun k =>
    (([0, 1, 2, 3] : List Chan).filter fun d =>
      (s.chan d).cfg.kind.isElement && (s.chan d).cfg.gateMask.getLsbD k.val).map fun d =>
        { kind := .door, channel := some d, slot := (s.chan d).pgu.current
          parameter := if x.gates.get k then 0 else 1 }

/-- The LOCKOUT channels that a sample with the levels `x` clears: all, where it qualifies a press while no burner holds
the ignition unit (R144). -/
def clearedBy (x : InputPins) (s : State) (c : Chan) : Bool :=
  pressQualifies x s && s.igu.holder.isNone && (s.chan c).chc.state == .lockout

/-- The LOCKOUT_CLEARED records of a sample with the levels `x` (R144). -/
def clearedRecords (x : InputPins) (s : State) : List EventRecord :=
  (([0, 1, 2, 3] : List Chan).filter (clearedBy x s)).map fun d =>
    { kind := .lockoutCleared, channel := some d, slot := none, parameter := 0 }

/-- The gate input block has sampled its five inputs at the levels `x`, in one event (R151), and the records it raised are
`records`: both filters have moved (R152, R153), the gated conditions are worked out from the new states (R156), the
channels that a qualified press clears are IDLE with their bits cleared and their end causes kept (R60, R144), and nothing
else has moved but what a recomputation moves (R91); with no gate accepted and no press taken there is none. -/
abbrev SampledInputs (x : InputPins) (records : List EventRecord) (s t : State) : Prop :=
  (.gates ∈ t.taken ∧ .manualReset ∈ t.taken) ∧
  t.gib =
    { (if pressQualifies x s then { s.gib with mrActive := true, mrOn := 0 } else countedButton x.mr s.gib) with
      gates :=
        .ofFn fun g =>
          if x.gates.get g ≠ (s.gib.gates.get g).active ∧ 7 ≤ (s.gib.gates.get g).run then
            { s.gib.gates.get g with active := x.gates.get g, run := 0 }
          else countedGate (x.gates.get g) (s.gib.gates.get g) } ∧
  t.rpu = (records.foldl (fun u e => raise e u) s).rpu ∧
  (∀ c : Chan,
    GatedAsConfigured t c ∧
    (t.chan c).chc = (if clearedBy x s c then { (s.chan c).chc with state := .idle } else (s.chan c).chc) ∧
    (t.chan c).lockoutBit = ((s.chan c).lockoutBit && !clearedBy x s c) ∧
    (t.chan c).pgu = (s.chan c).pgu ∧ (t.chan c).cfg = (s.chan c).cfg ∧ (t.chan c).burner = (s.chan c).burner ∧
    (t.chan c).valve = (s.chan c).valve) ∧
  (GatesQuiet x.gates s → pressQualifies x s = false ∨ s.igu.holder.isSome = true →
    t.chans = s.chans ∧ t.apu = s.apu) ∧
  KeepsLine s t ∧ t.mtb = s.mtb ∧ t.ssv = s.ssv ∧ t.igu = s.igu ∧ t.apu.peers = s.apu.peers ∧ t.held = s.held

/-! ### What a command does to a channel -/

/-- The channel passes steps 1 and 2 of the judging order (R47). -/
def notBarred (ch : Channel) : Bool := ch.chc.state != .lockout && ch.cfg.kind != .unused

/-- The controller of a channel after slot `n` starts (R26): a PAUSED channel stays PAUSED with resume target RUNNING; a
burner goes to IGNITING for a lit step unless it is lit already; every other start is RUNNING. -/
def chcAfterStart (ch : Channel) (n : Slot) : Chc :=
  if ch.chc.state = .paused then { ch.chc with target := some .running }
  else
    { ch.chc with
      state := if ch.cfg.kind = .burner ∧ 0 < levelAt ch n ∧ ch.lit = false then .igniting else .running }

/-- The program state of a channel after slot `n` starts: the table of R25. -/
def startedProgram (p : Pgu) (n : Slot) : Pgu :=
  match (p.slotAt n).bind StepRecord.duration with
  | some d => { p with current := some n, timing := .timed, seconds := d, phase := 0, holding := false, delay := 0 }
  | none => { p with current := some n, timing := .opened, seconds := 0, phase := 0, holding := false, delay := 0 }

/-- The driver of channel `ch`, which held `d`, has been started afresh on an entry to RUNNING (R104): CYCLE at accumulator
0 and no conducting cycle, at the ceiling in force (R100); SLOW outside a period, at position 0, and with the level and
on-time 0 that it had while it was not RUNNING. -/
abbrev Afresh (d : Driver) (ch : Channel) : Prop :=
  (ch.cfg.kind = .cycle →
    ch.driver =
      { d with accumulator := 0, conducting := false, level := if ch.gated then 0 else ch.claim.ceiling }) ∧
  (ch.cfg.kind = .slow →
    ch.driver = { d with inPeriod := false, position := 0, onTime := ch.driver.onTime, level := ch.driver.level } ∧
    (d.level = 0 → ch.driver.onTime = 0 ∧ ch.driver.level = 0))

/-- Slot `n` has started on channel `c` (R25, R26), with the driver afresh where the channel was neither RUNNING nor stays
PAUSED (R104). -/
abbrev Started (c : Chan) (n : Slot) (s t : State) : Prop :=
  (t.chan c).pgu = startedProgram (s.chan c).pgu n ∧ (t.chan c).chc = chcAfterStart (s.chan c) n ∧
  ((s.chan c).chc.state ≠ .running → (s.chan c).chc.state ≠ .paused → Afresh (s.chan c).driver (t.chan c))

/-- The program of channel `c` has ended with `cause`, and the channel is IDLE (R33): the valve is closed, a burner that
was in no part of ignition ends its supervision with its runs at 0 (R56, R140), and an element drives at 0 (R100). -/
abbrev Ended (cause : EndCause) (c : Chan) (s t : State) : Prop :=
  (t.chan c).chc = { state := .idle, causes := ⟨false, false⟩, target := none, endCause := cause } ∧
  (t.chan c).pgu =
    { (s.chan c).pgu with
      current := none, timing := .opened, seconds := 0, phase := 0, holding := false, delay := 0 } ∧
  (t.chan c).valve = 0 ∧ (t.chan c).burner.supervising = false ∧
  ((s.chan c).burner.phase = .none → c ∉ s.igu.queue →
    (t.chan c).burner = { (s.chan c).burner with supervising := false, onRun := 0, offRun := 0, blankRun := 0 }) ∧
  ((s.chan c).cfg.kind.isElement = true → (t.chan c).driver.level = 0)

/-- The program of channel `c`, if it had one, has ended with `cause`; without one the channel is untouched (R56,
R58). -/
abbrev EndedOrKept (cause : EndCause) (c : Chan) (s t : State) : Prop :=
  if (s.chan c).chc.state.hasProgram = true then Ended cause c s t else KeepsChannel c s t

/-- The step in slot `n` of channel `c` has expired with end action `a` (R29 to R32). -/
abbrev Expired (a : EndAction) (c : Chan) (n : Slot) (s t : State) : Prop :=
  match a with
  | .hold =>
    (t.chan c).pgu = { (s.chan c).pgu with seconds := 0, phase := 0, holding := true, timing := .timed } ∧
    (t.chan c).chc = (s.chan c).chc
  | .finish => Ended .completed c s t
  | .next =>
    if n = 7 ∨ (s.chan c).pgu.slotAt (n + 1) = none then Ended .completed c s t else Started c (n + 1) s t

/-- The records that the expiry of the current step of channel `c` with end action `a` raises (R29 to R31, R33): STEP_END
with the action applied, and PROGRAM_END where the program ends. -/
def expiryRecords (a : EndAction) (c : Chan) (ch : Channel) : List EventRecord :=
  { kind := .stepEnd, channel := some c, slot := ch.pgu.current
    parameter := match a with | .next => 0 | .finish => 1 | .hold => 2 } ::
  if a = .finish ∨ (a = .next ∧ ch.pgu.current.bind ch.pgu.following = none) then
    [{ kind := .programEnd, channel := some c, slot := ch.pgu.current, parameter := 1 }]
  else []

/-- The record that the end of the delay of channel `c` raises (R35). -/
def delayRecords (c : Chan) (ch : Channel) : List EventRecord :=
  [{ kind := .delayEnd, channel := some c, slot := ch.pgu.current, parameter := 0 }]

/-- The records that a SKIP raises on channel `c` (R36): a holding step expires with action NEXT. -/
def skipRecords (c : Chan) (ch : Channel) : List EventRecord :=
  match ch.chc.state with
  | .running => expiryRecords (if ch.pgu.holding then .next else ch.pgu.endAction) c ch
  | .delayed => delayRecords c ch
  | .igniting | .idle | .paused | .disabled | .lockout => []

/-- The records that an ADJUST TIME with value `v` raises on channel `c` (R38, R39): SET 0, and a SUBTRACT that reaches 0,
expire the step or end the delay. -/
def timeRecords (op : AdjustOperation) (v : Nat) (c : Chan) (ch : Channel) : List EventRecord :=
  if ch.chc.state = .delayed ∨ (ch.chc.state = .paused ∧ ch.chc.target = some .delayed) then
    if (op = .set ∧ v = 0) ∨ (op = .subtract ∧ 0 < v ∧ ch.pgu.delay ≤ v) then delayRecords c ch else []
  else if ch.chc.state = .running ∨ ch.chc.state = .paused then
    if (op = .set ∧ v = 0) ∨ (op = .subtract ∧ 0 < v ∧ ch.pgu.timing = .timed ∧ ch.pgu.seconds ≤ v) then
      expiryRecords ch.pgu.endAction c ch
    else []
  else []

/-- A command with channel mask `mask` has raised the records that `f` gives for each named channel past steps 1 and 2 of
the judging order, in the turns that `order` gives (R193 to R195). -/
abbrev RaisesOf (f : Chan → Channel → List EventRecord) (mask : Byte) (order : List Chan) (s t : State) : Prop :=
  t.rpu =
    ((inTurn order
        ((([0, 1, 2, 3] : List Chan).filter fun d => maskNames mask d && notBarred (s.chan d)).flatMap fun d =>
          f d (s.chan d))).foldl (fun u e => raise e u) s).rpu

/-- The answer of a channel that passes steps 1 and 2 to a START (R47 steps 3 to 7, R49). -/
def startResult (s : State) (c : Chan) (slot : Byte) : Result :=
  if (s.chan c).cfg.configured = false ∨ s.stationConfigured = false then .notConfigured
  else if (s.chan c).chc.state ≠ .idle then .refusedState
  else if 8 ≤ slot.toNat then .badValue
  else if s.ssv.station = .mainsWait ∨ s.ssv.station = .rideThrough ∨
      (s.ssv.station = .safe ∧ ((s.chan c).cfg.kind ≠ .burner ∨ s.mtb.mode ≠ .tracking)) then .notReady
  else if ((s.chan c).pgu.slots[slot.toNat]?).join = none then .emptySlot
  else .done

/-- The header, code and channel mask of a command that the channels judge (R47); a STOP with a selector beyond the masks
is none. -/
def programCommand (i : Instr) : Option (CmdHeader × Byte × Byte) :=
  match i with
  | .start h mask _ _ => some (h, 5, mask)
  | .pause h mask => some (h, 6, mask)
  | .resume h mask => some (h, 7, mask)
  | .stop h selector _ => if selector.toNat < 16 then some (h, 8, selector) else none
  | .skip h mask _ => some (h, 9, mask)
  | .adjustLevelSet h mask _ | .adjustLevelAdd h mask _ | .adjustLevelSubtract h mask _ | .adjustTimeSet h mask _ _ _ _
  | .adjustTimeAdd h mask _ | .adjustTimeSubtract h mask _ _ => some (h, 10, mask)
  | _ => none

/-- The ADJUST LEVEL row of an operation. -/
def levelCommand (op : AdjustOperation) (h : CmdHeader) (mask : Byte) (value : BitVec 24) : Instr :=
  match op with
  | .set => .adjustLevelSet h mask value
  | .add => .adjustLevelAdd h mask value
  | .subtract => .adjustLevelSubtract h mask value

/-- The ADJUST TIME row of an operation. -/
def timeCommand (op : AdjustOperation) (h : CmdHeader) (mask : Byte) (value : BitVec 24) (order : List Chan) : Instr :=
  match op with
  | .set => .adjustTimeSet h mask 1 0 value order
  | .add => .adjustTimeAdd h mask value
  | .subtract => .adjustTimeSubtract h mask value order

/-! ### The payloads of the frames a station sends (08, Frames sent by a ZTC-410) -/

/-- Payload byte `i` as a number. -/
def octet (p : List Byte) (i : Nat) : Nat := ((p[i]?).getD 0).toNat

/-- The payload of a DEMAND (R75): for each channel the announced demand, the class (0 for an uncontrolled record) and
the circuit, class 0 and circuit A for a channel that is not configured (R182); then the station state, STARVED and
SAFE. -/
abbrev DemandLayout (s : State) (p : List Byte) : Prop :=
  p.length = 9 ∧
  (∀ d : Chan, (s.chan d).claim.announced < 1024 →
    octet p (2 * d.val) * 4 + octet p (2 * d.val + 1) / 64 = (s.chan d).claim.announced ∧
    octet p (2 * d.val + 1) / 16 % 4 =
      (if (s.chan d).driver.uncontrolled = true ∨ (s.chan d).cfg.configured = false then 0
      else (s.chan d).cfg.cls.val) ∧
    octet p (2 * d.val + 1) / 8 % 2 =
      (if (s.chan d).cfg.configured = true ∧ (s.chan d).cfg.circuit = .b then 1 else 0) ∧
    octet p (2 * d.val + 1) % 8 = 0) ∧
  octet p 8 =
    s.ssv.station.code + (if s.apu.ownSendAge = 2 then 8 else 0) + (if s.ssv.station = .safe then 16 else 0)

/-- The payload of a STATE frame for channel `d` (R192), where every field is within its range. -/
abbrev StateLayout (s : State) (d : Chan) (p : List Byte) : Prop :=
  p.length = 12 ∧
  octet p 0 / 64 = d.val ∧ octet p 0 / 8 % 8 = (s.chan d).chc.state.code ∧ octet p 0 % 8 = s.ssv.station.code ∧
  ((s.chan d).burner.attempt < 4 →
    octet p 1 / 32 =
      (if (s.chan d).cfg.kind = .burner ∧ (s.chan d).chc.state = .igniting then (s.chan d).burner.phase.code else 0) ∧
    octet p 1 / 8 % 4 =
      (if (s.chan d).cfg.kind = .burner ∧ (s.chan d).chc.state = .igniting then (s.chan d).burner.attempt else 1) ∧
    octet p 1 / 4 % 2 =
      (if (s.chan d).chc.state = .paused ∧ (s.chan d).chc.causes.command = true then 1 else 0) ∧
    octet p 1 / 2 % 2 = (if (s.chan d).chc.state = .paused ∧ (s.chan d).chc.causes.mains = true then 1 else 0) ∧
    octet p 1 % 2 = (if s.lastStarted = some d then 1 else 0)) ∧
  octet p 2 % 16 = ((s.chan d).pgu.current.map Fin.val).getD 15 ∧
  octet p 2 / 16 = (if (s.chan d).gated then 1 else 0) + (if (s.chan d).pgu.holding then 2 else 0) ∧
  ((s.chan d).pgu.delay < 16777216 → (s.chan d).pgu.seconds < 16777216 →
    octet p 3 * 65536 + octet p 4 * 256 + octet p 5 =
      (if (s.chan d).chc.state = .delayed ∨
          ((s.chan d).chc.state = .paused ∧ (s.chan d).chc.target = some .delayed) then (s.chan d).pgu.delay
      else if (s.chan d).chc.state.hasProgram = true then (s.chan d).pgu.seconds else 0)) ∧
  ((s.chan d).claim.ceiling < 256 → octet p 6 = (s.chan d).claim.ceiling) ∧
  ((s.chan d).claim.announced < 1024 → octet p 7 * 4 + octet p 9 / 64 = (s.chan d).claim.announced) ∧
  ((s.chan d).claim.grant < 1024 → octet p 8 * 4 + octet p 9 / 16 % 4 = (s.chan d).claim.grant) ∧
  octet p 9 % 16 = (s.chan d).chc.endCause.code ∧
  octet p 10 =
    (if s.ssv.powerFail then 1 else 0) + (if s.rpu.lost then 2 else 0) + (if s.ssv.clash then 4 else 0) +
      (if s.apu.ownSendAge = 2 then 8 else 0) ∧
  octet p 11 = (if s.ssv.resetCause = .powerOn then 0 else 1)

/-! ### Sound states -/

/-- Every queue and counter is within its bounds (R10, R17, R20, R79, R81, R82a, R83, R152, R174, R177, R193). -/
abbrev Bounded (s : State) : Prop :=
  s.lif.replies.length ≤ 4 ∧ s.lif.stateSet.Nodup ∧ s.rpu.events.length ≤ 8 ∧
  s.apu.peers.length = 16 ∧ (∀ row ∈ s.apu.peers, (row.map PeerRow.age).getD 0 ≤ 3) ∧
  s.apu.ownSendAge ≤ 2 ∧ s.apu.interval < 50 ∧ s.ssv.listenCount ≤ 3 ∧ s.ssv.clashQuiet ≤ 4 ∧
  (∀ c : Chan, (s.chan c).pgu.slots.length = 8) ∧ (∀ g : Fin 4, (s.gib.gates.get g).run ≤ 7) ∧ s.gib.mrOff ≤ 7

/-- Every level of every step table is within the maximum of its channel's kind (R20). -/
abbrev LevelsInRange (s : State) : Prop :=
  ∀ c : Chan, ∀ r ∈ (s.chan c).pgu.slots, (r.map StepRecord.level).getD 0 ≤ levelMax (s.chan c).cfg.kind

/-- Power stays within what the station may take: every ceiling is 0 outside ACTIVE, while starved and under a clash
(R89), and no driver's level exceeds its channel's ceiling (R100). -/
abbrev PowerSound (s : State) : Prop :=
  (ceilingsBarred s = true → ∀ c : Chan, (s.chan c).claim.ceiling = 0) ∧
  ∀ c : Chan,
    (s.chan c).driver.level ≤ (s.chan c).claim.ceiling ∧ (s.chan c).claim.ceiling ≤ 100 ∧
    (s.chan c).driver.accumulator ≤ 99 ∧
    ((s.chan c).cfg.kind.isElement = false ∨ (s.chan c).chc.state = .lockout → (s.chan c).driver.level = 0)

/-- Holds are sound: the settled demand never exceeds the announced demand, and equals it while no hold stands (R72). -/
abbrev HoldsSound (s : State) : Prop :=
  ∀ c : Chan,
    (s.chan c).claim.settled ≤ (s.chan c).claim.announced ∧
    ((s.chan c).claim.stage = .clear → (s.chan c).claim.settled = (s.chan c).claim.announced)

/-- A phase in which the holder's valve is open. -/
def IgnitionPhase.valveOpen (p : IgnitionPhase) : Bool :=
  match p with
  | .spark | .prove => true
  | .none | .queued | .lineWait | .purge => false

/-- Ignition and flame are sound (R45, R123 to R126, R140): at most one burner holds the unit and it is the one the
record names; the queue holds the QUEUED burners, each once; a burner has a phase only while IGNITING; supervision and
an open valve belong to a lit RUNNING step, which is always supervised, or to the attempt in SPARK and PROVE; SPK_EN is
asserted only for a holder in SPARK. -/
abbrev FuelSound (s : State) : Prop :=
  s.igu.queue.Nodup ∧ (s.igu.holder = none → s.igu.queue = []) ∧
  (s.igu.spark = true → ∃ c : Chan, s.igu.holder = some c ∧ (s.chan c).burner.phase = .spark) ∧
  ∀ c : Chan,
    ((s.chan c).burner.phase.holdsUnit = true ↔ s.igu.holder = some c) ∧
    ((s.chan c).burner.phase = .queued ↔ c ∈ s.igu.queue) ∧
    ((s.chan c).burner.phase ≠ .none → (s.chan c).chc.state = .igniting) ∧
    ((s.chan c).chc.state = .igniting →
      (s.chan c).burner.phase ≠ .none ∧ (s.chan c).cfg.kind = .burner ∧ 0 < (s.chan c).pgu.level) ∧
    ((s.chan c).burner.supervising = true ↔ (s.chan c).lit = true) ∧
    (0 < (s.chan c).valve →
      ((s.chan c).lit = true ∧ (s.chan c).burner.supervising = true) ∨ (s.chan c).burner.phase.valveOpen = true)

/-- The ignition unit's line between `s` and `t`: the holder and the queue of `s` without the burners that have left
IGNITING, and then those that have entered it, in rising channel order (R125, R126, R127). -/
def ignitionLine (s t : State) : List Chan :=
  (s.igu.holder.toList ++ s.igu.queue).filter (fun d => decide ((t.chan d).chc.state = .igniting)) ++
    ([0, 1, 2, 3] : List Chan).filter fun d =>
      decide ((s.chan d).chc.state ≠ .igniting ∧ (t.chan d).chc.state = .igniting)

/-- From a sound state (FuelSound, which every step keeps) the ignition unit has followed the channels that entered and left
IGNITING between `s` and `t`, none of them by a flame loss or by an attempt of its own: the head of the line is holder, the rest the queue, and SPK_EN stays with a holder that
stays (R126, R127); a burner that entered begins attempt 1 of the configured attempts, QUEUED or, as the new holder, in
LINE_WAIT with quiet count 0 (R125, R126); one that left has its record at the reset values but for the attempts allowed
(R127); one that is promoted goes to LINE_WAIT with quiet count 0, and the others in IGNITING stay as they are. -/
abbrev IgnitionFollows (s t : State) : Prop :=
  FuelSound s →
    t.igu =
      { holder := (ignitionLine s t).head?
        queue := (ignitionLine s t).tail
        spark := s.igu.spark && decide ((ignitionLine s t).head? = s.igu.holder) } ∧
    ∀ c : Chan,
      ((s.chan c).chc.state ≠ .igniting → (t.chan c).chc.state = .igniting →
        (t.chan c).burner =
          { (s.chan c).burner with
            attempt := 1
            allowed := (s.chan c).cfg.params.attempts
            phase := if (ignitionLine s t).head? = some c then .lineWait else .queued
            quiet := if (ignitionLine s t).head? = some c then 0 else (s.chan c).burner.quiet }) ∧
      ((s.chan c).chc.state = .igniting → (t.chan c).chc.state ≠ .igniting →
        (t.chan c).burner = { Burner.reset with allowed := (s.chan c).burner.allowed } ∧ (t.chan c).valve = 0) ∧
      ((s.chan c).chc.state = .igniting → (t.chan c).chc.state = .igniting →
        (t.chan c).burner =
          (if (ignitionLine s t).head? = some c ∧ s.igu.holder ≠ some c then
            { (s.chan c).burner with phase := .lineWait, quiet := 0 }
          else (s.chan c).burner))

/-- The safety time bounds an attempt (R132 to R134, R136): the accumulator stays below S in SPARK and below T in PROVE,
and the stored parameters keep S below T (R187). -/
abbrev AttemptBounded (s : State) : Prop :=
  ∀ c : Chan,
    5 ≤ (s.chan c).cfg.params.sparkTime ∧
    (s.chan c).cfg.params.sparkTime + 10 ≤ (s.chan c).cfg.params.safetyTime ∧
    ((s.chan c).burner.phase = .spark →
      (s.chan c).burner.safety < (s.chan c).burner.sparkTime ∧
      (s.chan c).burner.sparkTime < (s.chan c).burner.safetyTime) ∧
    ((s.chan c).burner.phase = .prove → (s.chan c).burner.safety < (s.chan c).burner.safetyTime)

/-- The time base is sound (R2, R4 to R7): f is none exactly in MEASURING, the missing-crossing timer runs exactly in
TRACKING and the ride-through timer exactly in MISSING, a return run in MISSING stays below 10, and the prescaler below
2f; and an event is taken whole: the gates and MR are sampled in the same event (R151), and the holds and the interval
counter count in the same event (R77, R79), so none of them has taken a half-cycle without the others. -/
abbrev TimeBaseSound (s : State) : Prop :=
  s.mtb.run ≤ 3 ∧ (s.mtb.mode = .measuring ↔ s.mtb.frequency = none) ∧
  (s.mtb.mode = .tracking ↔ s.mtb.missingTimer.isSome = true) ∧
  (s.mtb.mode = .missing ↔ s.mtb.rideTimer.isSome = true) ∧
  (s.mtb.mode = .missing → s.mtb.returnRun ≤ 9) ∧
  (s.mtb.mode = .measuring → s.mtb.prescaler = 0) ∧
  (s.mtb.frequency.isSome = true → s.mtb.prescaler < perSecond s.mtb.frequency) ∧
  (.gates ∈ s.taken ↔ .manualReset ∈ s.taken) ∧
  (∀ c : Chan, .hold c ∈ s.taken ↔ .interval ∈ s.taken)

/-- The station state agrees with the time base (R9 to R15): MAINS_WAIT measures, LISTEN and ACTIVE track, RIDE_THROUGH
misses crossings and knows where it returns to, and in SAFE the relay is released and no element has a program. -/
abbrev StationSound (s : State) : Prop :=
  (s.ssv.station = .mainsWait → s.mtb.mode = .measuring) ∧
  (s.ssv.station = .listen ∨ s.ssv.station = .active → s.mtb.mode = .tracking) ∧
  (s.ssv.station = .rideThrough →
    s.mtb.mode = .missing ∧ (s.ssv.prior = some .listen ∨ s.ssv.prior = some .active)) ∧
  (s.ssv.station = .safe →
    s.ssv.relay = false ∧
    ∀ c : Chan, (s.chan c).cfg.kind.isElement = true → (s.chan c).chc.state.hasProgram = false)

/-- The two rows that act while power-on reset holds (R19). -/
def isPowerRow (i : Instr) : Bool :=
  match i with
  | .supplyBelowThreshold | .powerOnReset _ => true
  | _ => false

/-- A command that is one of the two resets. -/
def isReset (i : Instr) : Bool :=
  match i with
  | .powerOnReset _ | .resetStation _ _ => true
  | _ => false

end Sys2Proof.Machine
end

