-- ==== Sys2Proof/WellFormed.lean ====
section
/-! DEFINITION. The checks on a command as the outside can bring it about: those that its type does not make already. -/

namespace Sys2Proof

/-- The bytes are those of a frame that the receive assembly completes (R169). -/
def frameChecks (frame : List Byte) : Bool := Machine.frameComplete frame

/-- An ADJUST of ADJUST_TIME_SET carries TIME and SET, or a code beyond the table (log entry 8). -/
def adjustTimeSetChecks (target operation : Byte) : Bool :=
  match Machine.adjustTargetOfByte target, Machine.adjustOperationOfByte operation with
  | some .time, some .set => true
  | some _, some _ => false
  | _, _ => true

/-- A command that its row can carry.
* ACCEPTED_CROSSING: no unit stands twice in the order (each takes a half-cycle once, R3).
* FRAME_ABANDONED: a bit after byte 0, or a bit of byte 0 that can be sent dominant, so not the stop bit (R166, R167).
* FRAME_REJECTED: a complete frame that fails a check (R170).
* PEER_REPORT_RECEIVED: a valid frame of kind REPLY, DEMAND, EVENT or STATE (R170).
* COMMAND_UNKNOWN: the code is unknown or the length wrong for it (R172).
* LOAD_STEP: a record, whose end action byte is not that of CLEAR (R179).
* STOP: a selector byte that is not LAST (R179).
* ADJUST_TIME_SET: see `adjustTimeSetChecks`. -/
def Instr.wellFormed (i : Instr) : Bool :=
  match i with
  | .acceptedCrossing _ order => decide order.Nodup
  | .frameAbandoned byte pos => decide (byte < 15) && (decide (0 < byte) || pos != 9)
  | .frameRejected frame => frameChecks frame && !Machine.frameValid frame
  | .peerReportReceived frame => Machine.frameValid frame && decide (2 ≤ Machine.frameKind frame)
  | .commandUnknown _ code parameters => Machine.unknownCommand code parameters
  | .loadStep _ _ _ _ _ endAction => endAction != 0xFF
  | .stop _ selector _ => selector != 0x80
  | .adjustTimeSet _ _ target operation _ _ => adjustTimeSetChecks target operation
  | .supplyBelowThreshold | .powerOnReset _ | .frequencySet | .secondEvent | .mainsAbsent | .mainsRestored
  | .mainsFailed _ | .stationActive | .stepExpiry _ | .delayEnd _ | .intervalEvent | .peerRowRemoved _ | .starvationBegin
  | .raiseHoldClear _ | .slowPeriodStart _ _ | .slowOnTimeEnd _ _ | .stuckOff _ _ | .stuckOn _ _ | .stuckOnRepeat _ _
  | .uncontrolledCleared _ _ | .sparkStart _ _ | .sparkEnd _ _ | .flameProven _ _ | .attemptFail _ _ | .falseFlameSet _ _
  | .falseFlameCleared _ _ | .falseFlameLockout _ _ | .purgeEnd _ | .flameLoss _ _ | .gateChangeAccepted _
  | .manualResetRequest _ | .mrRelease _ | .lineIdle _ | .arbitrationLost _ | .replySent | .demandSent | .eventFrameSent
  | .stateSent | .receiveAborted _ | .halt _ | .configureStation _ _ _ _ | .configureChannel _ _
  | .configureBurner _ _ _ | .loadStepClear _ _ _ | .start _ _ _ _ | .pause _ _ | .resume _ _ | .stopLast _ | .skip _ _ _
  | .adjustLevelSet _ _ _ | .adjustLevelAdd _ _ _ | .adjustLevelSubtract _ _ _ | .adjustTimeAdd _ _ _
  | .adjustTimeSubtract _ _ _ _ | .query _ _ | .clearFlags _ | .resetStation _ _ | .commandNotMatched _
  | .zxFilterSample _ _ | .contendingOnIdleLine _ => true

/-- The header of a COMMAND frame's row; a HALT is given the header that every station matches. -/
def commandHeader (i : Instr) : Option CmdHeader :=
  match i with
  | .halt source => some ⟨source, 0, 0⟩
  | .commandUnknown h _ _ | .configureStation h _ _ _ | .configureChannel h _ | .configureBurner h _ _
  | .loadStep h _ _ _ _ _ | .loadStepClear h _ _ | .start h _ _ _ | .pause h _ | .resume h _ | .stop h _ _ | .stopLast h
  | .skip h _ _ | .adjustLevelSet h _ _ | .adjustLevelAdd h _ _ | .adjustLevelSubtract h _ _ | .adjustTimeSet h _ _ _ _ _
  | .adjustTimeAdd h _ _ | .adjustTimeSubtract h _ _ _ | .query h _ | .clearFlags h | .resetStation h _ => some h
  | _ => none

/-- The straps that a RESET_STATION reads, which its frame does not carry (R16). -/
def strapsOf (otherwise : BitVec 4) (i : Instr) : BitVec 4 :=
  match i with
  | .resetStation _ straps => straps
  | _ => otherwise

/-- The turns of the report unit that a command carries beside its frame (R195). -/
def turnsOf (i : Instr) : List Chan :=
  match i with
  | .stop _ _ order | .skip _ _ order | .adjustTimeSet _ _ _ _ _ order | .adjustTimeSubtract _ _ _ order => order
  | _ => []

end Sys2Proof
end

