-- ==== Sys2Proof/Certificates/Slice0/Obligations.lean ====
section
/-! DEFINITION. The statements for the provers.  Each docstring names the rules of spec/ or the log entry it rests on. -/

section

open Sys2Proof Sys2Proof.Machine

/-! ### The step and the resets -/

/-- A step takes the command at the front of the queue and carries it out on the state with the queue's rest. -/
def Obligations.StepTakesFrontCommand : Prop :=
  ∀ (s : State) (i : Instr) (rest : List Instr),
    s.pending = i :: rest → step s = exec i { s with pending := rest }

/-- With nothing waiting the block idles (the model's choice, log entry 3), and no command touches the sender's queue:
every command answers a next state with the queue as it was. -/
def Obligations.QueueBelongsToSender : Prop :=
  ∀ (s : State) (i : Instr),
    (s.pending = [] → step s = .next s) ∧ ∃ t, exec i s = .next t ∧ t.pending = s.pending

/-- R19: a supply below the threshold turns every drive off, closes every valve, releases SPK_EN and de-energizes SR, and
while it stays there nothing but the end of power-on reset, or a further fall of the supply, reaches the block; that the
programs stand as they were until then is the model's choice (log entry 15). -/
def Obligations.SupplyLossReleasesOutputsAndHolds : Prop :=
  ∀ (s : State) (i : Instr) (c : Chan),
    (∃ t, exec .supplyBelowThreshold s = .next t ∧ t.held = true ∧ t.ssv.relay = false ∧ t.igu.spark = false ∧
      (t.chan c).driver.output = false ∧ (t.chan c).valve = 0 ∧ (t.chan c).lockoutBit = (s.chan c).lockoutBit ∧
      frameUnderWay t = none ∧ KeepsPrograms s t) ∧
    (s.held = true → isPowerRow i = false → exec i s = .next s)

/-- R8, R19, R44, R68, R98, R121, R150, R162, R181, R189, R198: power-on reset sets every block to the values of its
reset table: cause POWER_ON, the power-fail latch set, the straps read, the lockout bits kept.  The items the tables
give no value (log entries 7 and 10) are left out. -/
def Obligations.PowerOnResetSetsEveryBlock : Prop :=
  ∀ (s : State) (straps : BitVec 4) (c : Chan),
    ∃ t, exec (.powerOnReset straps) s = .next t ∧ t.held = false ∧ t.pins = { s.pins with straps := straps } ∧
      t.ssv =
        { station := .mainsWait, prior := none, listenCount := 0, address := straps, clash := false, clashQuiet := 4
          powerFail := true, resetCause := .powerOn, relay := true } ∧
      t.mtb.sign = none ∧ t.mtb.run = 0 ∧ t.mtb.mode = .measuring ∧ t.mtb.frequency = none ∧ t.mtb.windowCount = 0 ∧
      t.mtb.windowSum = 0 ∧ t.mtb.prescaler = 0 ∧ t.mtb.missingTimer = none ∧ t.mtb.rideTimer = none ∧
      t.mtb.returnRun = 0 ∧
      (t.chan c).lockoutBit = (s.chan c).lockoutBit ∧
      (t.chan c).chc =
        { state := if (s.chan c).lockoutBit then .lockout else .idle, causes := ⟨false, false⟩, target := none,
          endCause := .none } ∧
      t.lastStarted = none ∧
      (t.chan c).pgu =
        { slots := List.replicate 8 none, pointer := 0, current := none, timing := .opened, seconds := 0, phase := 0
          holding := false, delay := 0 } ∧
      (t.chan c).claim =
        { target := 0, needed := 0, announced := 0, stage := .clear, carried := false, count := 0, settled := 0
          grant := 0, paid := 0, ceiling := 0 } ∧
      t.apu.peers = List.replicate 16 none ∧ t.apu.interval = 0 ∧ t.apu.ownSendAge = 0 ∧ starved t = false ∧
      t.apu.request = false ∧ t.apu.budgetA = 0 ∧ t.apu.budgetB = 0 ∧
      (t.chan c).driver =
        { level := 0, output := false, accumulator := 0, conducting := false, inPeriod := false, position := 0
          onTime := 0, settle := 0, onMismatch := 0, offMismatch := 0, suspended := false, uncontrolled := false
          clearCount := 0 } ∧
      (t.chan c).burner =
        { (t.chan c).burner with
          phase := .none, attempt := 1, allowed := 1, quiet := 0, safety := 0, purge := 0, onRun := 0, offRun := 0
          falseFlame := false, falseTimer := 0, supervising := false, blankRun := 0 } ∧
      (t.chan c).valve = 0 ∧ t.igu = { queue := [], holder := none, spark := false } ∧
      t.gib =
        { gates := .fill { active := false, run := 0, kind := .unused }, mrActive := false, mrOn := 0, mrOff := 0 } ∧
      (t.chan c).gated = false ∧ t.lif = { line := .unseen, replies := [], stateSet := [] } ∧
      t.rpu = { events := [], lost := false } ∧ t.configOpen = true ∧ t.stationConfigured = false ∧
      (t.chan c).cfg =
        { (t.chan c).cfg with
          kind := .notConfigured, load := 1, circuit := .a, cls := 0, gateMask := 0, period := 10, minSwitch := 1
          burnerTaken := false }

/-- R19 and R172 steps 1 and 3: a matching RESET_STATION that finds room in the REPLY queue resets every block at once,
with cause LINE_RESET and no reply, keeping the power-fail latch and the lockout bits; a COMMAND that finds four
entries there, RESET_STATION included, is not carried out, and only the clash check has seen it.  The items that the reset
tables give no value stand at the model's values (log entries 7 and 10), and the sender's queue is kept (log entry
15). -/
def Obligations.ResetStationNeedsRoomForAReply : Prop :=
  ∀ (s : State) (h : CmdHeader) (straps : BitVec 4) (code : Byte) (run : State → State × Quad Result),
    (Accepts h s →
      exec (.resetStation h straps) s =
        .next
          { State.afterReset .lineReset s.ssv.powerFail (lockoutBits s) { s.pins with straps := straps } s.pending with
            eventsNew := s.rpu.events.isEmpty }) ∧
    (s.held = false → addressMatches s.ssv.address h = true → receptive s = true → 4 ≤ s.lif.replies.length →
      acceptCommand h code run s = noteClash h.source (setLine .closed s) ∧
      ∃ t, exec (.resetStation h straps) s = .next t ∧ t.lif = { s.lif with line := .closed } ∧ t.rpu = s.rpu ∧
        t.configOpen = s.configOpen ∧ KeepsPrograms s t ∧ KeepsClockwork s t)

/-- The machine right after reset is sound in every sense of Safety.lean; the burner parameters that AttemptBounded speaks
of stand at the model's values (log entry 7). -/
def Obligations.ResetIsSound : Prop :=
  Bounded State.reset ∧ LevelsInRange State.reset ∧ PowerSound State.reset ∧ HoldsSound State.reset ∧
  FuelSound State.reset ∧ AttemptBounded State.reset ∧ TimeBaseSound State.reset ∧ StationSound State.reset

/-! ### What every step keeps -/

/-- R10, R17, R20, R79, R81, R83, R152, R174, R177, R193: every step keeps the queues and counters within bounds. -/
def Obligations.StepKeepsBounds : Prop := ∀ s t : State, Bounded s → step s = .next t → Bounded t

/-- R20, R21, R37, R89, R100, R102: every step keeps each stored level within the maximum of its channel's kind (for a
BURNER without burner parameters as well: log entry 21), the ceilings at 0 where they are barred, and each driver at or
below its ceiling. -/
def Obligations.StepKeepsPowerSound : Prop :=
  ∀ s t : State, Bounded s → LevelsInRange s → PowerSound s → step s = .next t → LevelsInRange t ∧ PowerSound t

/-- R72 to R78: every step keeps the settled demand at or below the announced one, and equal to it with no hold. -/
def Obligations.StepKeepsHoldsSound : Prop := ∀ s t : State, HoldsSound s → step s = .next t → HoldsSound t

/-- R45, R123 to R127, R140: every step keeps ignition and flame sound; a lit RUNNING step is supervised, and a valve is
open only on one or in an attempt's SPARK and PROVE. -/
def Obligations.StepKeepsFuelSound : Prop := ∀ s t : State, FuelSound s → step s = .next t → FuelSound t

/-- R136: every step keeps the safety accumulator of an attempt below its safety time; a reset leaves the burner parameters
at the model's values, which keep S below T as well (log entry 7). -/
def Obligations.StepKeepsAttemptsBounded : Prop :=
  ∀ s t : State, TimeBaseSound s → AttemptBounded s → step s = .next t → AttemptBounded t

/-- R2, R4 to R7, R9 to R15, R49, R62, R77, R79, R151: every step keeps the time base sound and the station state in agreement with
it, and SAFE without element programs; no step leaves the gates sampled at a half-cycle and MR not, or MR and the gates
not, nor a hold counted and another hold or the interval not. -/
def Obligations.StepKeepsStationSound : Prop :=
  ∀ s t : State, TimeBaseSound s → StationSound s → step s = .next t → TimeBaseSound t ∧ StationSound t

/-- R14, R15, R119, R142, R144, R188: SAFE is left, and SR energized again, by a reset alone; closed configuration is
reopened by a reset alone; a set lockout bit is cleared by a press of the manual reset alone, at its 2f-th active
sample, in whichever row takes that sample (R151), and not by a reset. -/
def Obligations.OnlyResetsUndoLatches : Prop :=
  ∀ (s t : State) (i : Instr) (c : Chan), exec i s = .next t →
    (isReset i = false → s.ssv.station = .safe → s.ssv.relay = false →
      t.ssv.station = .safe ∧ t.ssv.relay = false) ∧
    (isReset i = false → s.configOpen = false → t.configOpen = false) ∧
    ((s.chan c).lockoutBit = true → (t.chan c).lockoutBit = false →
      ((∃ gates, i = .manualResetRequest gates) ∨ (∃ pins, i = .gateChangeAccepted pins) ∨
        ∃ pins order, i = .acceptedCrossing pins order) ∧ s.gib.mrActive = false ∧
      perSecond s.mtb.frequency ≤ s.gib.mrOn + 1 ∧ t.gib.mrActive = true)

/-! ### Laws of the shared computations -/

/-- R86: the budget of a circuit is divided class by class: where the demands T of a class fit the remainder R, each record
of the class is granted its whole demand and R loses T; a class that does not fit is granted floor(d × R / T) each, and
every later class 0.  The grants never exceed the budget together.  R85: the records taken are the own records that
announce something on the circuit, and those with a demand on it in the PRESENT rows reported ACTIVE, RIDE_THROUGH or
SAFE.  A channel keeps the grant of its record, 0 where it announces nothing.  R75, R182: the record of a channel that is
not configured has class 0 and circuit A. -/
def Obligations.GrantsWithinBudget : Prop :=
  ∀ (budget : Nat) (recs : List DemandRecord) (d : DemandRecord) (T R : Nat → Nat) (s : State) (C : Circuit) (c : Chan)
    (own : Chan → DemandRecord),
    (∀ k : Nat, T k = ((recs.filter fun x => decide (x.cls.val = k)).map DemandRecord.demand).sum) →
    R 0 = budget → (∀ k : Nat, R (k + 1) = if T k ≤ R k then R k - T k else 0) →
    (∀ x : Chan,
      own x =
        { demand := (s.chan x).claim.announced
          cls :=
            if (s.chan x).driver.uncontrolled = true ∨ (s.chan x).cfg.configured = false then 0 else (s.chan x).cfg.cls
          circuit := if (s.chan x).cfg.configured = true then (s.chan x).cfg.circuit else .a }) →
    (recs.map (grantOf budget recs)).sum ≤ budget ∧
    grantOf budget recs d =
      (if T d.cls.val ≤ R d.cls.val then d.demand else d.demand * R d.cls.val / T d.cls.val) ∧
    (∀ k : Nat, R k < T k → k < d.cls.val → d ∈ recs → grantOf budget recs d = 0) ∧
    circuitRecords C s.chans s.apu.peers =
      (([0, 1, 2, 3] : List Chan).map own).filter (fun x => decide (0 < x.demand ∧ x.circuit = C)) ++
      ((s.apu.peers.filterMap id).filter fun r =>
          decide (r.state = .active ∨ r.state = .rideThrough ∨ r.state = .safe)).flatMap (fun r =>
        [r.records.c0, r.records.c1, r.records.c2, r.records.c3].filter fun x =>
          decide (0 < x.demand ∧ x.circuit = C)) ∧
    channelGrant s.apu s.chans (s.chan c) =
      (if (own c).demand = 0 then 0
      else
        grantOf (if (own c).circuit = .a then s.apu.budgetA else s.apu.budgetB)
          (circuitRecords (own c).circuit s.chans s.apu.peers) (own c)) ∧
    channelGrant s.apu s.chans (s.chan c) ≤ (s.chan c).claim.announced

/-- R106: the three stages of the on-time of a SLOW period; it has no on-time and no off-time shorter than the minimum
switch time, and a higher level never has a shorter on-time. -/
def Obligations.SlowOnTimeKeepsMinimumSwitch : Prop :=
  ∀ (P M v w : Nat), 4 * M ≤ P → v ≤ w → w ≤ 100 →
    slowOnTime P M v =
      (if P * v / 100 < M then 0 else if P * v / 100 < P ∧ P - P * v / 100 < M then P - M else P * v / 100) ∧
    (slowOnTime P M v = 0 ∨ M ≤ slowOnTime P M v) ∧ slowOnTime P M v ≤ P ∧
    (slowOnTime P M v = P ∨ M ≤ P - slowOnTime P M v) ∧ slowOnTime P M v ≤ slowOnTime P M w

/-- R102: a cycle-start adds the level to the accumulator and decides the cycle, the accumulator stays in 0..99, and from
any accumulator 100 cycle-starts at a constant level v conduct exactly v times and leave the accumulator
where it was.  R103: the second half of a cycle is ON where the cycle was decided conducting and the level is above 0.
R101: these are the commands of a CYCLE channel's driver at a half-cycle, cycle-start or not.
R104: a driver starts afresh when its channel enters RUNNING from another state, and runs on otherwise. -/
def Obligations.CycleDriveConductsItsShare : Prop :=
  ∀ (d : Driver) (ch : Channel) (f : Option Frequency) (rising : Bool), d.accumulator ≤ 99 → d.level ≤ 100 →
    cycleCommand true d =
      (if 100 ≤ d.accumulator + d.level then
        { d with accumulator := d.accumulator + d.level - 100, conducting := true, output := true }
      else { d with accumulator := d.accumulator + d.level, conducting := false, output := false }) ∧
    cycleCommand false d =
      (if d.conducting = true ∧ 0 < d.level then { d with output := true }
      else { d with conducting := false, output := false }) ∧
    (∀ n : Nat, ((cycleCommand true)^[n] d).accumulator ≤ 99) ∧
    ((List.range 100).filter fun n => ((cycleCommand true)^[n + 1] d).conducting).length = d.level ∧
    ((cycleCommand true)^[100] d).accumulator = d.accumulator ∧
    (ch.cfg.kind = .cycle → driveCommand f rising { ch with driver := d } = cycleCommand rising d) ∧
    ch.enterRunning.chc = { ch.chc with state := .running } ∧
    ch.enterRunning.driver =
      (if ch.chc.state = .running then ch.driver
      else if ch.cfg.kind = .cycle then { ch.driver with accumulator := 0, conducting := false }
      else if ch.cfg.kind = .slow then { ch.driver with inPeriod := false, position := 0, onTime := 0 }
      else ch.driver)

/-- R27: a step that starts with N seconds expires on the (N × 2f)-th half-cycle that advances its timer and on none
before; R35: a delay likewise. -/
def Obligations.TimersCountWholeSeconds : Prop :=
  ∀ (f : Frequency) (p : Pgu) (N n : Nat), p.phase = 0 → 1 ≤ N → n < N * perSecond (some f) →
    (p.seconds = N →
      lastHalfCycle (some f) ((Pgu.countStep (some f))^[n] p).seconds ((Pgu.countStep (some f))^[n] p).phase =
        decide (n + 1 = N * perSecond (some f))) ∧
    (p.delay = N →
      lastHalfCycle (some f) ((Pgu.countDelay (some f))^[n] p).delay ((Pgu.countDelay (some f))^[n] p).phase =
        decide (n + 1 = N * perSecond (some f)))

/-- R3: within one half-cycle each unit takes its share once: a unit that has taken it is passed over, and after the
delivery every unit of the list has taken it.  A block takes its event whole, and no other share falls within it: R125,
R139, the ignition unit takes a half-cycle on all its burners in rising order, and a second event likewise, with the
return of the prescaler; R77, R79, the apportionment unit counts all its holds and its interval; R151, the gates and MR
are sampled together.  What comes after a burner's share, a purge's, a hold's or the interval's in its event leaves that
channel's controller, program, configuration and valve as they are.  R126, R28, R135, R139: a burner that becomes holder, is proven, or goes to PURGE
within a share has its first sample, step timer half-cycle, or second event at a later one. An accepted crossing in
TRACKING delivers the shares of all units one after another, in the order given and then in the fixed one (log entry
4), and empties the marks (log entry 2). A row that is one unit's share (a step expiry, a drive fault, a proof, a hold
that clears) is the event of that share and no other effect: where it takes the share, the crossing that follows leaves the state
that the crossing alone leaves with the unit first in its order, but for the model's note of an empty event queue (log
entry 19). -/
def Obligations.EachUnitTakesAHalfCycleOnce : Prop :=
  ∀ (rising : Bool) (us : List HalfCycleUnit) (u : HalfCycleUnit) (s t : State) (c d : Chan) (pins : InputPins)
    (i : Instr),
    (u ∈ s.taken → deliver rising u s = s) ∧
    (u ∈ us ∨ u ∈ s.taken → u ∈ (deliverAll rising us s).taken) ∧
    (.ignition c ∉ s.taken → .ignition d ∈ (deliver rising (.ignition c) s).taken) ∧
    (.purge c ∉ s.taken →
      .purge d ∈ (deliver rising (.purge c) s).taken ∧ .prescaler ∈ (deliver rising (.purge c) s).taken) ∧
    (.hold c ∉ s.taken →
      .hold d ∈ (deliver rising (.hold c) s).taken ∧ .interval ∈ (deliver rising (.hold c) s).taken) ∧
    (.interval ∉ s.taken → .hold d ∈ (deliver rising .interval s).taken) ∧
    (u ∉ s.taken → deliver rising u s = trail rising u (deliverOne rising u (lead rising u s))) ∧
    (u = .ignition c ∨ u = .purge c ∨ u = .hold c ∨ u = .interval →
      KeepsProgram c s (trail rising u s) ∧ ((trail rising u s).chan c).valve = (s.chan c).valve ∧
      s.rpu.events <+: (trail rising u s).rpu.events) ∧
    (.gates ∉ s.taken → .manualReset ∈ (deliver rising .gates s).taken) ∧
    (.manualReset ∉ s.taken → .gates ∈ (deliver rising .manualReset s).taken) ∧
    ((∀ v ∈ earlierShares u ++ companions u, v ∈ s.taken) → deliver rising u s = deliverOne rising u s) ∧
    (u ∉ s.taken →
      deliverOne rising u s =
        { unitShare rising u s with taken := u :: (begun s (unitShare rising u s) ++ s.taken) }) ∧
    (u ∉ s.taken → s.igu.holder ≠ some c → (deliverOne rising u s).igu.holder = some c →
      .ignition c ∈ (deliverOne rising u s).taken) ∧
    (u ∉ s.taken → (s.chan c).chc.state = .igniting → ((deliverOne rising u s).chan c).chc.state = .running →
      .program c ∈ (deliverOne rising u s).taken) ∧
    (u ∉ s.taken → (s.chan c).burner.phase ≠ .purge → ((deliverOne rising u s).chan c).burner.phase = .purge →
      .purge c ∈ (deliverOne rising u s).taken) ∧
    (s.held = false → s.clockTaken = false → s.mtb.sign = some (signOf (!rising)) → s.mtb.run = 3 →
      s.mtb.mode = .tracking → s.mtb.frequency.isSome = true →
      t =
        deliverAll rising (us ++ allUnits)
          { s with
            mtb := { s.mtb.tick with sign := some (signOf rising), run := 0, missingTimer := some 0 }
            pins := { (withInputs pins s).pins with zx := rising } } →
      exec (.acceptedCrossing pins us) s =
        .next
          { t with
            mtb := { t.mtb with spacing := 0 }, taken := [], sparkRead := none
            eventsNew := s.rpu.events.isEmpty }) ∧
    (s.mtb.sign.isSome = true → s.mtb.run = 3 → rowUnit pins s i = some u → exec i s = .next t → u ∉ s.taken →
      u ∈ t.taken →
      ∃ v w, exec (.acceptedCrossing pins (u :: us)) s = .next v ∧ exec (.acceptedCrossing pins us) t = .next w ∧
        v = { w with eventsNew := v.eventsNew })

/-- R165, R170 to R172: the frame of a command, read by a station that it matches, is that command: no bit of an
operand is lost.  An ADJUST whose codes are beyond the table is ADJUST_TIME_SET (the model's reading, log entry 8); the
straps and the turns of the events are no part of a frame. -/
def Obligations.FramesCarryTheirCommands : Prop :=
  ∀ (own : Address) (straps : BitVec 4) (i : Instr) (h : CmdHeader) (frame : List Byte),
    i.wellFormed = true → frameOfCommand i = some frame → commandHeader i = some h → addressMatches own h = true →
    commandOfFrame own (strapsOf straps i) (turnsOf i) frame = i

/-! ### The ZX clock -/

/-- R1, R5, R7: a sample that produces no accepted crossing moves the filter run, or sets the accepted sign from none after
four equal samples; the spacing, up to 121 (the cap is the model's choice, log entry 10), and the timers that run count the
sample, and nothing else changes, unless a timer reaches its limit with it: the missing-crossing timer, at 120 samples at 50 Hz and 100 at 60 Hz, makes the mains
absent report at that sample, and the ride-through timer, at 16,000, the mains failed report, with the turns of the
sample's operand `order` (log entry 20): all that the rows MAINS_ABSENT and MAINS_FAILED do at that instant, the sample taken
with it.  A sample whose instant one of those rows has taken ahead counts nothing again (its mark, log entry 2). -/
def Obligations.ZxSampleMovesTheFilter : Prop :=
  ∀ (s : State) (level : Bool) (order : List Chan) (m : Mtb) (n : Nat),
    s.held = false →
    (s.mtb.sign = some (signOf level) ∧ m = { s.mtb with run := 0 }) ∨
      (s.mtb.sign = some (signOf (!level)) ∧ s.mtb.run < 3 ∧ m = { s.mtb with run := s.mtb.run + 1 }) ∨
      (s.mtb.sign = none ∧ s.mtb.candidate = some (signOf level) ∧ s.mtb.run < 3 ∧
        m = { s.mtb with run := s.mtb.run + 1 }) ∨
      (s.mtb.sign = none ∧ s.mtb.candidate = some (signOf level) ∧ s.mtb.run = 3 ∧
        m = { s.mtb with sign := some (signOf level), candidate := none, run := 0 }) ∨
      (s.mtb.sign = none ∧ s.mtb.candidate ≠ some (signOf level) ∧
        m = { s.mtb with candidate := some (signOf level), run := 1 }) →
    (s.clockTaken = false →
      (s.mtb.mode = .tracking →
        (s.mtb.frequency = some .hz50 ∧ ∀ k ∈ s.mtb.missingTimer, k + 1 < 120) ∨
          (s.mtb.frequency = some .hz60 ∧ ∀ k ∈ s.mtb.missingTimer, k + 1 < 100)) →
      (s.mtb.mode = .missing → ∀ k ∈ s.mtb.rideTimer, k + 1 < 16000) →
      exec (.zxFilterSample level order) s =
        .next
          { s with
            mtb :=
              { m with
                spacing := min 121 (s.mtb.spacing + 1)
                missingTimer := s.mtb.missingTimer.map fun k => k + 1
                rideTimer := s.mtb.rideTimer.map fun k => k + 1 }
            pins := { s.pins with zx := level }
            eventsNew := s.rpu.events.isEmpty }) ∧
    (s.clockTaken = false → s.mtb.mode = .tracking → s.mtb.missingTimer = some n →
      (s.mtb.frequency = some .hz50 ∧ 120 ≤ n + 1) ∨ (s.mtb.frequency = some .hz60 ∧ 100 ≤ n + 1) →
      ∃ t, exec .mainsAbsent { s with mtb := m, pins := { s.pins with zx := level } } = .next t ∧
        t.mtb.mode = .missing ∧
        exec (.zxFilterSample level order) s = .next { t with clockTaken := false }) ∧
    (s.clockTaken = false → s.mtb.mode = .missing → s.mtb.rideTimer = some n → 16000 ≤ n + 1 →
      ∃ t, exec (.mainsFailed order) { s with mtb := m, pins := { s.pins with zx := level } } = .next t ∧
        t.mtb.mode = .measuring ∧
        exec (.zxFilterSample level order) s = .next { t with clockTaken := false }) ∧
    (s.clockTaken = true → s.mtb.missingTimer = none → (∀ k ∈ s.mtb.rideTimer, k < 16000) →
      exec (.zxFilterSample level order) s =
        .next
          { s with
            mtb := m, pins := { s.pins with zx := level }, clockTaken := false, eventsNew := s.rpu.events.isEmpty })

/-- R1, R3, R4, R27, R35, R77, R79, R101 to R103, R107, R113, R114, R117, R128 to R130, R133, R134, R140, R152, R153: the
fourth sample of the other sign produces an accepted crossing; in TRACKING it changes the accepted sign, restarts the
missing-crossing timer, and the prescaler and the interval counter count the half-cycle, unless they have taken it
already.  An ordinary one, which brings nothing to its end but a release of MR, in whatever order the units take it:
every unit that has still to take its share (its mark, log entry 2) counts it, and the state after it is given whole.
Step timers, delays, holds and filters count by one; each driver judges its sample and takes its command; each burner's
record moves as its phase says: in LINE_WAIT flame runs, quiet count, false flame and its timer, in SPARK the
accumulator, in PROVE the accumulator and the runs, on a supervised burner the runs and the blank run; the eighth released
sample in a row makes MR filtered INACTIVE; and nothing else changes.  A burner whose false flame is cleared at the very
half-cycle at which its timer would reach 20f goes on, with the timer at 0: that the clear comes first is the model's
reading (DEDUCED, log entry 13), and R129 to R131 give no order there.  A flame run that stands beyond a W_on or W_off
lowered by a CONFIGURE_BURNER, and a position beyond a SLOW period, have reached it: the model's reading (DEDUCED, log entry
11).  SPK_SENSE is read once for the half-cycle: a
reading that a row has taken ahead stands (its note, log entry 2). -/
def Obligations.CrossingInTracking : Prop :=
  ∀ (s : State) (pins : InputPins) (order : List HalfCycleUnit) (level : Bool) (f : Nat),
    s.held = false → s.clockTaken = false → s.mtb.sign = some (signOf (!level)) → s.mtb.run = 3 →
    s.mtb.mode = .tracking →
    (s.mtb.frequency = some .hz50 ∧ f = 50) ∨ (s.mtb.frequency = some .hz60 ∧ f = 60) →
    ∃ t, exec (.acceptedCrossing pins order) s = .next t ∧
      t.mtb =
        { s.mtb with
          sign := some (signOf level), run := 0, spacing := 0, missingTimer := some 0
          rideTimer := s.mtb.rideTimer.map fun n => n + 1
          prescaler :=
            if .prescaler ∈ s.taken then s.mtb.prescaler
            else if s.mtb.prescaler + 1 < 2 * f then s.mtb.prescaler + 1 else 0 } ∧
      t.apu.interval =
        (if .interval ∈ s.taken then s.apu.interval else if s.apu.interval < 49 then s.apu.interval + 1 else 0) ∧
      t.taken = [] ∧ t.sparkRead = none ∧
      t.pins = { s.pins with zx := level, inputs := { pins with spark := blankedAt pins s } } ∧
      t.pending = s.pending ∧
      (∀ c : Chan, (t.chan c).cfg = (s.chan c).cfg) ∧
      (Ordinary f pins s →
        t =
          { s with
            mtb := t.mtb, pins := t.pins, taken := [], sparkRead := none, eventsNew := s.rpu.events.isEmpty
            apu := { s.apu with interval := if .interval ∈ s.taken then s.apu.interval else s.apu.interval + 1 }
            gib :=
              { (if .manualReset ∈ s.taken then s.gib else countedButton pins.mr s.gib) with
                gates :=
                  if .gates ∈ s.taken then s.gib.gates
                  else .ofFn fun g => countedGate (pins.gates.get g) (s.gib.gates.get g) }
            chans :=
              .ofFn fun c =>
                { s.chan c with
                  pgu := if .program c ∈ s.taken then (s.chan c).pgu else countedProgram f (s.chan c)
                  driver :=
                    if .driver c ∈ s.taken then (s.chan c).driver
                    else countedDriver f level (pins.sense.get c) (s.chan c)
                  burner := if .ignition c ∈ s.taken then (s.chan c).burner else burnerAfter f pins s c
                  claim :=
                    if .hold c ∉ s.taken ∧ (s.chan c).claim.stage = .counting then
                      { (s.chan c).claim with count := (s.chan c).claim.count - 1 }
                    else (s.chan c).claim } })

/-- R1, R2: in MEASURING an accepted crossing is the window's first after a reset of the window or a spacing above 120,
and is counted with its spacing otherwise; a tenth that gives no frequency becomes the first of a new window, and one whose
nine spacings sum to 540..792 makes the frequency set report (FrequencySetStartsTracking).  R6, R7: in
MISSING a crossing at a wrong spacing, or the first, starts the return run at 1, a correctly spaced one (64 to 96 samples
at 50 Hz, 54 to 80 at 60 Hz) before the tenth counts, and the tenth restores the mains; a crossing before it at the sample
that brings the ride-through timer to 16,000 is taken first, and then the mains failed report is made, with the turns of
the program units in `order` (the model's operand, log entry 20); a return run in MISSING stays below 10
(TimeBaseSound). -/
def Obligations.CrossingOutsideTracking : Prop :=
  ∀ (s : State) (pins : InputPins) (order : List HalfCycleUnit) (level : Bool) (r n : Nat),
    s.held = false → s.clockTaken = false → s.mtb.sign = some (signOf (!level)) → s.mtb.run = 3 →
    (s.mtb.mode = .measuring →
      s.mtb.windowCount = 0 ∨ 120 < s.mtb.spacing + 1 ∨
        (s.mtb.windowCount = 9 ∧
          (s.mtb.windowSum + (s.mtb.spacing + 1) < 540 ∨ 792 < s.mtb.windowSum + (s.mtb.spacing + 1))) →
      exec (.acceptedCrossing pins order) s =
        .next
          { s with
            mtb :=
              { s.mtb.tick with
                sign := some (signOf level), run := 0, windowCount := 1, windowSum := 0, spacing := 0 }
            pins := { (withInputs pins s).pins with zx := level }
            eventsNew := s.rpu.events.isEmpty }) ∧
    (s.mtb.mode = .measuring → s.mtb.windowCount = 9 → s.mtb.spacing + 1 ≤ 120 →
      540 ≤ s.mtb.windowSum + (s.mtb.spacing + 1) → s.mtb.windowSum + (s.mtb.spacing + 1) ≤ 792 →
      exec (.acceptedCrossing pins order) s = exec .frequencySet (withInputs pins s)) ∧
    (s.mtb.mode = .measuring → 0 < s.mtb.windowCount → s.mtb.windowCount < 9 → s.mtb.spacing + 1 ≤ 120 →
      exec (.acceptedCrossing pins order) s =
        .next
          { s with
            mtb :=
              { s.mtb.tick with
                sign := some (signOf level), run := 0, windowCount := s.mtb.windowCount + 1
                windowSum := s.mtb.windowSum + (s.mtb.spacing + 1), spacing := 0 }
            pins := { (withInputs pins s).pins with zx := level }
            eventsNew := s.rpu.events.isEmpty }) ∧
    (s.mtb.mode = .missing → s.mtb.returnRun ≤ 9 →
      r =
        (if s.mtb.returnRun = 0 ∨
            ¬ ((s.mtb.frequency = some .hz50 ∧ 64 ≤ s.mtb.spacing + 1 ∧ s.mtb.spacing + 1 ≤ 96) ∨
              (s.mtb.frequency = some .hz60 ∧ 54 ≤ s.mtb.spacing + 1 ∧ s.mtb.spacing + 1 ≤ 80)) then 1
        else s.mtb.returnRun + 1) →
      (r = 10 → exec (.acceptedCrossing pins order) s = exec .mainsRestored (withInputs pins s)) ∧
      (r < 10 → (∀ k ∈ s.mtb.rideTimer, k + 1 < 16000) →
        exec (.acceptedCrossing pins order) s =
          .next
            { s with
              mtb := { s.mtb.tick with sign := some (signOf level), run := 0, returnRun := r, spacing := 0 }
              pins := { (withInputs pins s).pins with zx := level }
              eventsNew := s.rpu.events.isEmpty }) ∧
      (r < 10 → s.mtb.rideTimer = some n → 16000 ≤ n + 1 →
        ∃ t,
          exec (.mainsFailed (order.filterMap fun u => match u with | .program c => some c | _ => none))
              { s with
                mtb := { s.mtb with sign := some (signOf level), run := 0, returnRun := r }
                pins := { (withInputs pins s).pins with zx := level } } = .next t ∧
          t.mtb.mode = .measuring ∧
          exec (.acceptedCrossing pins order) s =
            .next { t with mtb := { t.mtb with spacing := 0 }, clockTaken := false }))

/-- R2, R9, R15, R79, R80, R81, R111: the tenth crossing of a window whose nine spacings sum to 648..792 sets f to 50,
and to 540..647 sets it to 60; the time base tracks, the station enters LISTEN or stays SAFE, a DEMAND request is made,
and the drive checks resume. -/
def Obligations.FrequencySetStartsTracking : Prop :=
  ∀ (s : State) (level : Bool) (f : Frequency),
    s.held = false → s.clockTaken = false → s.mtb.sign = some (signOf (!level)) → s.mtb.run = 3 →
    s.mtb.mode = .measuring → s.mtb.windowCount = 9 → s.mtb.spacing + 1 ≤ 120 →
    (f = .hz50 → 648 ≤ s.mtb.windowSum + (s.mtb.spacing + 1) ∧ s.mtb.windowSum + (s.mtb.spacing + 1) ≤ 792) →
    (f = .hz60 → 540 ≤ s.mtb.windowSum + (s.mtb.spacing + 1) ∧ s.mtb.windowSum + (s.mtb.spacing + 1) ≤ 647) →
    ∃ t, exec .frequencySet s = .next t ∧
      t.mtb.frequency = some f ∧ t.mtb.mode = .tracking ∧ t.mtb.prescaler = 0 ∧ t.mtb.missingTimer = some 0 ∧
      (s.ssv.station ≠ .safe → t.ssv.station = .listen ∧ t.ssv.listenCount = 0) ∧
      (s.ssv.station = .safe → t.ssv.station = .safe) ∧
      t.apu.request = true ∧ t.apu.interval = 0 ∧ t.apu.ownSendAge = 0 ∧
      (∀ c : Chan, (t.chan c).driver.suspended = false) ∧ KeepsPrograms s t ∧ KeepsLine s t ∧ t.rpu = s.rpu ∧
      t.igu = s.igu

/-- R5, R11, R15, R55, R111, R113, R127, R145: the missing-crossing timer expires, at 120 samples at 50 Hz and at 100 at
60 Hz; the row before that time changes nothing (the model's choice for a row whose event cannot arise, log entry 1).  At
it the time base misses crossings, the
station enters RIDE_THROUGH or stays SAFE, MAINS_ABSENT is raised, every channel with a program is PAUSED by MAINS with
the state it left as its resume target, valves of paused channels close, working drivers are OFF and unchecked, and a
relay that was ON has its settle count set to 4.  The ignition unit is emptied: no queue, no holder, SPK_EN released, and
a burner that was lit or igniting has no phase, no supervision and no flame runs. -/
def Obligations.MainsAbsentPausesTheStation : Prop :=
  ∀ (s : State) (c : Chan) (n : Nat),
    s.held = false → s.clockTaken = false → s.mtb.mode = .tracking → s.mtb.missingTimer = some n →
    (s.mtb.frequency = some .hz50 → missingExpired s.mtb.tick = decide (120 ≤ n + 1)) ∧
    (s.mtb.frequency = some .hz60 → missingExpired s.mtb.tick = decide (100 ≤ n + 1)) ∧
    (missingExpired s.mtb.tick = false → exec .mainsAbsent s = .next { s with eventsNew := s.rpu.events.isEmpty }) ∧
    ((s.mtb.frequency = some .hz50 → 120 ≤ n + 1) → (s.mtb.frequency = some .hz60 → 100 ≤ n + 1) →
    ∃ t, exec .mainsAbsent s = .next t ∧
      t.mtb.mode = .missing ∧ t.mtb.missingTimer = none ∧ t.mtb.rideTimer = some 0 ∧ t.mtb.returnRun = 0 ∧
      (s.ssv.station = .listen ∨ s.ssv.station = .active →
        t.ssv.station = .rideThrough ∧ t.ssv.prior = some s.ssv.station) ∧
      (s.ssv.station = .safe → t.ssv.station = .safe) ∧
      t.rpu = (raise { kind := .mainsAbsent, channel := none, slot := none, parameter := 0 } s).rpu ∧
      (t.chan c).chc =
        (match (s.chan c).chc.state with
        | .delayed | .running | .igniting =>
          { (s.chan c).chc with
            state := .paused, causes := ⟨false, true⟩, target := resumeTargetOf (s.chan c).chc.state }
        | .paused => { (s.chan c).chc with causes := { (s.chan c).chc.causes with mains := true } }
        | .idle | .lockout | .disabled => (s.chan c).chc) ∧
      (t.chan c).pgu = (s.chan c).pgu ∧
      ((s.chan c).chc.state = .running ∨ (s.chan c).chc.state = .igniting → (t.chan c).valve = 0) ∧
      (driverWorks (s.chan c) = true →
        (t.chan c).driver.output = false ∧ (t.chan c).driver.suspended = true ∧
        (t.chan c).driver.settle =
          (if (s.chan c).cfg.kind = .slow ∧ (s.chan c).driver.output = true then 4 else (s.chan c).driver.settle)) ∧
      (FuelSound s →
        t.igu = { queue := [], holder := none, spark := false } ∧
        ((s.chan c).chc.state = .running ∨ (s.chan c).chc.state = .igniting →
          (t.chan c).burner.phase = .none ∧ (t.chan c).burner.supervising = false ∧ (t.chan c).burner.onRun = 0 ∧
          (t.chan c).burner.offRun = 0 ∧ (t.chan c).burner.blankRun = 0) ∧
        ((s.chan c).chc.state = .igniting →
          (t.chan c).burner = { Burner.reset with allowed := (s.chan c).burner.allowed })) ∧
      (t.chan c).cfg = (s.chan c).cfg ∧ KeepsLine s t)

/-- R6, R12, R15, R54, R55: the tenth correctly spaced crossing (64 to 96 samples at 50 Hz, 54 to 80 at 60 Hz) returns the
time base to TRACKING and the station to
the state it left; MAINS_RESTORED carries the absence in tenths; MAINS leaves every PAUSED channel's causes, and a
channel with no cause left leaves PAUSED: an element that enters RUNNING with its driver afresh (R104), and the burners
that enter IGNITING join the ignition queue in rising order, the first as holder (R125, R126, R146). -/
def Obligations.MainsRestoredResumesTheStation : Prop :=
  ∀ (s : State) (c : Chan) (level : Bool) (n : Nat),
    s.held = false → s.clockTaken = false → s.mtb.sign = some (signOf (!level)) → s.mtb.run = 3 →
    s.mtb.mode = .missing → s.mtb.returnRun = 9 → s.mtb.rideTimer = some n →
    (s.mtb.frequency = some .hz50 ∧ 64 ≤ s.mtb.spacing + 1 ∧ s.mtb.spacing + 1 ≤ 96) ∨
      (s.mtb.frequency = some .hz60 ∧ 54 ≤ s.mtb.spacing + 1 ∧ s.mtb.spacing + 1 ≤ 80) →
    ∃ t, exec .mainsRestored s = .next t ∧
      t.mtb.mode = .tracking ∧ t.mtb.rideTimer = none ∧ t.mtb.missingTimer = some 0 ∧
      (s.ssv.station = .rideThrough → t.ssv.station = s.ssv.prior.getD .rideThrough ∧ t.ssv.prior = none) ∧
      (s.ssv.station = .safe → t.ssv.station = .safe) ∧
      t.rpu =
        (raise { kind := .mainsRestored, channel := none, slot := none, parameter := (n + 1) / 800 } s).rpu ∧
      ((s.chan c).chc.state ≠ .paused → (t.chan c).chc = (s.chan c).chc) ∧
      ((s.chan c).chc.state = .paused → (s.chan c).chc.causes.command = true →
        (t.chan c).chc = { (s.chan c).chc with causes := ⟨true, false⟩ }) ∧
      ((s.chan c).chc.state = .paused → (s.chan c).chc.causes.command = false →
        (t.chan c).chc =
          { (s.chan c).chc with
            causes := ⟨false, false⟩, target := none
            state :=
              if (s.chan c).chc.target = some .delayed then .delayed
              else if (s.chan c).cfg.kind = .burner ∧ 0 < (s.chan c).pgu.level then .igniting
              else .running }) ∧
      ((s.chan c).chc.state = .paused → (t.chan c).chc.state = .running →
        Afresh { (s.chan c).driver with suspended := false } (t.chan c)) ∧
      IgnitionFollows s t ∧
      (t.chan c).pgu = (s.chan c).pgu ∧ (t.chan c).driver.suspended = false ∧ (t.chan c).cfg = (s.chan c).cfg ∧
      KeepsLine s t

/-- R7, R13, R15, R33, R78, R84, R154: the ride-through timer reaches 16,000 samples; the time base measures again, the
station enters MAINS_WAIT or stays SAFE, the power-fail latch is set, every program ends with cause MAINS, its
PROGRAM_END queued in the turns `order` gives (the model's operand, log entry 20; R195 lets any order occur), every hold
is cleared and the peer table is emptied.  The filtered states of the gates and of MR hold, and every gate run and both MR
counts become 0 (R154); outside SAFE the LISTEN count, the interval counter and the own-send age become 0 and no state is
kept to return to (R13, R79, R81). -/
def Obligations.MainsFailedEndsPrograms : Prop :=
  ∀ (s : State) (c : Chan) (n : Nat) (order : List Chan),
    s.held = false → s.clockTaken = false → s.mtb.mode = .missing → s.mtb.rideTimer = some n → 16000 ≤ n + 1 →
    ∃ t, exec (.mainsFailed order) s = .next t ∧
      t.mtb.mode = .measuring ∧ t.mtb.frequency = none ∧ t.mtb.rideTimer = none ∧ t.mtb.windowCount = 0 ∧
      t.mtb.windowSum = 0 ∧ t.mtb.prescaler = 0 ∧
      (s.ssv.station ≠ .safe →
        t.ssv.station = .mainsWait ∧ t.apu.request = false ∧ t.ssv.listenCount = 0 ∧ t.ssv.prior = none ∧
        t.apu.interval = 0 ∧ t.apu.ownSendAge = 0) ∧
      t.gib =
        { s.gib with
          gates := .ofFn fun g => { s.gib.gates.get g with run := 0 }
          mrOn := 0, mrOff := 0 } ∧
      (s.ssv.station = .safe → t.ssv.station = .safe) ∧ t.ssv.powerFail = true ∧
      (∀ p : Address, (t.apu.peers[p.toNat]?).join = none) ∧
      ((s.chan c).chc.state.hasProgram = true →
        (t.chan c).chc = { state := .idle, causes := ⟨false, false⟩, target := none, endCause := .mains } ∧
        (t.chan c).pgu = (s.chan c).pgu.ended ∧ (t.chan c).valve = 0 ∧
        (s.rpu.events.length + 4 ≤ 8 →
          { kind := .programEnd, channel := some c, slot := (s.chan c).pgu.current, parameter := 4 } ∈ t.rpu.events)) ∧
      ((s.chan c).chc.state.hasProgram = false → KeepsProgram c s t) ∧
      s.rpu.events <+: t.rpu.events ∧
      (s.rpu.events.length + 4 ≤ 8 →
        t.rpu.events =
          s.rpu.events ++
            inTurn order
              ((([0, 1, 2, 3] : List Chan).filter fun x => (s.chan x).chc.state.hasProgram).map fun x =>
                { kind := .programEnd, channel := some x, slot := (s.chan x).pgu.current, parameter := 4 })) ∧
      (t.chan c).claim.stage = .clear ∧
      (t.chan c).claim.settled = (t.chan c).claim.announced ∧
      (t.chan c).cfg = (s.chan c).cfg ∧ KeepsLine s t

/-- R4, R125, R126, R139: the prescaler reaches 2f and returns to 0, and every purge count goes down by 1; a count that
reaches 0 sends its burner back to the tail of the queue with its attempt number raised by 1, several in rising order,
and with the unit free and nobody waiting the first becomes holder at once, with its first sample at a later half-cycle;
no program moves.  A purge that began within the same half-cycle is not counted.  PURGE_END is the same second event, which
reaches its burner after the lower ones (R125), and after it the higher ones and the prescaler. -/
def Obligations.SecondEventCountsPurges : Prop :=
  ∀ (s₀ s : State) (c : Chan) (ended : List Chan),
    ended =
      ([0, 1, 2, 3].filter fun d =>
        decide ((s.chan d).burner.phase = .purge ∧ (s.chan d).burner.purge ≤ 1 ∧ .purge d ∉ s.taken)) →
    Shares .prescaler s → s.mtb.prescaler + 1 = perSecond s.mtb.frequency →
    (∃ t, exec .secondEvent s = .next t ∧ t.mtb = { s.mtb with prescaler := 0 } ∧ .prescaler ∈ t.taken ∧
      ((s.chan c).burner.phase = .purge → 1 < (s.chan c).burner.purge → c ∉ s.igu.queue → .purge c ∉ s.taken →
        (t.chan c).burner = { (s.chan c).burner with purge := (s.chan c).burner.purge - 1 }) ∧
      ((s.chan c).burner.phase = .purge → c ∉ s.igu.queue → .purge c ∈ s.taken →
        (t.chan c).burner = (s.chan c).burner) ∧
      ((s.chan c).burner.phase ≠ .purge → c ∉ s.igu.queue ∨ s.igu.holder.isSome = true →
        (t.chan c).burner = (s.chan c).burner) ∧
      (s.igu.holder.isSome = true →
        t.igu = { s.igu with queue := s.igu.queue ++ ended } ∧
        (c ∈ ended →
          (t.chan c).burner =
            { (s.chan c).burner with phase := .queued, purge := 0, attempt := (s.chan c).burner.attempt + 1 })) ∧
      (s.igu.holder = none → s.igu.queue = [] →
        t.igu = { s.igu with queue := ended.tail, holder := ended.head? } ∧
        (ended.head? = some c →
          .ignition c ∈ t.taken ∧
          (t.chan c).burner =
            { (s.chan c).burner with
              phase := .lineWait, quiet := 0, purge := 0, attempt := (s.chan c).burner.attempt + 1 }) ∧
        (c ∈ ended.tail →
          (t.chan c).burner =
            { (s.chan c).burner with phase := .queued, purge := 0, attempt := (s.chan c).burner.attempt + 1 })) ∧
      (t.chan c).claim = (s.chan c).claim ∧ (t.chan c).driver = (s.chan c).driver ∧
      (t.chan c).valve = (s.chan c).valve ∧ KeepsPrograms s t ∧ KeepsLine s t ∧ t.rpu = s.rpu ∧ t.apu = s.apu ∧
      t.ssv = s.ssv ∧ t.gib = s.gib) ∧
    (LeadsTo (.purge c) s₀ s → (s.chan c).burner.phase = .purge → (s.chan c).burner.purge = 1 →
      ∃ t, exec (.purgeEnd c) s₀ = .next (trail (comingRising s₀) (.purge c) t) ∧
        (trail (comingRising s₀) (.purge c) t).mtb = { s.mtb with prescaler := 0 } ∧
        (t.chan c).burner.attempt = (s.chan c).burner.attempt + 1 ∧
        (t.chan c).burner.purge = 0 ∧ (t.chan c).burner.allowed = (s.chan c).burner.allowed ∧
        (s.igu.holder.isSome = true →
          (t.chan c).burner.phase = .queued ∧ t.igu = { s.igu with queue := s.igu.queue ++ [c] }) ∧
        (s.igu.holder = none → s.igu.queue = [] →
          (t.chan c).burner.phase = .lineWait ∧ (t.chan c).burner.quiet = 0 ∧
          t.igu = { s.igu with queue := [], holder := some c }) ∧
        (t.chan c).valve = (s.chan c).valve ∧ t.mtb = s.mtb ∧ KeepsPrograms s t ∧ KeepsLine s t ∧ t.rpu = s.rpu ∧
        t.apu = s.apu)

/-! ### Demand intervals and holds -/

/-- R17, R79, R80, R81, R83: the interval event ages the peer rows and removes those that reach 4, advances the own-send
age to at most 2, makes a DEMAND request, and counts the listen and clash-quiet counts; no program moves.  R77: the holds
take the half-cycle in the same event of the unit, after the interval in this row (the model's order, log entry 4), and
leave all that the interval event has done but the claims as they are. -/
def Obligations.IntervalEventAgesAndRequests : Prop :=
  ∀ (s : State) (p : Address),
    Shares .interval s → s.apu.interval = 49 → s.apu.peers.length = 16 →
    ∃ t, exec .intervalEvent s = .next (trail (comingRising s) .interval t) ∧
      ((trail (comingRising s) .interval t).apu.peers = t.apu.peers ∧
        (trail (comingRising s) .interval t).apu.interval = t.apu.interval ∧
        (trail (comingRising s) .interval t).apu.ownSendAge = t.apu.ownSendAge ∧
        (t.apu.request = true → (trail (comingRising s) .interval t).apu.request = true) ∧
        (trail (comingRising s) .interval t).ssv = t.ssv ∧ KeepsPrograms t (trail (comingRising s) .interval t) ∧
        KeepsLine t (trail (comingRising s) .interval t) ∧ (trail (comingRising s) .interval t).rpu = t.rpu ∧
        (trail (comingRising s) .interval t).igu = t.igu) ∧
      t.apu.interval = 0 ∧
      (t.apu.peers[p.toNat]?).join =
        (match (s.apu.peers[p.toNat]?).join with
        | none => none
        | some r => if r.age + 1 < 4 then some { r with age := r.age + 1 } else none) ∧
      t.apu.ownSendAge = min 2 (s.apu.ownSendAge + 1) ∧ (s.ssv.station ≠ .mainsWait → t.apu.request = true) ∧
      t.ssv.clashQuiet = min 4 (s.ssv.clashQuiet + 1) ∧
      t.ssv.station = (if s.ssv.station = .listen ∧ 2 ≤ s.ssv.listenCount then .active else s.ssv.station) ∧
      (s.ssv.station = .listen → s.ssv.listenCount < 2 → t.ssv.listenCount = s.ssv.listenCount + 1) ∧
      KeepsPrograms s t ∧ KeepsLine s t ∧ t.rpu = s.rpu ∧ t.igu = s.igu ∧ t.mtb = s.mtb ∧ t.gib = s.gib

/-- R10, R81, R83, R89: at the interval event the third of LISTEN takes the station to ACTIVE, a peer row that reaches
age 4 becomes EMPTY and the other rows age, and an own-send age that reaches 2 starves the station: every element
ceiling is 0.  Each of the three rows is the interval event, whole, where it has that outcome (log entry 2). -/
def Obligations.IntervalThresholds : Prop :=
  ∀ (s : State) (p : Address) (r : PeerRow) (c : Chan),
    Shares .interval s → s.apu.interval = 49 →
    (s.ssv.station = .listen → s.ssv.listenCount = 2 →
      exec .stationActive s = exec .intervalEvent s ∧
      ∃ t, exec .stationActive s = .next (trail (comingRising s) .interval t) ∧ t.ssv.station = .active ∧
        t.ssv.listenCount = 3 ∧ t.ssv.clashQuiet = min 4 (s.ssv.clashQuiet + 1) ∧
        (t.chan c).claim.target =
          (if (s.chan c).cfg.kind.isElement ∧ (s.chan c).chc.state = .running ∧ ¬ (s.chan c).gated then
            (s.chan c).pgu.level
          else 0) ∧
        KeepsPrograms s t ∧ KeepsLine s t ∧ t.rpu = s.rpu ∧ t.igu = s.igu ∧ t.mtb = s.mtb) ∧
    (s.apu.peers.length = 16 → (s.apu.peers[p.toNat]?).join = some r → r.age = 3 →
      exec (.peerRowRemoved p) s = exec .intervalEvent s ∧
      ∃ t, exec (.peerRowRemoved p) s = .next t ∧ t.apu.peers = s.apu.peers.map agedRow ∧
        (t.apu.peers[p.toNat]?).join = none ∧ t.apu.interval = 0 ∧ KeepsPrograms s t ∧ KeepsLine s t ∧
        t.rpu = s.rpu) ∧
    (s.apu.ownSendAge = 1 →
      exec .starvationBegin s = exec .intervalEvent s ∧
      ∃ t, exec .starvationBegin s = .next t ∧ t.apu.ownSendAge = 2 ∧ starved t = true ∧
        (t.chan c).claim.ceiling = 0 ∧ KeepsPrograms s t ∧ KeepsLine s t ∧ t.rpu = s.rpu)

/-- R77: in COUNTING a half-cycle takes 1 from the count, and a COUNTING hold whose count reaches 0 becomes CLEAR with
the settled demand equal to the announced demand; the other holds and the interval count in the same event of the unit,
after it in this row (the model's order, log entry 4).  R69 to R74, R86 to R89: a recomputation announces what each channel
needs; a lowering lowers the settled demand at once, a raise starts a hold with its mark clear and makes a request, and
the ceiling is the smaller of what the grant and the settled demand pay for, 0 while it is barred.  R100, R108, R109: the
driver takes the new ceiling, or 0 where the channel is not RUNNING or is gated: the drive level of a CYCLE channel is that
at once; that of a SLOW channel follows a fall at once, with the on-time of the lower level, and waits with a rise for the
next period start; everything else a driver holds stays. -/
def Obligations.RaiseHoldClearsAfterItsCount : Prop :=
  ∀ (s : State) (c : Chan),
    (Shares (.hold c) s → (s.chan c).claim.stage = .counting → (s.chan c).claim.count = 1 →
      neededDemand s.ssv.station (s.chan c) = (s.chan c).claim.announced →
      ∃ t, exec (.raiseHoldClear c) s = .next (trail (comingRising s) (.hold c) t) ∧ (t.chan c).claim.stage = .clear ∧
        (t.chan c).claim.count = 0 ∧ (t.chan c).claim.settled = (s.chan c).claim.announced ∧
        (t.chan c).claim.announced = (s.chan c).claim.announced ∧ KeepsPrograms s t ∧ KeepsLine s t ∧
        t.rpu = s.rpu ∧ t.ssv = s.ssv) ∧
    ((s.chan c).claim.stage = .counting → 1 < (s.chan c).claim.count →
      holdShare c s =
        s.setChan c
          { s.chan c with claim := { (s.chan c).claim with count := (s.chan c).claim.count - 1 } }) ∧
    ((s.chan c).claim.stage ≠ .counting → holdShare c s = s) ∧
    ∃ (t : State) (target n limit : Nat), t = recompute s ∧
      target =
        (if (s.chan c).cfg.kind.isElement = true ∧ (s.chan c).chc.state = .running ∧ (s.chan c).gated = false ∧
            s.ssv.station = .active then (s.chan c).pgu.level
        else 0) ∧
      n =
        (if (s.chan c).driver.uncontrolled = true then (s.chan c).cfg.load
        else if (s.chan c).cfg.kind.isElement = true then ((s.chan c).cfg.load * target + 99) / 100 else 0) ∧
      (t.chan c).claim =
        { target := target
          needed := n
          announced := n
          stage := if (s.chan c).claim.announced < n then .pendingSend else (s.chan c).claim.stage
          carried := if (s.chan c).claim.announced < n then false else (s.chan c).claim.carried
          count := if (s.chan c).claim.announced < n then 0 else (s.chan c).claim.count
          settled :=
            if n < (s.chan c).claim.announced then min (s.chan c).claim.settled n else (s.chan c).claim.settled
          grant := channelGrant t.apu t.chans (t.chan c)
          paid := min target (channelGrant t.apu t.chans (t.chan c) * 100 / (s.chan c).cfg.load)
          ceiling :=
            if s.ssv.station ≠ .active ∨ s.apu.ownSendAge = 2 ∨ s.ssv.clash = true then 0
            else min (t.chan c).claim.paid ((t.chan c).claim.settled * 100 / (s.chan c).cfg.load) } ∧
      limit = (if (s.chan c).chc.state = .running ∧ (s.chan c).gated = false then (t.chan c).claim.ceiling else 0) ∧
      (t.chan c).driver =
        (if (s.chan c).chc.state = .lockout then (s.chan c).driver
        else if (s.chan c).cfg.kind = .cycle then { (s.chan c).driver with level := limit }
        else if (s.chan c).cfg.kind = .slow ∧ (s.chan c).chc.state ≠ .running then
          { (s.chan c).driver with level := 0 }
        else if (s.chan c).cfg.kind = .slow ∧ limit < (s.chan c).driver.level then
          { (s.chan c).driver with
            level := limit
            onTime :=
              slowOnTime ((s.chan c).cfg.period * perSecond s.mtb.frequency)
                ((s.chan c).cfg.minSwitch * perSecond s.mtb.frequency) limit }
        else (s.chan c).driver) ∧
      (t.chan c).burner = (s.chan c).burner ∧ (t.chan c).valve = (s.chan c).valve ∧
      (t.chan c).gated = (s.chan c).gated ∧ t.mtb = s.mtb ∧
      ((s.chan c).claim.announced < n → s.ssv.station ≠ .mainsWait → t.apu.request = true) ∧
      ((∀ d : Chan, neededDemand s.ssv.station (s.chan d) ≤ (s.chan d).claim.announced) → t.apu = s.apu) ∧
      KeepsPrograms s t ∧ KeepsLine s t ∧ t.rpu = s.rpu ∧ t.ssv = s.ssv ∧ t.igu = s.igu ∧ t.gib = s.gib

/-! ### Half-cycles on programs -/

/-- R27, R29 to R31, R33: at its last half-cycle a step raises STEP_END; one whose end action is END, or NEXT with no
step in the slot after it, ends the program COMPLETED, with PROGRAM_END and the channel IDLE; one whose end action is
HOLD stays current, holding, with its level and its channel state as they were. -/
def Obligations.StepExpiryCompletesOrHolds : Prop :=
  ∀ (s : State) (c : Chan) (n : Slot) (r : StepRecord),
    Shares (.program c) s → stepTimerRuns (s.chan c) = true → (s.chan c).pgu.seconds = 1 →
    (s.chan c).pgu.phase + 1 = perSecond s.mtb.frequency → (s.chan c).pgu.current = some n →
    (s.chan c).pgu.slotAt n = some r →
    (r.endAction = .finish ∨ (r.endAction = .next ∧ (s.chan c).pgu.following n = none) →
      ∃ t, exec (.stepExpiry c) s = .next t ∧
        (t.chan c).chc = { state := .idle, causes := ⟨false, false⟩, target := none, endCause := .completed } ∧
        (t.chan c).pgu =
          { (s.chan c).pgu with
            current := none, timing := .opened, seconds := 0, phase := 0, holding := false, delay := 0 } ∧
        t.rpu =
          (raise { kind := .programEnd, channel := some c, slot := some n, parameter := 1 }
            (raise { kind := .stepEnd, channel := some c, slot := some n, parameter := r.endAction.code } s)).rpu ∧
        (t.chan c).valve = 0 ∧ (t.chan c).cfg = (s.chan c).cfg ∧ KeepsOthers c s t ∧ KeepsLine s t ∧
        KeepsInputsAndPeers s t ∧ t.mtb = s.mtb ∧
        t.ssv = s.ssv) ∧
    (r.endAction = .hold →
      ∃ t, exec (.stepExpiry c) s = .next t ∧
        (t.chan c).pgu = { (s.chan c).pgu with seconds := 0, phase := 0, holding := true, timing := .timed } ∧
        (t.chan c).chc = (s.chan c).chc ∧ (t.chan c).valve = (s.chan c).valve ∧
        (t.chan c).burner = (s.chan c).burner ∧
        t.rpu = (raise { kind := .stepEnd, channel := some c, slot := some n, parameter := 2 } s).rpu ∧
        (t.chan c).cfg = (s.chan c).cfg ∧ KeepsOthers c s t ∧ KeepsLine s t ∧ KeepsInputsAndPeers s t ∧ t.mtb = s.mtb ∧
        t.ssv = s.ssv)

/-- R25, R26, R27, R29: a step with end action NEXT and a step in the following slot raises STEP_END, and the following
slot starts within the same half-cycle: it is the current slot, TIMED with the seconds of its record or OPEN with 0, at
phase 0, not holding, with no delay left; an element and a lit burner stay RUNNING, a burner that goes from rest to a lit
position enters IGNITING, at the tail of the ignition queue, or as the holder where the unit is free (R125, R126). -/
def Obligations.StepExpiryStartsNextSlot : Prop :=
  ∀ (s : State) (c : Chan) (n m : Slot) (r : StepRecord),
    Shares (.program c) s → stepTimerRuns (s.chan c) = true → (s.chan c).pgu.seconds = 1 →
    (s.chan c).pgu.phase + 1 = perSecond s.mtb.frequency → (s.chan c).pgu.current = some n →
    (s.chan c).pgu.slotAt n = some r → r.endAction = .next → n ≠ 7 → m = n + 1 →
    ((s.chan c).pgu.slotAt m).isSome = true →
    ∃ t, exec (.stepExpiry c) s = .next t ∧
      (t.chan c).pgu =
        { slots := (s.chan c).pgu.slots
          pointer := (s.chan c).pgu.pointer
          current := some m
          timing := if (((s.chan c).pgu.slotAt m).bind StepRecord.duration).isSome = true then .timed else .opened
          seconds := (((s.chan c).pgu.slotAt m).bind StepRecord.duration).getD 0
          phase := 0
          holding := false
          delay := 0 } ∧
      t.rpu = (raise { kind := .stepEnd, channel := some c, slot := some n, parameter := 0 } s).rpu ∧
      ((s.chan c).cfg.kind ≠ .burner → (t.chan c).chc = (s.chan c).chc) ∧
      ((s.chan c).cfg.kind = .burner → levelAt (s.chan c) m = 0 →
        (t.chan c).chc = (s.chan c).chc ∧ (t.chan c).valve = 0 ∧ (t.chan c).burner.supervising = false) ∧
      ((s.chan c).cfg.kind = .burner → 0 < levelAt (s.chan c) m → 0 < levelAt (s.chan c) n →
        (t.chan c).chc = (s.chan c).chc ∧ (t.chan c).valve = levelAt (s.chan c) m ∧
        (t.chan c).burner = (s.chan c).burner) ∧
      ((s.chan c).cfg.kind = .burner → 0 < levelAt (s.chan c) m → levelAt (s.chan c) n = 0 →
        (t.chan c).chc = { (s.chan c).chc with state := .igniting } ∧ (t.chan c).burner.attempt = 1 ∧
        (t.chan c).burner.allowed = (s.chan c).cfg.params.attempts) ∧
      IgnitionFollows s t ∧
      (t.chan c).cfg = (s.chan c).cfg ∧ KeepsOthers c s t ∧ KeepsLine s t ∧ KeepsInputsAndPeers s t ∧ t.mtb = s.mtb ∧
      t.ssv = s.ssv

/-- R25, R26, R35, R104: a delay ends at its last half-cycle: DELAY_END is raised for the start slot, which starts; an
element and a burner at position 0 enter RUNNING, a burner at a lit position enters IGNITING, at the tail of the ignition
queue with the configured attempts, or as the holder where the unit is free (R125, R126); an element's driver starts
afresh. -/
def Obligations.DelayEndStartsTheProgram : Prop :=
  ∀ (s : State) (c : Chan) (n : Slot),
    Shares (.program c) s → (s.chan c).chc.state = .delayed → (s.chan c).pgu.delay = 1 →
    (s.chan c).pgu.phase + 1 = perSecond s.mtb.frequency → (s.chan c).pgu.current = some n →
    ∃ t, exec (.delayEnd c) s = .next t ∧ (t.chan c).pgu = startedProgram (s.chan c).pgu n ∧
      (t.chan c).chc =
        { (s.chan c).chc with
          state := if (s.chan c).cfg.kind = .burner ∧ 0 < levelAt (s.chan c) n then .igniting else .running } ∧
      t.rpu = (raise { kind := .delayEnd, channel := some c, slot := some n, parameter := 0 } s).rpu ∧
      Afresh (s.chan c).driver (t.chan c) ∧ IgnitionFollows s t ∧
      (t.chan c).cfg = (s.chan c).cfg ∧ KeepsOthers c s t ∧ KeepsLine s t ∧ KeepsInputsAndPeers s t ∧ t.mtb = s.mtb ∧
      t.ssv = s.ssv

/-! ### Half-cycles on element drivers -/

/-- R106, R107, R113: a SLOW period starts at the first half-cycle, or when the position reaches P: q is 0, v the ceiling
then in force (0 while gated), u follows from v, and the output is ON where u is above 0; when the position reaches u the
output goes OFF for the rest of the period; a change of the command sets the settle count to 4.  A position that
stands beyond P has reached it: the model's reading (DEDUCED, log entry 11). -/
def Obligations.SlowPeriodStartsAndEndsItsPulse : Prop :=
  ∀ (s : State) (c : Chan) (pins : InputPins),
    Shares (.driver c) s → (s.chan c).cfg.kind = .slow → (s.chan c).chc.state = .running →
    (driverSample (withInputs pins s) c).2 = .nothing →
    ((s.chan c).driver.inPeriod = false ∨
        slowPeriod s.mtb.frequency (s.chan c).cfg ≤ (s.chan c).driver.position + 1 →
      ∃ t, exec (.slowPeriodStart c pins) s = .next t ∧ (t.chan c).driver.inPeriod = true ∧
        (t.chan c).driver.position = 0 ∧
        (t.chan c).driver.level = (if (s.chan c).gated then 0 else (s.chan c).claim.ceiling) ∧
        (t.chan c).driver.onTime =
          slowOnTime (slowPeriod s.mtb.frequency (s.chan c).cfg) (slowMinSwitch s.mtb.frequency (s.chan c).cfg)
            (t.chan c).driver.level ∧
        ((t.chan c).driver.output = true ↔ 0 < (t.chan c).driver.onTime) ∧
        ((t.chan c).driver.output ≠ (s.chan c).driver.output → (t.chan c).driver.settle = 4) ∧
        (t.chan c).claim = (s.chan c).claim ∧ (t.chan c).burner = (s.chan c).burner ∧ KeepsPrograms s t ∧
        KeepsLine s t ∧ KeepsInputsAndPeers s t ∧ t.rpu = s.rpu ∧ t.mtb = s.mtb ∧ t.ssv = s.ssv ∧ t.igu = s.igu ∧
        t.apu = s.apu) ∧
    ((s.chan c).driver.inPeriod = true →
      (s.chan c).driver.output = true →
      (s.chan c).driver.position + 1 < slowPeriod s.mtb.frequency (s.chan c).cfg →
      (s.chan c).driver.onTime = (s.chan c).driver.position + 1 →
      ∃ t, exec (.slowOnTimeEnd c pins) s = .next t ∧ (t.chan c).driver.output = false ∧
        (t.chan c).driver.settle = 4 ∧ (t.chan c).driver.position = (s.chan c).driver.position + 1 ∧
        (t.chan c).driver.onTime = (s.chan c).driver.onTime ∧ (t.chan c).driver.level = (s.chan c).driver.level ∧
        (t.chan c).claim = (s.chan c).claim ∧ KeepsPrograms s t ∧ KeepsLine s t ∧ KeepsInputsAndPeers s t ∧
        t.rpu = s.rpu ∧ t.mtb = s.mtb ∧
        t.ssv = s.ssv ∧ t.igu = s.igu ∧ t.apu = s.apu)

/-- R61, R114, R115: the sixth judged sample in a row without conduction while commanded ON reports STUCK_OFF:
DRIVE_FAULT is raised, the channel is DISABLED with end cause DRIVE, a program it had ends, and its output goes OFF;
the station state does not change.  R117: the sixth without conduction while the uncontrolled status is set clears the
status, and a channel that is not RUNNING then announces 0. -/
def Obligations.SilentElementIsReportedOrCleared : Prop :=
  ∀ (s : State) (c : Chan) (pins : InputPins),
    Shares (.driver c) s → driverWorks (s.chan c) = true → (s.chan c).driver.suspended = false →
    ((s.chan c).cfg.kind = .slow → (s.chan c).driver.settle = 0) → pins.sense.get c = false →
    ((s.chan c).driver.uncontrolled = false →
      (s.chan c).driver.output = true → (s.chan c).driver.onMismatch = 5 →
      (s.chan c).driver.accumulator ≤ 99 →
      ∃ t, exec (.stuckOff c pins) s = .next t ∧ (t.chan c).chc.state = .disabled ∧
        (t.chan c).driver.output = false ∧ (t.chan c).driver.onMismatch = 0 ∧
        (t.chan c).driver.uncontrolled = false ∧
        ((s.chan c).chc.state.hasProgram = true →
          (t.chan c).chc = { state := .disabled, causes := ⟨false, false⟩, target := none, endCause := .drive } ∧
          (t.chan c).pgu = (s.chan c).pgu.ended ∧
          t.rpu =
            (raise { kind := .programEnd, channel := some c, slot := (s.chan c).pgu.current, parameter := 5 }
              (raise { kind := .driveFault, channel := some c, slot := (s.chan c).pgu.current, parameter := 0 }
                s)).rpu) ∧
        ((s.chan c).chc.state = .idle →
          (t.chan c).chc = { (s.chan c).chc with state := .disabled, endCause := .drive } ∧
          t.rpu =
            (raise { kind := .driveFault, channel := some c, slot := (s.chan c).pgu.current, parameter := 0 } s).rpu) ∧
        (t.chan c).cfg = (s.chan c).cfg ∧ KeepsOthers c s t ∧ KeepsLine s t ∧ KeepsInputsAndPeers s t ∧ t.mtb = s.mtb ∧
        t.ssv = s.ssv) ∧
    ((s.chan c).driver.uncontrolled = true →
      (s.chan c).driver.clearCount = 5 →
      ∃ t, exec (.uncontrolledCleared c pins) s = .next t ∧ (t.chan c).driver.uncontrolled = false ∧
        (t.chan c).driver.clearCount = 0 ∧ (t.chan c).driver.offMismatch = 0 ∧
        ((s.chan c).chc.state ≠ .running → (t.chan c).claim.announced = 0) ∧ KeepsPrograms s t ∧ KeepsLine s t ∧
        KeepsInputsAndPeers s t ∧
        t.rpu = s.rpu ∧ t.mtb = s.mtb ∧ t.ssv = s.ssv)

/-- R14, R61, R71, R116, R118: the sixth judged sample in a row with conduction while commanded OFF reports STUCK_ON, for
the first time or again: the channel is DISABLED and its load is announced as uncontrolled, the station enters SAFE and
releases SR unless it is SAFE, the other elements' programs end with cause SAFE, and a DEMAND request is made.  R193: the
records are DRIVE_FAULT, the PROGRAM_END with cause DRIVE of a program the channel had, and then those with cause SAFE of
the others in rising channel order, and nothing else. -/
def Obligations.StuckOnTakesTheStationToSafe : Prop :=
  ∀ (s : State) (i : Instr) (c d : Chan) (pins : InputPins),
    Shares (.driver c) s → driverWorks (s.chan c) = true → (s.chan c).driver.suspended = false →
    ((s.chan c).cfg.kind = .slow → (s.chan c).driver.settle = 0) → (s.chan c).driver.uncontrolled = false →
    (s.chan c).driver.output = false → pins.sense.get c = true → (s.chan c).driver.offMismatch = 5 →
    (s.chan c).driver.accumulator ≤ 99 →
    (i = .stuckOn c pins ∧ (s.chan c).chc.state ≠ .disabled) ∨
      (i = .stuckOnRepeat c pins ∧ (s.chan c).chc.state = .disabled) →
    ∃ t, exec i s = .next t ∧
      (t.chan c).chc.state = .disabled ∧ (t.chan c).driver.uncontrolled = true ∧
      (t.chan c).driver.clearCount = 0 ∧ (t.chan c).driver.output = false ∧
      (t.chan c).claim.announced = (s.chan c).cfg.load ∧ ownClass (t.chan c) = 0 ∧ t.ssv.station = .safe ∧
      (s.ssv.station ≠ .safe → t.ssv.relay = false) ∧ t.apu.request = true ∧
      ((s.chan c).chc.state ≠ .disabled → (t.chan c).chc.endCause = .drive) ∧
      ((s.chan c).chc.state = .disabled → (t.chan c).chc = (s.chan c).chc) ∧
      t.rpu =
        (({ kind := .driveFault, channel := some c, slot := (s.chan c).pgu.current, parameter := 1 } ::
            ((([c] : List Chan).filter fun x => (s.chan x).chc.state.hasProgram).map fun x =>
              ({ kind := .programEnd, channel := some x, slot := (s.chan x).pgu.current, parameter := 5 } :
                EventRecord)) ++
            ((([0, 1, 2, 3] : List Chan).filter fun x =>
                decide (x ≠ c ∧ s.ssv.station ≠ .safe) && (s.chan x).cfg.kind.isElement &&
                  (s.chan x).chc.state.hasProgram).map fun x =>
              ({ kind := .programEnd, channel := some x, slot := (s.chan x).pgu.current, parameter := 6 } :
                EventRecord))).foldl (fun u e => raise e u) s).rpu ∧
      (d ≠ c → s.ssv.station ≠ .safe → (s.chan d).cfg.kind.isElement = true →
        (s.chan d).chc.state.hasProgram = true →
        (t.chan d).chc = { state := .idle, causes := ⟨false, false⟩, target := none, endCause := .safe }) ∧
      (d ≠ c → (s.chan d).cfg.kind.isElement = false → KeepsProgram d s t) ∧ t.mtb = s.mtb ∧ KeepsLine s t ∧
      KeepsInputsAndPeers s t

/-! ### Half-cycles on burners -/

/-- R122 to R124, R128 to R130, R132, R133: the holder in LINE_WAIT whose quiet count reaches f with false flame clear
enters SPARK: the valve opens at the ignition position, SPK_EN is asserted, accumulator and runs are 0, and S and T are
read; when the accumulator reaches S, SPK_EN is released, the valve stays open, and the holder enters PROVE.  R128: a
sample reads SPK_SENSE once for the station (its note, log entry 2); a burner in SPARK takes none.  The lower burners take
the same event before it, and the higher ones after it (R125); a SPARK_END without its operand reads the levels that stand
(the model's operand, log entry 2). -/
def Obligations.SparkStartsAndEnds : Prop :=
  ∀ (s₀ s : State) (c : Chan) (pins : InputPins),
    (LeadsTo (.ignition c) (withInputs pins s₀) s → (s.chan c).cfg.kind = .burner →
      (s.chan c).burner.phase = .lineWait →
      (s.chan c).burner.falseFlame = false → (levelsRead pins s₀).spark = false →
      hertz s.mtb.frequency = (s.chan c).burner.quiet + 1 →
      ¬ ((s.chan c).cfg.params.threshold ≤ (pins.flame.get c).toNat ∧
          (s.chan c).cfg.params.wOn ≤ min 16 ((s.chan c).burner.onRun + 1)) →
      ∃ t, exec (.sparkStart c pins) s₀ = .next (trail (comingRising s₀) (.ignition c) t) ∧
        (t.chan c).burner.phase = .spark ∧
        (t.chan c).burner.safety = 0 ∧ (t.chan c).burner.onRun = 0 ∧ (t.chan c).burner.offRun = 0 ∧
        (t.chan c).burner.sparkTime = (s.chan c).cfg.params.sparkTime * hertz s.mtb.frequency / 5 ∧
        (t.chan c).burner.safetyTime = (s.chan c).cfg.params.safetyTime * hertz s.mtb.frequency / 5 ∧
        (t.chan c).valve = (s.chan c).cfg.params.position ∧ t.igu = { s.igu with spark := true } ∧
        (t.chan c).burner.attempt = (s.chan c).burner.attempt ∧ t.sparkRead = some false ∧ KeepsPrograms s t ∧
        KeepsLine s t ∧ KeepsInputsAndPeers s t ∧ t.rpu = s.rpu ∧
        t.mtb = s.mtb ∧ t.ssv = s.ssv ∧ t.apu = s.apu) ∧
    (LeadsTo (.ignition c) (withInputs pins s₀) s → (s.chan c).cfg.kind = .burner →
      (s.chan c).burner.phase = .spark → (s.chan c).burner.sparkTime = (s.chan c).burner.safety + 1 →
      ∃ t, exec (.sparkEnd c (some pins)) s₀ = .next (trail (comingRising s₀) (.ignition c) t) ∧
        (t.chan c).burner =
          { (s.chan c).burner with phase := .prove, safety := (s.chan c).burner.safety + 1 } ∧
        (∀ d : Chan, d ≠ c → t.chan d = s.chan d) ∧ t.taken = .ignition c :: s.taken ∧ t.pins = s.pins ∧
        (t.chan c).valve = (s.chan c).valve ∧ t.igu = { s.igu with spark := false } ∧ KeepsPrograms s t ∧
        KeepsLine s t ∧ KeepsInputsAndPeers s t ∧ t.rpu = s.rpu ∧ t.mtb = s.mtb ∧ t.ssv = s.ssv ∧
        t.apu = s.apu) ∧
    exec (.sparkEnd c) s₀ = exec (.sparkEnd c (some s₀.pins.inputs)) s₀

/-- R126, R134, R135: the counted flame sample that brings the on-run to W_on in PROVE proves flame, even at the
half-cycle that brings the accumulator to T: the channel is RUNNING with its valve at the step's position, supervised,
and the next in the queue becomes holder; the step timer has its first half-cycle at a later one (R28); the mark
`.program c` in `taken` that says so is the model's (log entry 2).  An on-run that stands beyond a W_on lowered by a
CONFIGURE_BURNER has reached it: the model's reading (DEDUCED, log entry 11).  The higher burners take the same event
after it (R125). -/
def Obligations.FlameProvenRunsTheStep : Prop :=
  ∀ (s₀ s : State) (c : Chan) (pins : InputPins),
    LeadsTo (.ignition c) (withInputs pins s₀) s → (s.chan c).cfg.kind = .burner → (s.chan c).burner.phase = .prove →
    c ∉ s.igu.queue →
    (levelsRead pins s₀).spark = false → (s.chan c).cfg.params.threshold ≤ (pins.flame.get c).toNat →
    (s.chan c).cfg.params.wOn ≤ min 16 ((s.chan c).burner.onRun + 1) →
    ∃ t, exec (.flameProven c pins) s₀ = .next (trail (comingRising s₀) (.ignition c) t) ∧
      (t.chan c).chc = { (s.chan c).chc with state := .running } ∧ (t.chan c).pgu = (s.chan c).pgu ∧
      ((s.chan c).chc.state = .igniting → .program c ∈ t.taken) ∧ (t.chan c).valve = (s.chan c).pgu.level ∧
      (t.chan c).burner.phase = .none ∧
      (t.chan c).burner.supervising = true ∧ (t.chan c).burner.blankRun = 0 ∧ (t.chan c).burner.offRun = 0 ∧
      ((s.chan c).burner.onRun + 1 = (s.chan c).cfg.params.wOn → (s.chan c).cfg.params.wOn ≤ 16 →
        (t.chan c).burner.onRun = (s.chan c).cfg.params.wOn) ∧
      (t.chan c).burner.attempt = 1 ∧ (t.chan c).burner.safety = 0 ∧ (t.chan c).burner.quiet = 0 ∧
      (t.chan c).burner.purge = 0 ∧ (t.chan c).burner.falseFlame = false ∧ (t.chan c).burner.falseTimer = 0 ∧
      t.igu = { queue := s.igu.queue.tail, holder := s.igu.queue.head?, spark := false } ∧
      (t.chan c).cfg = (s.chan c).cfg ∧ KeepsOthers c s t ∧ KeepsLine s t ∧ KeepsInputsAndPeers s t ∧ t.rpu = s.rpu ∧
      t.mtb = s.mtb ∧
      t.ssv = s.ssv

/-- R137, R138, R142: the accumulator reaches T without proof: IGNITION_FAIL is raised, the valve closes and the unit is
released; with attempts left the burner purges, and on its last attempt it is locked out: the bit is set, LOCKOUT and
PROGRAM_END follow, and its program ends.  The purge counts second events of later half-cycles alone (R139);
the mark `.purge c` in `taken` that says so is the model's (log entry 2).  The higher burners take the same event after it
(R125). -/
def Obligations.FailedAttemptPurgesOrLocksOut : Prop :=
  ∀ (s₀ s : State) (c : Chan) (pins : InputPins),
    LeadsTo (.ignition c) (withInputs pins s₀) s → (s.chan c).cfg.kind = .burner → (s.chan c).burner.phase = .prove →
    c ∉ s.igu.queue →
    (s.chan c).burner.safetyTime = (s.chan c).burner.safety + 1 →
    (levelsRead pins s₀).spark = true ∨ (pins.flame.get c).toNat < (s.chan c).cfg.params.threshold ∨
      min 16 ((s.chan c).burner.onRun + 1) < (s.chan c).cfg.params.wOn →
    ∃ t, exec (.attemptFail c pins) s₀ = .next (trail (comingRising s₀) (.ignition c) t) ∧ (t.chan c).valve = 0 ∧
      t.igu = { queue := s.igu.queue.tail, holder := s.igu.queue.head?, spark := false } ∧
      ((s.chan c).burner.attempt < (s.chan c).burner.allowed →
        (t.chan c).burner.phase = .purge ∧ (t.chan c).burner.purge = (s.chan c).cfg.params.purge + 1 ∧
        .purge c ∈ t.taken ∧
        (t.chan c).burner.attempt = (s.chan c).burner.attempt ∧ (t.chan c).burner.safety = 0 ∧
        (t.chan c).burner.onRun = 0 ∧ (t.chan c).burner.offRun = 0 ∧ KeepsProgram c s t ∧
        (t.chan c).lockoutBit = (s.chan c).lockoutBit ∧
        t.rpu =
          (raise
            { kind := .ignitionFail, channel := some c, slot := (s.chan c).pgu.current
              parameter := (s.chan c).burner.attempt } s).rpu) ∧
      ((s.chan c).burner.allowed ≤ (s.chan c).burner.attempt →
        (t.chan c).lockoutBit = true ∧ (t.chan c).burner = Burner.reset ∧
        (t.chan c).chc = { state := .lockout, causes := ⟨false, false⟩, target := none, endCause := .lockout } ∧
        (t.chan c).pgu = (s.chan c).pgu.ended ∧
        t.rpu =
          (raise { kind := .programEnd, channel := some c, slot := (s.chan c).pgu.current, parameter := 7 }
            (raise { kind := .lockout, channel := some c, slot := (s.chan c).pgu.current, parameter := 7 }
              (raise
                { kind := .ignitionFail, channel := some c, slot := (s.chan c).pgu.current
                  parameter := (s.chan c).burner.attempt } s))).rpu) ∧
      (t.chan c).cfg = (s.chan c).cfg ∧ KeepsOthers c s t ∧ KeepsLine s t ∧ KeepsInputsAndPeers s t ∧ t.mtb = s.mtb ∧
      t.ssv = s.ssv

/-- R130 to R132, R142: in LINE_WAIT the on-run that reaches W_on sets false flame with its timer at 0, and the off-run
that reaches W_off clears it and its timer; with the quiet count at f the holder enters SPARK in that same event, by
FALSE_FLAME_CLEARED and by SPARK_START alike, and waits on otherwise; a false flame whose timer reaches 20f locks the burner out with cause
FALSE_FLAME. A clear at the half-cycle at which the timer would reach 20f is taken first (the model's reading, log
entry 13).  The higher burners take the same event after it (R125). -/
def Obligations.FalseFlameIsSetClearedAndLocksOut : Prop :=
  ∀ (s₀ s : State) (c : Chan) (pins : InputPins),
    LeadsTo (.ignition c) (withInputs pins s₀) s → (s.chan c).cfg.kind = .burner → (s.chan c).burner.phase = .lineWait →
    ((levelsRead pins s₀).spark = false → (s.chan c).burner.falseFlame = false →
      (s.chan c).cfg.params.threshold ≤ (pins.flame.get c).toNat →
      (s.chan c).cfg.params.wOn = (s.chan c).burner.onRun + 1 → (s.chan c).burner.onRun < 16 →
      ∃ t, exec (.falseFlameSet c pins) s₀ = .next (trail (comingRising s₀) (.ignition c) t) ∧
        (t.chan c).burner.falseFlame = true ∧
        (t.chan c).burner.falseTimer = 0 ∧ (t.chan c).burner.phase = .lineWait ∧ t.igu = s.igu ∧
        (t.chan c).valve = (s.chan c).valve ∧ KeepsPrograms s t ∧ KeepsLine s t ∧ KeepsInputsAndPeers s t ∧
        t.rpu = s.rpu ∧ t.mtb = s.mtb) ∧
    ((levelsRead pins s₀).spark = false → (s.chan c).burner.falseFlame = true →
      (pins.flame.get c).toNat < (s.chan c).cfg.params.threshold →
      (s.chan c).cfg.params.wOff = (s.chan c).burner.offRun + 1 → (s.chan c).burner.offRun < 16 →
      (s.chan c).burner.quiet + 1 < hertz s.mtb.frequency →
      ∃ t, exec (.falseFlameCleared c pins) s₀ = .next (trail (comingRising s₀) (.ignition c) t) ∧
        (t.chan c).burner.falseFlame = false ∧
        (t.chan c).burner.falseTimer = 0 ∧ (t.chan c).burner.phase = .lineWait ∧ t.igu = s.igu ∧
        (t.chan c).valve = (s.chan c).valve ∧ KeepsPrograms s t ∧ KeepsLine s t ∧ KeepsInputsAndPeers s t ∧
        t.rpu = s.rpu ∧ t.mtb = s.mtb) ∧
    ((levelsRead pins s₀).spark = false → (s.chan c).burner.falseFlame = true →
      (pins.flame.get c).toNat < (s.chan c).cfg.params.threshold →
      (s.chan c).cfg.params.wOff = (s.chan c).burner.offRun + 1 → (s.chan c).burner.offRun < 16 →
      hertz s.mtb.frequency ≤ (s.chan c).burner.quiet + 1 →
      ∃ t, exec (.falseFlameCleared c pins) s₀ = .next (trail (comingRising s₀) (.ignition c) t) ∧
        exec (.sparkStart c pins) s₀ = .next (trail (comingRising s₀) (.ignition c) t) ∧
        (t.chan c).burner =
          { (s.chan c).burner with
            phase := .spark, falseFlame := false, falseTimer := 0, quiet := hertz s.mtb.frequency, safety := 0
            onRun := 0, offRun := 0
            sparkTime := (s.chan c).cfg.params.sparkTime * hertz s.mtb.frequency / 5
            safetyTime := (s.chan c).cfg.params.safetyTime * hertz s.mtb.frequency / 5 } ∧
        (t.chan c).valve = (s.chan c).cfg.params.position ∧ t.igu = { s.igu with spark := true } ∧
        KeepsPrograms s t ∧ KeepsLine s t ∧ KeepsInputsAndPeers s t ∧ t.rpu = s.rpu ∧ t.mtb = s.mtb ∧ t.ssv = s.ssv ∧
        t.apu = s.apu) ∧
    (c ∉ s.igu.queue →
      (s.chan c).burner.falseFlame = true → 20 * hertz s.mtb.frequency = (s.chan c).burner.falseTimer + 1 →
      (levelsRead pins s₀).spark = true ∨ (s.chan c).cfg.params.threshold ≤ (pins.flame.get c).toNat ∨
        min 16 ((s.chan c).burner.offRun + 1) < (s.chan c).cfg.params.wOff →
      ∃ t, exec (.falseFlameLockout c pins) s₀ = .next (trail (comingRising s₀) (.ignition c) t) ∧
        (t.chan c).lockoutBit = true ∧
        (t.chan c).chc = { state := .lockout, causes := ⟨false, false⟩, target := none, endCause := .falseFlame } ∧
        (t.chan c).pgu = (s.chan c).pgu.ended ∧ (t.chan c).burner = Burner.reset ∧ (t.chan c).valve = 0 ∧
        t.igu = { queue := s.igu.queue.tail, holder := s.igu.queue.head?, spark := false } ∧
        t.rpu =
          (raise { kind := .programEnd, channel := some c, slot := (s.chan c).pgu.current, parameter := 8 }
            (raise { kind := .lockout, channel := some c, slot := (s.chan c).pgu.current, parameter := 8 } s)).rpu ∧
        (t.chan c).cfg = (s.chan c).cfg ∧ KeepsOthers c s t ∧ KeepsLine s t ∧ KeepsInputsAndPeers s t ∧ t.mtb = s.mtb ∧
        t.ssv = s.ssv)

/-- R140, R141: a supervised burner loses its flame by W_off samples in a row without flame, or by 8f blanked half-cycles
in a row: its valve closes, FLAME_LOSS is raised, and it enters IGNITING with one attempt allowed; its timer stands.  An
off-run that stands beyond a W_off lowered by a CONFIGURE_BURNER has reached it: the model's reading (DEDUCED, log entry
11).  The higher burners take the same event after it, so those that lose their flame with it join behind it, and nobody
else between (R125). -/
def Obligations.FlameLossReignitesOnce : Prop :=
  ∀ (s₀ s : State) (c : Chan) (pins : InputPins),
    LeadsTo (.ignition c) (withInputs pins s₀) s → (s.chan c).cfg.kind = .burner → (s.chan c).burner.phase = .none →
    (s.chan c).burner.supervising = true → c ∉ s.igu.queue →
    ((levelsRead pins s₀).spark = false ∧ (pins.flame.get c).toNat < (s.chan c).cfg.params.threshold ∧
        (s.chan c).cfg.params.wOff ≤ min 16 ((s.chan c).burner.offRun + 1)) ∨
      ((levelsRead pins s₀).spark = true ∧ 8 * hertz s.mtb.frequency ≤ (s.chan c).burner.blankRun + 1) →
    ∃ t, exec (.flameLoss c pins) s₀ = .next (trail (comingRising s₀) (.ignition c) t) ∧
      (t.chan c).chc = { (s.chan c).chc with state := .igniting } ∧ (t.chan c).pgu = (s.chan c).pgu ∧
      (t.chan c).valve = 0 ∧ (t.chan c).burner.supervising = false ∧ (t.chan c).burner.attempt = 1 ∧
      (t.chan c).burner.allowed = 1 ∧ (t.chan c).burner.onRun = 0 ∧ (t.chan c).burner.offRun = 0 ∧
      (t.chan c).burner.blankRun = 0 ∧
      (s.igu.holder.isSome = true →
        (t.chan c).burner.phase = .queued ∧ t.igu = { s.igu with queue := s.igu.queue ++ [c] }) ∧
      (s.igu.holder = none → s.igu.queue = [] →
        (t.chan c).burner.phase = .lineWait ∧ t.igu = { s.igu with queue := [], holder := some c }) ∧
      t.rpu =
        (raise
          { kind := .flameLoss, channel := some c, slot := (s.chan c).pgu.current
            parameter := if (levelsRead pins s₀).spark then 1 else 0 } s).rpu ∧
      (t.chan c).cfg = (s.chan c).cfg ∧ KeepsOthers c s t ∧ KeepsLine s t ∧ KeepsInputsAndPeers s t ∧ t.mtb = s.mtb ∧
      t.ssv = s.ssv

/-! ### Half-cycles on the gate inputs -/

/-- R151, R152, R155 to R158: the eighth sample in a row of the new state changes a gate's filtered state; the gated
condition of every channel is worked out anew; every door that changes at this sample raises DOOR, OPEN for a change to
ACTIVE and CLOSED for one to INACTIVE, for each element channel whose mask includes it, gate by gate from G0 to G3 and for
each gate in rising channel order.  The other gates and MR are sampled in the same event: MR's filter moves too, and a
press that qualifies at this sample makes its request (R153, R144), its records after the doors' in this row (R158 lets
either come first: the model's choice, log entry 4); and nothing else is raised.  That the row has not been overtaken is
said by the model's marks (log entry 2), which the gates and MR carry together (TimeBaseSound). -/
def Obligations.GateChangeIsAcceptedAtEightSamples : Prop :=
  ∀ (s : State) (g : Fin 4) (pins : InputPins),
    Shares .gates s → Shares .manualReset s → pins.gates.get g ≠ (s.gib.gates.get g).active →
    7 ≤ (s.gib.gates.get g).run →
    ∃ t, exec (.gateChangeAccepted pins) s = .next t ∧ (t.gib.gates.get g).active = pins.gates.get g ∧
      (t.gib.gates.get g).run = 0 ∧ (t.gib.gates.get g).kind = (s.gib.gates.get g).kind ∧
      SampledInputs pins (doorRecords pins s ++ clearedRecords pins s) s t

/-- R60, R144, R153: a press of 2f samples makes one manual reset request; while no burner holds the unit it takes every
LOCKOUT channel to IDLE with its bit cleared and its end cause kept; while one does it is ignored; the eighth released
sample in a row makes MR filtered INACTIVE again.  R151, R152: the four gates are sampled in the same event, at the levels
that the row's operand gives, or at those that stand (the model's operand, log entry 2): their runs count, a change at its
eighth sample is accepted with its DOOR records after those of the request in this row (R158 lets either come first: the
model's choice, log entry 4), and with no change and no request taken no channel is touched. -/
def Obligations.ManualResetClearsLockouts : Prop :=
  ∀ (s : State) (c : Chan) (gates : Option (Quad Bool)) (x : InputPins) (pressed : Bool),
    Shares .gates s → Shares .manualReset s →
    x = { s.pins.inputs with gates := gates.getD s.pins.inputs.gates, mr := !pressed } →
    (pressed = true → s.gib.mrActive = false → perSecond s.mtb.frequency ≤ s.gib.mrOn + 1 →
      ∃ t, exec (.manualResetRequest gates) s = .next t ∧ t.gib.mrActive = true ∧ t.gib.mrOn = 0 ∧
        t.gib.mrOff = s.gib.mrOff ∧
        SampledInputs x (clearedRecords x s ++ doorRecords x s) s t ∧
        (s.igu.holder = none → (s.chan c).chc.state = .lockout →
          (t.chan c).chc = { (s.chan c).chc with state := .idle } ∧ (t.chan c).lockoutBit = false ∧
          (s.rpu.events.length + 4 ≤ 8 →
            { kind := .lockoutCleared, channel := some c, slot := none, parameter := 0 } ∈ t.rpu.events)) ∧
        ((s.chan c).chc.state ≠ .lockout →
          (t.chan c).chc = (s.chan c).chc ∧ (t.chan c).lockoutBit = (s.chan c).lockoutBit) ∧
        (s.igu.holder.isSome = true → GatesQuiet x.gates s → t.chans = s.chans ∧ t.rpu = s.rpu)) ∧
    (pressed = false → s.gib.mrActive = true → 7 ≤ s.gib.mrOff →
      ∃ t, exec (.mrRelease gates) s = .next t ∧ t.gib.mrActive = false ∧ t.gib.mrOff = 0 ∧
        t.gib.mrOn = s.gib.mrOn ∧ SampledInputs x (doorRecords x s) s t ∧
        (GatesQuiet x.gates s → t.chans = s.chans ∧ t.rpu = s.rpu ∧ t.apu = s.apu))

/-! ### The zone line -/

/-- R164, R173, R175 to R177: at an idle, or when something becomes pending on an idle line, the station begins a frame
of the lowest kind code that holds something, with its content built now; the build of a DEMAND sets the carried mark
of every PENDING_SEND hold; with nothing pending the line is idle.  R197: records that a change has just raised into an
empty event queue may come after the choice: which records those are, and that `late` and `eventsNew` say so, is the
model's choice (log entry 19).  R75, R165, R182, R190, R192 and 08, Frames sent: the layouts of the four
frames. -/
def Obligations.AttemptOffersTheLowestKind : Prop :=
  ∀ (s : State) (i : Instr) (c : Chan) (late : Bool) (events : List EventRecord) (k : Nat) (a : Address)
    (payload : List Byte),
    makeFrame k a payload =
      [BitVec.ofNat 8 (k * 16 + a.toNat), BitVec.ofNat 8 payload.length] ++ payload ++
        [0xFF - byteSum ([BitVec.ofNat 8 (k * 16 + a.toNat), BitVec.ofNat 8 payload.length] ++ payload)] ∧
    byteSum (makeFrame k a payload) = 0xFF ∧
    (s.held = false →
      (i = .lineIdle late ∧ frameUnderWay s = none) ∨ (i = .contendingOnIdleLine late ∧ s.lif.line = .idle) →
      events = (if late = true ∧ s.eventsNew = true then [] else s.rpu.events) →
      ∃ t, exec i s = .next t ∧
        (∀ e ∈ s.lif.replies.head?,
          t.lif.line =
            .sending
              ⟨.reply,
                makeFrame 2 s.ssv.address
                  [BitVec.ofNat 8 e.requester.toNat, e.code,
                   BitVec.ofNat 8 (e.results.c0.code * 16 + e.results.c1.code),
                   BitVec.ofNat 8 (e.results.c2.code * 16 + e.results.c3.code)], 0⟩) ∧
        (s.lif.replies = [] → s.apu.request = true →
          (∃ p : List Byte, t.lif.line = .sending ⟨.demand, makeFrame 3 s.ssv.address p, 0⟩ ∧ DemandLayout s p) ∧
          t.apu.requestAfterBuild = false ∧
          ((s.chan c).claim.stage = .pendingSend → (t.chan c).claim.carried = true)) ∧
        (s.lif.replies = [] → s.apu.request = false → events ≠ [] →
          t.lif.line =
            .sending
              ⟨.event,
                makeFrame 4 s.ssv.address
                  ((events.take 4).flatMap fun e =>
                    [BitVec.ofNat 8 (e.kind.code * 16 + (e.channel.map Fin.val).getD 15),
                     BitVec.ofNat 8 ((e.slot.map Fin.val).getD 15), BitVec.ofNat 8 e.parameter]),
                min 4 events.length⟩) ∧
        (s.lif.replies = [] → s.apu.request = false → events = [] → ∀ d ∈ s.lif.stateSet.head?,
          ∃ p : List Byte, t.lif.line = .sending ⟨.state, makeFrame 5 s.ssv.address p, 0⟩ ∧ StateLayout s d p) ∧
        (s.lif.replies = [] → s.apu.request = false → events = [] → s.lif.stateSet = [] →
          t = { s with lif := { s.lif with line := .idle }, eventsNew := s.rpu.events.isEmpty }) ∧
        t.lif.replies = s.lif.replies ∧ t.lif.stateSet = s.lif.stateSet ∧ t.rpu = s.rpu ∧
        t.eventsNew = s.rpu.events.isEmpty ∧
        t.apu.request = s.apu.request ∧ KeepsPrograms s t ∧ t.ssv = s.ssv ∧ t.mtb = s.mtb ∧ t.igu = s.igu)

/-- R166, R167, R169, R170, R171: a station matches a COMMAND when every address bit its mask selects agrees; a lost or
abandoned frame leaves its item pending and makes the station a receiver, but where the bit is a stop bit, which then reads
dominant, that is a framing error that discards the frame, by whichever row reports it; a discarded frame, and a COMMAND that does
not match, end on the line without effect, but that a valid frame with the own address as source sets the clash
flag.  After a framing error, a length out of range or a frame that fails a check nothing is taken until the next idle; a
frame cut short is discarded at the idle itself, and the next start bit begins a frame.  R165, R169: a frame is complete
when byte 1 gives a length n of 0..12 and there are n + 3 bytes; it passes the checks when its bytes sum to FFh modulo 256,
its kind code is 0..5 and n is a length of that kind. -/
def Obligations.FramesWithoutEffectKeepEverythingPending : Prop :=
  ∀ (s : State) (fr : TxFrame) (byte : Nat) (pos : Fin 10) (cause : AbortCause) (frame : List Byte) (h : CmdHeader)
    (c : Chan),
    s.held = false →
    (∀ own : Address, addressMatches own h = true ↔
      ∀ b : Fin 4, h.mask.getLsbD b.val = true → own.getLsbD b.val = h.target.getLsbD b.val) ∧
    (s.lif.line = .sending fr → sentRecessive fr.bytes 0 pos = true →
      exec (.arbitrationLost pos) s = .next
        { s with
          lif := { s.lif with line := if pos = 9 then .closed else .receiving }
          eventsNew := s.rpu.events.isEmpty }) ∧
    (s.lif.line = .sending fr → byte < fr.bytes.length → 0 < byte ∨ sentRecessive fr.bytes 0 pos = false →
      exec (.frameAbandoned byte pos) s = .next
        { s with
          lif := { s.lif with line := if pos = 9 then .closed else .receiving }
          eventsNew := s.rpu.events.isEmpty }) ∧
    (s.lif.line = .sending fr →
      exec (.receiveAborted .framingError) s = .next
        { s with lif := { s.lif with line := .closed }, eventsNew := s.rpu.events.isEmpty }) ∧
    (s.lif.line = .closed → receptive s = false) ∧ (s.lif.line = .receiving → receptive s = true) ∧
    (receptive s = true →
      exec (.receiveAborted cause) s = .next
        { s with
          lif := { s.lif with line := if cause = .cutShort then .idle else .closed }
          eventsNew := s.rpu.events.isEmpty }) ∧
    (receptive s = true → ∃ t, exec (.receiveAborted .cutShort) s = .next t ∧ receptive t = true) ∧
    (frameComplete frame = true ↔
      2 ≤ frame.length ∧ octet frame 1 ≤ 12 ∧ frame.length = octet frame 1 + 3) ∧
    (frameValid frame = true ↔
      frameComplete frame = true ∧ (frame.map BitVec.toNat).sum % 256 = 255 ∧
      (octet frame 0 / 16 = 0 ∧ octet frame 1 = 0 ∨ octet frame 0 / 16 = 1 ∧ 2 ≤ octet frame 1 ∨
        octet frame 0 / 16 = 2 ∧ octet frame 1 = 4 ∨ octet frame 0 / 16 = 3 ∧ octet frame 1 = 9 ∨
        octet frame 0 / 16 = 4 ∧ (octet frame 1 = 3 ∨ octet frame 1 = 6 ∨ octet frame 1 = 9 ∨ octet frame 1 = 12) ∨
        octet frame 0 / 16 = 5 ∧ octet frame 1 = 12)) ∧
    (receptive s = true → frameComplete frame = true → frameValid frame = false →
      exec (.frameRejected frame) s = .next
        { s with lif := { s.lif with line := .closed }, eventsNew := s.rpu.events.isEmpty }) ∧
    (receptive s = true → addressMatches s.ssv.address h = false → h.source ≠ s.ssv.address →
      exec (.commandNotMatched h) s = .next
        { s with lif := { s.lif with line := .closed }, eventsNew := s.rpu.events.isEmpty }) ∧
    (receptive s = true → addressMatches s.ssv.address h = false → h.source = s.ssv.address →
      ∃ t, exec (.commandNotMatched h) s = .next t ∧ t.ssv = { s.ssv with clash := true, clashQuiet := 0 } ∧
        t.lif = { s.lif with line := .closed } ∧ (s.ssv.clash = false → (t.chan c).claim.ceiling = 0) ∧
        KeepsPrograms s t ∧ t.rpu = s.rpu)

/-- R74, R76, R80, R81, R88, R89, R168, R174 to R177: a frame of the station's own that completes removes what it carried: the oldest
REPLY entry, the records of the EVENT, the head of the STATE set; a completed DEMAND sets the own-send age to 0, ends
starvation, satisfies the request unless one was made since the build, and takes every carried PENDING_SEND hold to
COUNTING with count 2f, in a starved station as well, where the end of starvation calls for a recomputation that may raise
a demand anew (R74) and gives each ceiling the value of R88 unless it is barred (R89).  A raised event joins the tail of the event queue, or, with eight records there, sets the
events-lost flag (R193, R194). -/
def Obligations.CompletedFramesLeaveThePendingSet : Prop :=
  ∀ (s : State) (bytes : List Byte) (carried : Nat) (c : Chan) (e : EventRecord),
    s.held = false →
    raise e s =
      (if s.rpu.events.length < 8 then { s with rpu := { s.rpu with events := s.rpu.events ++ [e] } }
      else { s with rpu := { s.rpu with lost := true } }) ∧
    (s.lif.line = .sending ⟨.reply, bytes, carried⟩ →
      exec .replySent s =
        .next
          { s with
            lif := { s.lif with line := .closed, replies := s.lif.replies.tail }
            eventsNew := s.rpu.events.isEmpty }) ∧
    (s.lif.line = .sending ⟨.event, bytes, carried⟩ →
      exec .eventFrameSent s =
        .next
          { s with
            lif := { s.lif with line := .closed }
            rpu := { s.rpu with events := s.rpu.events.drop carried }
            eventsNew := s.rpu.events.isEmpty }) ∧
    (s.lif.line = .sending ⟨.state, bytes, carried⟩ →
      exec .stateSent s =
        .next
          { s with
            lif := { s.lif with line := .closed, stateSet := s.lif.stateSet.tail }
            eventsNew := s.rpu.events.isEmpty }) ∧
    (s.lif.line = .sending ⟨.demand, bytes, carried⟩ →
      ∃ t, exec .demandSent s = .next t ∧ t.lif = { s.lif with line := .closed } ∧ t.apu.ownSendAge = 0 ∧
        starved t = false ∧
        (starved s = false →
          t.apu.request = s.apu.requestAfterBuild ∧
          (t.chan c).claim =
            if (s.chan c).claim.stage = .pendingSend ∧ (s.chan c).claim.carried = true then
              { (s.chan c).claim with stage := .counting, count := perSecond s.mtb.frequency }
            else (s.chan c).claim) ∧
        (starved s = true →
          (t.apu.request = true ↔
            s.apu.requestAfterBuild = true ∨
              (s.ssv.station ≠ .mainsWait ∧
                ∃ d : Chan, (s.chan d).claim.announced < neededDemand s.ssv.station (s.chan d))) ∧
          (t.chan c).claim.announced = neededDemand s.ssv.station (s.chan c) ∧
          ((s.chan c).claim.announced < neededDemand s.ssv.station (s.chan c) →
            (t.chan c).claim.stage = .pendingSend ∧ (t.chan c).claim.carried = false ∧ (t.chan c).claim.count = 0) ∧
          (neededDemand s.ssv.station (s.chan c) ≤ (s.chan c).claim.announced →
            (t.chan c).claim.carried = (s.chan c).claim.carried ∧
            if (s.chan c).claim.stage = .pendingSend ∧ (s.chan c).claim.carried = true then
              (t.chan c).claim.stage = .counting ∧ (t.chan c).claim.count = perSecond s.mtb.frequency
            else (t.chan c).claim.stage = (s.chan c).claim.stage ∧ (t.chan c).claim.count = (s.chan c).claim.count) ∧
          (t.chan c).claim.ceiling =
            (if s.ssv.station ≠ .active ∨ s.ssv.clash = true then 0
            else min (t.chan c).claim.paid ((t.chan c).claim.settled * 100 / (s.chan c).cfg.load))) ∧
        KeepsPrograms s t ∧ t.rpu = s.rpu ∧ t.ssv = s.ssv ∧ t.mtb = s.mtb)

/-- R17, R82a, R170: a valid REPLY, EVENT or STATE of a peer has no effect; a valid DEMAND of a peer is written whole
into the peer's row with age 0, unless the station is in MAINS_WAIT, or SAFE and measuring, or the DEMAND's station
code is no state a peer sends from; a frame with the own address as source sets the clash flag and is written nowhere.
The source is the low four bits of byte 0, the kind its high four; the payload begins at byte 2: for channel d two bytes,
demand bits 9..2, then demand bits 1..0, class and circuit (B where bit 3 is set); the station code is bits 2..0 of the
ninth.
That a DEMAND is carried by PEER_REPORT_RECEIVED is the model's reading (log entry 5). -/
def Obligations.PeerFramesReachThePeerTableAlone : Prop :=
  ∀ (s : State) (frame : List Byte) (q : Address) (c : Chan),
    s.held = false → receptive s = true → frameValid frame = true → 2 ≤ octet frame 0 / 16 →
    s.apu.peers.length = 16 →
    (octet frame 0 % 16 ≠ s.ssv.address.toNat → octet frame 0 / 16 ≠ 3 →
      exec (.peerReportReceived frame) s = .next
        { s with lif := { s.lif with line := .closed }, eventsNew := s.rpu.events.isEmpty }) ∧
    (octet frame 0 % 16 ≠ s.ssv.address.toNat → octet frame 0 / 16 = 3 →
      ∃ t, exec (.peerReportReceived frame) s = .next t ∧ KeepsPrograms s t ∧ t.rpu = s.rpu ∧ t.ssv = s.ssv ∧
        t.lif = { s.lif with line := .closed } ∧
        (t.apu.peers[q.toNat]?).join =
          if q.toNat = octet frame 0 % 16 ∧ s.ssv.station ≠ .mainsWait ∧
              ¬ (s.ssv.station = .safe ∧ s.mtb.mode = .measuring) ∧ 1 ≤ octet frame 10 % 8 ∧
              octet frame 10 % 8 ≤ 4 then
            some
              { age := 0
                state :=
                  if octet frame 10 % 8 = 1 then .listen else if octet frame 10 % 8 = 2 then .active
                  else if octet frame 10 % 8 = 3 then .rideThrough else .safe
                records :=
                  .ofFn fun d =>
                    { demand := octet frame (2 + 2 * d.val) * 4 + octet frame (3 + 2 * d.val) / 64
                      cls := Fin.ofNat 4 (octet frame (3 + 2 * d.val) / 16 % 4)
                      circuit := if octet frame (3 + 2 * d.val) / 8 % 2 = 1 then .b else .a } }
          else (s.apu.peers[q.toNat]?).join) ∧
    (octet frame 0 % 16 = s.ssv.address.toNat →
      ∃ t, exec (.peerReportReceived frame) s = .next t ∧ KeepsPrograms s t ∧ t.rpu = s.rpu ∧
        t.ssv = { s.ssv with clash := true, clashQuiet := 0 } ∧ t.apu.peers = s.apu.peers ∧
        t.lif = { s.lif with line := .closed } ∧ (s.ssv.clash = false → (t.chan c).claim.ceiling = 0))

/-! ### Commands -/

/-- R46, R47 steps 1 and 2, R172 step 2: for every program command, a channel that is not named is not touched and
answers DONE, a channel in LOCKOUT answers LOCKED_OUT and one that is UNUSED answers UNUSED_CHANNEL, untouched; a command
with an unknown code or a wrong length answers BAD_VALUE on every channel and touches none. -/
def Obligations.ChannelsBarredFromACommandAreUntouched : Prop :=
  ∀ (s : State) (i : Instr) (h : CmdHeader) (code mask : Byte) (parameters : List Byte) (c : Chan),
    Accepts h s →
    (programCommand i = some (h, code, mask) →
      ∃ t, exec i s = .next t ∧
        (maskNames mask c = false → KeepsChannel c s t ∧ Replies h code c .done s t) ∧
        (maskNames mask c = true → (s.chan c).chc.state = .lockout →
          KeepsChannel c s t ∧ Replies h code c .lockedOut s t) ∧
        (maskNames mask c = true → (s.chan c).chc.state ≠ .lockout → (s.chan c).cfg.kind = .unused →
          KeepsChannel c s t ∧ Replies h code c .unusedChannel s t) ∧
        KeepsClockwork s t ∧ t.stationConfigured = s.stationConfigured) ∧
    (unknownCommand code parameters = true →
      ∃ t, exec (.commandUnknown h code parameters) s = .next t ∧ Replies h code c .badValue s t ∧
        KeepsPrograms s t ∧ KeepsClockwork s t ∧ t.rpu = s.rpu ∧ t.configOpen = s.configOpen)

/-- R34, R47 to R51: a START on a named channel answers by the judging order, and one that answers DONE begins the
program at its start slot at once or after its delay, closes configuration, and sets the last-started record to the
highest named channel that answers DONE; with none the record and the configuration's openness stay.  R50, R104, R125, R126:
an element that enters RUNNING has its driver afresh, and the burners that enter IGNITING join the ignition queue in rising
order with the configured attempts, the first as holder where the unit is free. -/
def Obligations.StartBeginsTheProgram : Prop :=
  ∀ (s : State) (h : CmdHeader) (mask slot : Byte) (delay : BitVec 24) (c : Chan),
    Accepts h s → maskNames mask c = true → notBarred (s.chan c) = true →
    ∃ t, exec (.start h mask slot delay) s = .next t ∧ Replies h 5 c (startResult s c slot) s t ∧
      (startResult s c slot ≠ .done → KeepsChannel c s t) ∧
      (startResult s c slot = .done → ∀ n ∈ slotOfByte slot,
        t.configOpen = false ∧
        (∃ d : Chan, t.lastStarted = some d ∧ c ≤ d ∧ maskNames mask d = true ∧ notBarred (s.chan d) = true ∧
          startResult s d slot = .done) ∧
        (delay.toNat = 0 →
          (t.chan c).pgu = startedProgram (s.chan c).pgu n ∧
          (t.chan c).chc =
            { (s.chan c).chc with
              state := if (s.chan c).cfg.kind = .burner ∧ 0 < levelAt (s.chan c) n then .igniting else .running } ∧
          Afresh (s.chan c).driver (t.chan c)) ∧
        (0 < delay.toNat →
          (t.chan c).pgu =
            { (s.chan c).pgu with
              current := some n, delay := min delay.toNat 86399, phase := 0, seconds := 0, timing := .opened
              holding := false } ∧
          (t.chan c).chc = { (s.chan c).chc with state := .delayed })) ∧
      ((∀ d : Chan, maskNames mask d = true → notBarred (s.chan d) = true → startResult s d slot ≠ .done) →
        t.lastStarted = s.lastStarted ∧ t.configOpen = s.configOpen) ∧
      (t.chan c).cfg = (s.chan c).cfg ∧ IgnitionFollows s t ∧ KeepsClockwork s t

/-- R48, R52 to R54: PAUSE takes a DELAYED or RUNNING channel to PAUSED by COMMAND, closing a burner's valve, and adds
COMMAND to a PAUSED one; RESUME removes COMMAND, and a channel with no cause left leaves PAUSED; every other state
answers as the state table gives and the channel is untouched.  R54, R104, R125, R126: an element that enters RUNNING has
its driver afresh, the burners that enter IGNITING join the ignition queue in rising order with the configured attempts,
the first as holder where the unit is free, and a PAUSE leaves the ignition unit alone. -/
def Obligations.PauseAndResume : Prop :=
  ∀ (s : State) (h : CmdHeader) (mask : Byte) (c : Chan),
    Accepts h s → maskNames mask c = true → notBarred (s.chan c) = true →
    (∃ t, exec (.pause h mask) s = .next t ∧ (t.chan c).pgu = (s.chan c).pgu ∧ (t.chan c).cfg = (s.chan c).cfg ∧
      KeepsClockwork s t ∧ t.rpu = s.rpu ∧ IgnitionFollows s t ∧ (FuelSound s → t.igu = s.igu) ∧
      match (s.chan c).chc.state with
      | .delayed | .running =>
        Replies h 6 c .done s t ∧ (t.chan c).valve = 0 ∧ (t.chan c).burner.supervising = false ∧
        (t.chan c).chc =
          { (s.chan c).chc with
            state := .paused, causes := ⟨true, false⟩
            target := if (s.chan c).chc.state = .delayed then some .delayed else some .running }
      | .paused =>
        Replies h 6 c .done s t ∧
        (t.chan c).chc = { (s.chan c).chc with causes := { (s.chan c).chc.causes with command := true } }
      | .igniting => Replies h 6 c .busy s t ∧ KeepsChannel c s t
      | .idle | .disabled | .lockout => Replies h 6 c .refusedState s t ∧ KeepsChannel c s t) ∧
    (∃ t, exec (.resume h mask) s = .next t ∧ (t.chan c).pgu = (s.chan c).pgu ∧ (t.chan c).cfg = (s.chan c).cfg ∧
      KeepsClockwork s t ∧ t.rpu = s.rpu ∧ IgnitionFollows s t ∧
      ((s.chan c).chc.state ≠ .running → (t.chan c).chc.state = .running →
        Afresh (s.chan c).driver (t.chan c)) ∧
      ((s.chan c).chc.state ≠ .paused →
        Replies h 7 c .refusedState s t ∧ KeepsChannel c s t) ∧
      ((s.chan c).chc.state = .paused → (s.chan c).chc.causes.mains = true →
        Replies h 7 c .done s t ∧ (t.chan c).chc = { (s.chan c).chc with causes := ⟨false, true⟩ }) ∧
      ((s.chan c).chc.state = .paused → (s.chan c).chc.causes.mains = false →
        Replies h 7 c .done s t ∧
        (t.chan c).chc =
          { (s.chan c).chc with
            causes := ⟨false, false⟩, target := none
            state :=
              if (s.chan c).chc.target = some .delayed then .delayed
              else if (s.chan c).cfg.kind = .burner ∧ 0 < (s.chan c).pgu.level then .igniting
              else .running }))

/-- R33, R48, R56 to R58, R179: STOP on a named channel, STOP LAST on the channel last started, and HALT on every
channel end a program with cause STOPPED, or HALTED, to IDLE with the valve closed; a channel without a program is
untouched, and answers DONE; a selector beyond the table answers BAD_VALUE everywhere and stops nothing.  R195: the
PROGRAM_END records of two channels join the queue in either order, which the operand `order` gives (the model's operand,
log entry 20).  R58: those of a HALT join in rising order.  R56, R126, R127: a burner that is stopped in IGNITING leaves the
ignition queue or releases the unit with SPK_EN, its valve closed and its record at the reset values but for the attempts
allowed, and the next in the queue becomes holder. -/
def Obligations.StopAndHaltEndPrograms : Prop :=
  ∀ (s : State) (h : CmdHeader) (selector : Byte) (order : List Chan) (c d : Chan),
    (Accepts h s → selector.toNat < 16 → maskNames selector c = true → notBarred (s.chan c) = true →
      ∃ t, exec (.stop h selector order) s = .next t ∧ Replies h 8 c .done s t ∧ EndedOrKept .stopped c s t ∧
        IgnitionFollows s t ∧ KeepsClockwork s t ∧ t.lastStarted = s.lastStarted) ∧
    (Accepts h s → selector.toNat < 16 → c < d → (∀ x : Chan, maskNames selector x = true ↔ x = c ∨ x = d) →
      (∀ x : Chan, x = c ∨ x = d → notBarred (s.chan x) = true ∧ (s.chan x).chc.state.hasProgram = true) →
      s.rpu.events = [] →
      ∃ (t : State) (e : Chan → EventRecord), exec (.stop h selector order) s = .next t ∧
        (∀ x : Chan,
          e x = { kind := .programEnd, channel := some x, slot := (s.chan x).pgu.current, parameter := 2 }) ∧
        (order = [] → t.rpu = { s.rpu with events := [e c, e d] }) ∧
        (order = [d] → t.rpu = { s.rpu with events := [e d, e c] })) ∧
    (Accepts h s → 16 ≤ selector.toNat → selector ≠ 0x80 →
      ∃ t, exec (.stop h selector order) s = .next t ∧ Replies h 8 c .badValue s t ∧ KeepsPrograms s t ∧
        KeepsClockwork s t ∧ t.rpu = s.rpu) ∧
    (Accepts h s →
      ∃ t, exec (.stopLast h) s = .next t ∧ KeepsClockwork s t ∧ t.lastStarted = s.lastStarted ∧ IgnitionFollows s t ∧
        (s.lastStarted ≠ some c → KeepsChannel c s t ∧ Replies h 8 c .done s t) ∧
        (s.lastStarted = some c → notBarred (s.chan c) = true →
          Replies h 8 c .done s t ∧ EndedOrKept .stopped c s t) ∧
        (s.lastStarted = some c → (s.chan c).chc.state = .lockout →
          KeepsChannel c s t ∧ Replies h 8 c .lockedOut s t) ∧
        (s.lastStarted = some c → (s.chan c).chc.state ≠ .lockout → (s.chan c).cfg.kind = .unused →
          KeepsChannel c s t ∧ Replies h 8 c .unusedChannel s t)) ∧
    (s.held = false → receptive s = true →
      ∃ t, exec (.halt h.source) s = .next t ∧
        (s.rpu.events = [] →
          t.rpu.events =
            (([0, 1, 2, 3] : List Chan).filter fun x => (s.chan x).chc.state.hasProgram).map fun x =>
              { kind := .programEnd, channel := some x, slot := (s.chan x).pgu.current, parameter := 3 }) ∧
        EndedOrKept .halted c s t ∧ IgnitionFollows s t ∧
        t.lif = { s.lif with line := .closed } ∧ KeepsClockwork s t ∧ t.lastStarted = s.lastStarted ∧
        t.configOpen = s.configOpen)

/-- R29 to R31, R33, R35, R36, R48: SKIP expires the current step of a RUNNING channel, a holding one as if its end action
were NEXT, and ends the delay of a DELAYED one; every other state answers as the table gives and the channel is untouched.
Each step that expires raises STEP_END with the action applied, and PROGRAM_END where the program ends, and each delay
DELAY_END, and nothing else is raised; the channels' records join in the turns `order` gives (R195; the model's operand,
log entry 20). -/
def Obligations.SkipExpiresTheStep : Prop :=
  ∀ (s : State) (h : CmdHeader) (mask : Byte) (c : Chan) (n : Slot) (r : StepRecord)
    (order : List Chan),
    Accepts h s → maskNames mask c = true → notBarred (s.chan c) = true →
    ((s.chan c).chc.state.hasProgram = true →
      (s.chan c).pgu.current = some n ∧ (s.chan c).pgu.slotAt n = some r) →
    ∃ t, exec (.skip h mask order) s = .next t ∧ (t.chan c).cfg = (s.chan c).cfg ∧ KeepsClockwork s t ∧
      RaisesOf skipRecords mask order s t ∧ IgnitionFollows s t ∧
      match (s.chan c).chc.state with
      | .running =>
        Replies h 9 c .done s t ∧ Expired (if (s.chan c).pgu.holding then .next else r.endAction) c n s t
      | .delayed => Replies h 9 c .done s t ∧ Started c n s t
      | .igniting => Replies h 9 c .busy s t ∧ KeepsChannel c s t
      | .idle | .paused | .disabled | .lockout => Replies h 9 c .refusedState s t ∧ KeepsChannel c s t

/-- R37, R40, R48: ADJUST LEVEL writes the level of the current record, saturating at the maximum of the kind and at 0;
a RUNNING burner's valve moves, closes, or the burner enters IGNITING as the position crosses 0, at the tail of the ignition queue with the configured
attempts, or as the holder where the unit is free (R125, R126); IGNITING answers BUSY
and a channel without a program REFUSED_STATE. -/
def Obligations.AdjustLevelWritesTheRecord : Prop :=
  ∀ (s : State) (h : CmdHeader) (mask : Byte) (value : BitVec 24) (op : AdjustOperation) (c : Chan) (n : Slot)
    (r : StepRecord) (new : Nat),
    Accepts h s → maskNames mask c = true → notBarred (s.chan c) = true → (s.chan c).pgu.slots.length = 8 →
    ((s.chan c).chc.state.hasProgram = true →
      (s.chan c).pgu.current = some n ∧ (s.chan c).pgu.slotAt n = some r) →
    new =
      (match op with
      | .set => min value.toNat (levelMax (s.chan c).cfg.kind)
      | .add => min (r.level + value.toNat) (levelMax (s.chan c).cfg.kind)
      | .subtract => r.level - value.toNat) →
    ∃ t, exec (levelCommand op h mask value) s = .next t ∧ (t.chan c).cfg = (s.chan c).cfg ∧ KeepsClockwork s t ∧
      t.rpu = s.rpu ∧ IgnitionFollows s t ∧
      match (s.chan c).chc.state with
      | .delayed | .paused =>
        Replies h 10 c .done s t ∧ (t.chan c).chc = (s.chan c).chc ∧ (t.chan c).valve = (s.chan c).valve ∧
        (t.chan c).pgu = { (s.chan c).pgu with slots := (s.chan c).pgu.slots.set n.val (some { r with level := new }) }
      | .running =>
        Replies h 10 c .done s t ∧
        (t.chan c).pgu =
          { (s.chan c).pgu with slots := (s.chan c).pgu.slots.set n.val (some { r with level := new }) } ∧
        (t.chan c).chc =
          (if (s.chan c).cfg.kind = .burner ∧ r.level = 0 ∧ 0 < new then
            { (s.chan c).chc with state := .igniting }
          else (s.chan c).chc) ∧
        ((s.chan c).cfg.kind = .burner → 0 < r.level → (t.chan c).valve = new) ∧
        ((s.chan c).cfg.kind = .burner → 0 < r.level → new = 0 → (t.chan c).burner.supervising = false)
      | .igniting => Replies h 10 c .busy s t ∧ KeepsChannel c s t
      | .idle | .disabled | .lockout => Replies h 10 c .refusedState s t ∧ KeepsChannel c s t

/-- R29 to R33, R38: ADJUST TIME on the timer of a step: SET and ADD make it run anew or longer, up to 86,399 s and no
longer holding; SET 0, and a SUBTRACT that reaches 0, expire the step; ADD and SUBTRACT on an OPEN step answer
BAD_VALUE.  A step that expires raises STEP_END with the action applied, and PROGRAM_END where the program ends, and
nothing else is raised; several channels' records join in the turns `order` gives (R195; the model's operand, log entry
20). -/
def Obligations.AdjustTimeActsOnTheStep : Prop :=
  ∀ (s : State) (h : CmdHeader) (mask : Byte) (value : BitVec 24) (op : AdjustOperation) (c : Chan) (n : Slot)
    (r : StepRecord) (order : List Chan),
    Accepts h s → maskNames mask c = true → notBarred (s.chan c) = true →
    (s.chan c).chc.state = .running ∨
      ((s.chan c).chc.state = .paused ∧ (s.chan c).chc.target ≠ some .delayed) →
    (s.chan c).pgu.current = some n → (s.chan c).pgu.slotAt n = some r →
    ∃ t, exec (timeCommand op h mask value order) s = .next t ∧ (t.chan c).cfg = (s.chan c).cfg ∧ KeepsClockwork s t ∧
      RaisesOf (timeRecords op value.toNat) mask order s t ∧ IgnitionFollows s t ∧
      match op, decide (value.toNat = 0) with
      | .set, true => Replies h 10 c .done s t ∧ Expired r.endAction c n s t
      | .set, false =>
        Replies h 10 c .done s t ∧ (t.chan c).chc = (s.chan c).chc ∧
        (t.chan c).pgu =
          { (s.chan c).pgu with
            timing := .timed, seconds := min value.toNat 86399, phase := 0, holding := false }
      | .add, zero =>
        if (s.chan c).pgu.timing = .opened then Replies h 10 c .badValue s t ∧ KeepsChannel c s t
        else
          Replies h 10 c .done s t ∧ (t.chan c).chc = (s.chan c).chc ∧
          (t.chan c).pgu =
            if zero then (s.chan c).pgu
            else
              { (s.chan c).pgu with
                seconds := min ((s.chan c).pgu.seconds + value.toNat) 86399, holding := false }
      | .subtract, zero =>
        if (s.chan c).pgu.timing = .opened then Replies h 10 c .badValue s t ∧ KeepsChannel c s t
        else if zero then Replies h 10 c .done s t ∧ KeepsChannel c s t
        else if (s.chan c).pgu.seconds ≤ value.toNat then Replies h 10 c .done s t ∧ Expired r.endAction c n s t
        else
          Replies h 10 c .done s t ∧ (t.chan c).chc = (s.chan c).chc ∧
          (t.chan c).pgu = { (s.chan c).pgu with seconds := (s.chan c).pgu.seconds - value.toNat }

/-- R35, R39, R48, R179: ADJUST TIME on a remaining delay: SET and ADD set it or make it longer, up to 86,399 s; SET 0, and a
SUBTRACT that reaches 0, end it: DELAY_END is raised for the start slot, which starts; IGNITING answers BUSY, a channel
without a program REFUSED_STATE, and codes beyond the table BAD_VALUE where the state lets the command go on (their row:
log entry 8), and these raise nothing; several channels' records join in the turns `order` gives (R195; the model's operand, log entry 20). -/
def Obligations.AdjustTimeActsOnTheDelay : Prop :=
  ∀ (s : State) (h : CmdHeader) (mask target operation : Byte) (value : BitVec 24) (op : AdjustOperation) (c : Chan)
    (n : Slot) (order : List Chan),
    Accepts h s → maskNames mask c = true → notBarred (s.chan c) = true →
    ((s.chan c).chc.state = .delayed ∨
        ((s.chan c).chc.state = .paused ∧ (s.chan c).chc.target = some .delayed) →
      (s.chan c).pgu.current = some n →
      ∃ t, exec (timeCommand op h mask value order) s = .next t ∧ (t.chan c).cfg = (s.chan c).cfg ∧ KeepsClockwork s t ∧
        RaisesOf (timeRecords op value.toNat) mask order s t ∧ IgnitionFollows s t ∧ Replies h 10 c .done s t ∧
        (value.toNat = 0 → op = .set → Started c n s t) ∧
        (value.toNat = 0 → op ≠ .set → KeepsChannel c s t) ∧
        (0 < value.toNat → op = .subtract → (s.chan c).pgu.delay ≤ value.toNat → Started c n s t) ∧
        (0 < value.toNat → op ≠ .subtract ∨ value.toNat < (s.chan c).pgu.delay →
          (t.chan c).chc = (s.chan c).chc ∧
          (t.chan c).pgu =
            match op with
            | .set => { (s.chan c).pgu with delay := min value.toNat 86399, phase := 0 }
            | .add => { (s.chan c).pgu with delay := min ((s.chan c).pgu.delay + value.toNat) 86399 }
            | .subtract => { (s.chan c).pgu with delay := (s.chan c).pgu.delay - value.toNat })) ∧
    ((s.chan c).chc.state.hasProgram = false ∨ (s.chan c).chc.state = .igniting →
      ∃ t, exec (timeCommand op h mask value order) s = .next t ∧ KeepsChannel c s t ∧
        RaisesOf (timeRecords op value.toNat) mask order s t ∧
        Replies h 10 c (if (s.chan c).chc.state = .igniting then .busy else .refusedState) s t) ∧
    (2 ≤ target.toNat ∨ 3 ≤ operation.toNat →
      ∃ t, exec (.adjustTimeSet h mask target operation value order) s = .next t ∧ KeepsChannel c s t ∧ t.rpu = s.rpu ∧
        Replies h 10 c
          (match (s.chan c).chc.state with
          | .igniting => .busy
          | .idle | .disabled | .lockout => .refusedState
          | .delayed | .running | .paused => .badValue) s t)

/-- R20, R22 to R24, R179: LOAD_STEP writes the clamped record (that the level maximum of a BURNER without burner parameters
is 9, by its kind, is the model's choice: log entry 21) into the slot named or pointed to, and LOAD_STEP CLEAR
empties it; the load pointer moves to the slot after it; the current slot of a program answers REFUSED_STATE, and a
designation or an end action beyond the table BAD_VALUE, and then nothing is written.  A channel that is not named is not
touched, its step table and its load pointer with it, and answers DONE (R46). -/
def Obligations.LoadStepWritesOneSlot : Prop :=
  ∀ (s : State) (h : CmdHeader) (mask slot level endAction : Byte) (duration : BitVec 24) (c : Chan) (n : Slot),
    Accepts h s →
    (slot = 0x0F → n = (s.chan c).pgu.pointer) → (slot ≠ 0x0F → slot.toNat < 8 → slot.toNat = n.val) →
    (∃ t, exec (.loadStep h mask slot level duration endAction) s = .next t ∧ (t.chan c).chc = (s.chan c).chc ∧
      (t.chan c).cfg = (s.chan c).cfg ∧ KeepsClockwork s t ∧ t.rpu = s.rpu ∧
      if maskNames mask c = false then KeepsChannel c s t ∧ Replies h 4 c .done s t
      else if slot ≠ 0x0F ∧ 8 ≤ slot.toNat then Replies h 4 c .badValue s t ∧ (t.chan c).pgu = (s.chan c).pgu
      else if (s.chan c).chc.state.hasProgram = true ∧ (s.chan c).pgu.current = some n then
        Replies h 4 c .refusedState s t ∧ (t.chan c).pgu = (s.chan c).pgu
      else if endAction = 0xFF then
        Replies h 4 c .done s t ∧
        (t.chan c).pgu = { (s.chan c).pgu with slots := (s.chan c).pgu.slots.set n.val none, pointer := n + 1 }
      else if 3 ≤ endAction.toNat then Replies h 4 c .badValue s t ∧ (t.chan c).pgu = (s.chan c).pgu
      else
        Replies h 4 c .done s t ∧
        (t.chan c).pgu =
          { (s.chan c).pgu with
            slots :=
              (s.chan c).pgu.slots.set n.val
                (some
                  { level := min level.toNat (if (s.chan c).cfg.kind = .burner then 9 else 100)
                    duration := if duration.toNat = 0 then none else some (min duration.toNat 86399)
                    endAction :=
                      if endAction.toNat = 0 then .next else if endAction.toNat = 1 then .finish else .hold })
            pointer := n + 1 }) ∧
    (∃ t, exec (.loadStepClear h mask slot) s = .next t ∧ (t.chan c).chc = (s.chan c).chc ∧
      (t.chan c).cfg = (s.chan c).cfg ∧ KeepsClockwork s t ∧ t.rpu = s.rpu ∧
      if maskNames mask c = false then KeepsChannel c s t ∧ Replies h 4 c .done s t
      else if slot ≠ 0x0F ∧ 8 ≤ slot.toNat then Replies h 4 c .badValue s t ∧ (t.chan c).pgu = (s.chan c).pgu
      else if (s.chan c).chc.state.hasProgram = true ∧ (s.chan c).pgu.current = some n then
        Replies h 4 c .refusedState s t ∧ (t.chan c).pgu = (s.chan c).pgu
      else
        Replies h 4 c .done s t ∧
        (t.chan c).pgu = { (s.chan c).pgu with slots := (s.chan c).pgu.slots.set n.val none, pointer := n + 1 })

/-- R182 to R184, R188: CONFIGURE_STATION answers CONFIG_CLOSED once configuration has closed, REFUSED_STATE in SAFE,
BAD_VALUE where a gate field holds 3, on all four channels and without effect; else it stores the clamped budgets and the
four gate kinds, and the station counts as configured; the gated condition of every channel is worked out anew from the
stored kinds (R155, R156, R159), and where the command has no effect it stays. -/
def Obligations.ConfigureStationStoresBudgetsAndGates : Prop :=
  ∀ (s : State) (h : CmdHeader) (a b : BitVec 16) (gates : Byte) (c : Chan) (g : Fin 4),
    Accepts h s →
    ∃ t, exec (.configureStation h a b gates) s = .next t ∧ KeepsPrograms s t ∧ KeepsClockwork s t ∧ t.rpu = s.rpu ∧
      if s.configOpen = false then
        Replies h 1 c .configClosed s t ∧ t.stationConfigured = s.stationConfigured ∧
        t.apu.budgetA = s.apu.budgetA ∧ t.apu.budgetB = s.apu.budgetB ∧ t.gib = s.gib ∧
        (t.chan c).gated = (s.chan c).gated
      else if s.ssv.station = .safe then
        Replies h 1 c .refusedState s t ∧ t.stationConfigured = s.stationConfigured ∧
        t.apu.budgetA = s.apu.budgetA ∧ t.apu.budgetB = s.apu.budgetB ∧ t.gib = s.gib ∧
        (t.chan c).gated = (s.chan c).gated
      else if ∃ k : Fin 4, gates.toNat / 4 ^ k.val % 4 = 3 then
        Replies h 1 c .badValue s t ∧ t.stationConfigured = s.stationConfigured ∧
        t.apu.budgetA = s.apu.budgetA ∧ t.apu.budgetB = s.apu.budgetB ∧ t.gib = s.gib ∧
        (t.chan c).gated = (s.chan c).gated
      else
        Replies h 1 c .done s t ∧ t.stationConfigured = true ∧ t.apu.budgetA = min a.toNat 4095 ∧
        t.apu.budgetB = min b.toNat 4095 ∧
        (t.gib.gates.get g).kind =
          (if gates.toNat / 4 ^ g.val % 4 = 0 then .unused
          else if gates.toNat / 4 ^ g.val % 4 = 1 then .thermostat else .door) ∧
        (t.gib.gates.get g).active = (s.gib.gates.get g).active ∧ t.configOpen = true ∧ GatedAsConfigured t c

/-- R21, R183, R185, R186: CONFIGURE_CHANNEL judges in the order of R183 and, taken, stores the clamped fields, clamps
the step levels of a burner to 9, and sets the driver to its reset values; the channel state and the load pointer
stay; the gated condition of every channel is worked out anew from the stored kind and mask (R156, R159, R186 step 3), and
where the command is refused it stays. -/
def Obligations.ConfigureChannelStoresItsFields : Prop :=
  ∀ (s : State) (h : CmdHeader) (b : ChannelBytes) (c d : Chan),
    Accepts h s → (b.channel.toNat < 4 → b.channel.toNat = c.val) →
    ∃ t, exec (.configureChannel h b) s = .next t ∧ KeepsClockwork s t ∧ t.rpu = s.rpu ∧
      (t.chan c).chc = (s.chan c).chc ∧ (d ≠ c → KeepsProgram d s t) ∧ t.configOpen = s.configOpen ∧
      if s.configOpen = false then Replies h 2 d .configClosed s t ∧ KeepsPrograms s t ∧ (t.chan d).gated = (s.chan d).gated
      else if s.ssv.station = .safe then Replies h 2 d .refusedState s t ∧ KeepsPrograms s t ∧ (t.chan d).gated = (s.chan d).gated
      else if 4 ≤ b.channel.toNat then Replies h 2 d .badValue s t ∧ KeepsPrograms s t ∧ (t.chan d).gated = (s.chan d).gated
      else if (s.chan c).chc.state ≠ .idle ∧ (s.chan c).chc.state ≠ .lockout then
        Replies h 2 d (if d = c then .refusedState else .done) s t ∧ KeepsPrograms s t ∧ (t.chan d).gated = (s.chan d).gated
      else if 4 ≤ b.kind.toNat then Replies h 2 d (if d = c then .badValue else .done) s t ∧ KeepsPrograms s t ∧ (t.chan d).gated = (s.chan d).gated
      else
        Replies h 2 d .done s t ∧
        (t.chan c).cfg.kind =
          (if b.kind.toNat = 0 then .unused else if b.kind.toNat = 1 then .cycle
          else if b.kind.toNat = 2 then .slow else .burner) ∧
        (t.chan c).cfg.load = max 1 (min 1023 b.load.toNat) ∧
        (t.chan c).cfg.circuit = (if b.packed.getLsbD 7 then .b else .a) ∧
        (t.chan c).cfg.cls.val = b.packed.toNat / 16 % 4 ∧
        (t.chan c).cfg.gateMask.toNat =
          (if b.kind.toNat = 1 ∨ b.kind.toNat = 2 then b.packed.toNat % 16 else 0) ∧
        (t.chan c).cfg.period = max 10 (min 60 b.period.toNat) ∧
        (t.chan c).cfg.minSwitch =
          min (max 1 (min 15 b.minSwitch.toNat)) (max 10 (min 60 b.period.toNat) / 4) ∧
        (t.chan c).cfg.params = (s.chan c).cfg.params ∧
        (t.chan c).cfg.burnerTaken = (s.chan c).cfg.burnerTaken ∧
        (t.chan c).pgu.slots =
          (if b.kind.toNat = 3 then
            (s.chan c).pgu.slots.map fun x => x.map fun r => { r with level := min 9 r.level }
          else (s.chan c).pgu.slots) ∧
        (t.chan c).pgu.pointer = (s.chan c).pgu.pointer ∧ (t.chan c).driver = Driver.reset ∧ t.gib = s.gib ∧
        GatedAsConfigured t d

/-- R182, R183, R187: CONFIGURE_BURNER answers BAD_VALUE for a channel beyond 3, and is taken in every other case: the
eight parameters are stored, each clamped, the safety time raised to the spark time + 10; nothing else changes. -/
def Obligations.ConfigureBurnerStoresItsParameters : Prop :=
  ∀ (s : State) (h : CmdHeader) (channel : Byte) (b : BurnerBytes) (c d : Chan),
    Accepts h s → (channel.toNat < 4 → channel.toNat = c.val) →
    ∃ t, exec (.configureBurner h channel b) s = .next t ∧ KeepsClockwork s t ∧ t.rpu = s.rpu ∧
      (t.chan d).chc = (s.chan d).chc ∧ (t.chan d).pgu = (s.chan d).pgu ∧
      (t.chan d).burner = (s.chan d).burner ∧ (t.chan d).valve = (s.chan d).valve ∧ t.igu = s.igu ∧
      (d ≠ c → (t.chan d).cfg = (s.chan d).cfg) ∧
      if 4 ≤ channel.toNat then Replies h 3 d .badValue s t ∧ (t.chan c).cfg = (s.chan c).cfg
      else
        Replies h 3 d .done s t ∧
        (t.chan c).cfg =
          { (s.chan c).cfg with
            burnerTaken := true
            params :=
              { position := max 5 (min 9 b.position.toNat)
                attempts := max 1 (min 3 b.attempts.toNat)
                sparkTime := max 5 (min 30 b.sparkTime.toNat)
                safetyTime :=
                  max (max 20 (min 100 b.safetyTime.toNat)) (max 5 (min 30 b.sparkTime.toNat) + 10)
                purge := max 2 (min 30 b.purge.toNat)
                threshold := max 1 (min 15 b.threshold.toNat)
                wOn := max 2 (min 16 b.wOn.toNat)
                wOff := max 2 (min 16 b.wOff.toNat) } }

/-- R18, R191, R196: QUERY adds each named channel that is not in the STATE set to its tail, and CLEAR_FLAGS clears the
events-lost flag, the power-fail latch, and the clash flag where the clash-quiet count is 4; both answer DONE on every
channel.  A command with the own address as source has just set the clash flag (R17). -/
def Obligations.QueryAndClearFlags : Prop :=
  ∀ (s : State) (h : CmdHeader) (mask : Byte) (c d : Chan),
    Accepts h s →
    (∃ t, exec (.query h mask) s = .next t ∧ Replies h 11 c .done s t ∧
      t.lif.stateSet =
        s.lif.stateSet ++ [0, 1, 2, 3].filter (fun x => maskNames mask x && !s.lif.stateSet.contains x) ∧
      (d ∈ t.lif.stateSet ↔ d ∈ s.lif.stateSet ∨ maskNames mask d = true) ∧
      (s.lif.stateSet.Nodup → t.lif.stateSet.Nodup) ∧ KeepsPrograms s t ∧ t.rpu = s.rpu ∧
      t.configOpen = s.configOpen ∧ KeepsClockwork s t) ∧
    (∃ t, exec (.clearFlags h) s = .next t ∧ Replies h 12 c .done s t ∧
      t.ssv.powerFail = false ∧
      t.ssv.clash =
        (if h.source = s.ssv.address then true else if s.ssv.clashQuiet = 4 then false else s.ssv.clash) ∧
      t.rpu = { s.rpu with lost := false } ∧ t.lif.stateSet = s.lif.stateSet ∧ KeepsPrograms s t ∧
      t.apu.ownSendAge = s.apu.ownSendAge ∧ KeepsClockwork s t)

end
end

