-- ==== Sys2Proof/Laws/State.lean ====
section
/-! SUPPORT. The small lemmas of the state: what one channel reads after an update, and the fields that an update of a
channel, an event, a request or a recomputation leaves alone. -/

namespace Sys2Proof

@[simp] theorem Quad.get_set_self {α : Type} (q : Quad α) (c : Fin 4) (a : α) : (q.set c a).get c = a := by
  fin_cases c <;> rfl

@[simp] theorem Quad.get_set_ne {α : Type} (q : Quad α) (c d : Fin 4) (a : α) (h : d ≠ c) :
    (q.set c a).get d = q.get d := by
  fin_cases c <;> fin_cases d <;> first | rfl | exact absurd rfl h

@[simp] theorem Quad.get_ofFn {α : Type} (f : Fin 4 → α) (c : Fin 4) : (Quad.ofFn f).get c = f c := by
  fin_cases c <;> rfl

@[simp] theorem Quad.get_fill {α : Type} (a : α) (c : Fin 4) : (Quad.fill a).get c = a := by
  fin_cases c <;> rfl

theorem Quad.ext_get {α : Type} (p q : Quad α) (h : ∀ c, p.get c = q.get c) : p = q := by
  cases p; cases q
  have h0 := h 0; have h1 := h 1; have h2 := h 2; have h3 := h 3
  simp only [Quad.get] at h0 h1 h2 h3
  simp [h0, h1, h2, h3]

namespace Machine

/-! ### One channel -/

@[simp] theorem State.chan_setChan_self (s : State) (c : Chan) (ch : Channel) : (s.setChan c ch).chan c = ch := by
  simp [State.chan, State.setChan]

@[simp] theorem State.chan_setChan_ne (s : State) (c d : Chan) (ch : Channel) (h : d ≠ c) :
    (s.setChan c ch).chan d = s.chan d := by
  simp [State.chan, State.setChan, h]

@[simp] theorem State.chan_mapChan_self (s : State) (c : Chan) (f : Channel → Channel) :
    (s.mapChan c f).chan c = f (s.chan c) := by
  simp [State.mapChan]

@[simp] theorem State.chan_mapChan_ne (s : State) (c d : Chan) (f : Channel → Channel) (h : d ≠ c) :
    (s.mapChan c f).chan d = s.chan d := by
  simp [State.mapChan, h]

@[simp] theorem chan_mapChans (f : Channel → Channel) (s : State) (c : Chan) :
    (mapChans f s).chan c = f (s.chan c) := by
  simp [mapChans, State.chan]

@[simp] theorem State.mapChan_mtb (s : State) (c : Chan) (f : Channel → Channel) : (s.mapChan c f).mtb = s.mtb := rfl
@[simp] theorem State.mapChan_ssv (s : State) (c : Chan) (f : Channel → Channel) : (s.mapChan c f).ssv = s.ssv := rfl
@[simp] theorem State.mapChan_lastStarted (s : State) (c : Chan) (f : Channel → Channel) : (s.mapChan c f).lastStarted = s.lastStarted := rfl
@[simp] theorem State.mapChan_igu (s : State) (c : Chan) (f : Channel → Channel) : (s.mapChan c f).igu = s.igu := rfl
@[simp] theorem State.mapChan_gib (s : State) (c : Chan) (f : Channel → Channel) : (s.mapChan c f).gib = s.gib := rfl
@[simp] theorem State.mapChan_lif (s : State) (c : Chan) (f : Channel → Channel) : (s.mapChan c f).lif = s.lif := rfl
@[simp] theorem State.mapChan_rpu (s : State) (c : Chan) (f : Channel → Channel) : (s.mapChan c f).rpu = s.rpu := rfl
@[simp] theorem State.mapChan_configOpen (s : State) (c : Chan) (f : Channel → Channel) : (s.mapChan c f).configOpen = s.configOpen := rfl
@[simp] theorem State.mapChan_stationConfigured (s : State) (c : Chan) (f : Channel → Channel) : (s.mapChan c f).stationConfigured = s.stationConfigured := rfl
@[simp] theorem State.mapChan_held (s : State) (c : Chan) (f : Channel → Channel) : (s.mapChan c f).held = s.held := rfl
@[simp] theorem State.mapChan_pins (s : State) (c : Chan) (f : Channel → Channel) : (s.mapChan c f).pins = s.pins := rfl
@[simp] theorem State.mapChan_taken (s : State) (c : Chan) (f : Channel → Channel) : (s.mapChan c f).taken = s.taken := rfl
@[simp] theorem State.mapChan_sparkRead (s : State) (c : Chan) (f : Channel → Channel) : (s.mapChan c f).sparkRead = s.sparkRead := rfl
@[simp] theorem State.mapChan_clockTaken (s : State) (c : Chan) (f : Channel → Channel) : (s.mapChan c f).clockTaken = s.clockTaken := rfl
@[simp] theorem State.mapChan_eventsNew (s : State) (c : Chan) (f : Channel → Channel) : (s.mapChan c f).eventsNew = s.eventsNew := rfl
@[simp] theorem State.mapChan_pending (s : State) (c : Chan) (f : Channel → Channel) : (s.mapChan c f).pending = s.pending := rfl
@[simp] theorem State.mapChan_apu (s : State) (c : Chan) (f : Channel → Channel) : (s.mapChan c f).apu = s.apu := rfl

@[simp] theorem mapChans_mtb (f : Channel → Channel) (s : State) : (mapChans f s).mtb = s.mtb := rfl
@[simp] theorem mapChans_ssv (f : Channel → Channel) (s : State) : (mapChans f s).ssv = s.ssv := rfl
@[simp] theorem mapChans_lastStarted (f : Channel → Channel) (s : State) : (mapChans f s).lastStarted = s.lastStarted := rfl
@[simp] theorem mapChans_igu (f : Channel → Channel) (s : State) : (mapChans f s).igu = s.igu := rfl
@[simp] theorem mapChans_gib (f : Channel → Channel) (s : State) : (mapChans f s).gib = s.gib := rfl
@[simp] theorem mapChans_lif (f : Channel → Channel) (s : State) : (mapChans f s).lif = s.lif := rfl
@[simp] theorem mapChans_rpu (f : Channel → Channel) (s : State) : (mapChans f s).rpu = s.rpu := rfl
@[simp] theorem mapChans_configOpen (f : Channel → Channel) (s : State) : (mapChans f s).configOpen = s.configOpen := rfl
@[simp] theorem mapChans_stationConfigured (f : Channel → Channel) (s : State) : (mapChans f s).stationConfigured = s.stationConfigured := rfl
@[simp] theorem mapChans_held (f : Channel → Channel) (s : State) : (mapChans f s).held = s.held := rfl
@[simp] theorem mapChans_pins (f : Channel → Channel) (s : State) : (mapChans f s).pins = s.pins := rfl
@[simp] theorem mapChans_taken (f : Channel → Channel) (s : State) : (mapChans f s).taken = s.taken := rfl
@[simp] theorem mapChans_sparkRead (f : Channel → Channel) (s : State) : (mapChans f s).sparkRead = s.sparkRead := rfl
@[simp] theorem mapChans_clockTaken (f : Channel → Channel) (s : State) : (mapChans f s).clockTaken = s.clockTaken := rfl
@[simp] theorem mapChans_eventsNew (f : Channel → Channel) (s : State) : (mapChans f s).eventsNew = s.eventsNew := rfl
@[simp] theorem mapChans_pending (f : Channel → Channel) (s : State) : (mapChans f s).pending = s.pending := rfl
@[simp] theorem mapChans_apu (f : Channel → Channel) (s : State) : (mapChans f s).apu = s.apu := rfl

/-- The four channels of `forChans` are taken in rising order. -/
theorem forChans_eq (f : Chan → State → State) (s : State) : forChans f s = f 3 (f 2 (f 1 (f 0 s))) := rfl

/-- What every channel's turn keeps, `forChans` keeps. -/
theorem forChans_keeps (P : State → Prop) (f : Chan → State → State) (h : ∀ c s, P s → P (f c s)) (s : State)
    (hs : P s) : P (forChans f s) := h _ _ (h _ _ (h _ _ (h _ _ hs)))

/-! ### Events and requests -/

@[simp] theorem raise_mtb (e : EventRecord) (s : State) : (raise e s).mtb = s.mtb := by
  unfold raise; split <;> rfl
@[simp] theorem raise_ssv (e : EventRecord) (s : State) : (raise e s).ssv = s.ssv := by
  unfold raise; split <;> rfl
@[simp] theorem raise_lastStarted (e : EventRecord) (s : State) : (raise e s).lastStarted = s.lastStarted := by
  unfold raise; split <;> rfl
@[simp] theorem raise_igu (e : EventRecord) (s : State) : (raise e s).igu = s.igu := by
  unfold raise; split <;> rfl
@[simp] theorem raise_gib (e : EventRecord) (s : State) : (raise e s).gib = s.gib := by
  unfold raise; split <;> rfl
@[simp] theorem raise_lif (e : EventRecord) (s : State) : (raise e s).lif = s.lif := by
  unfold raise; split <;> rfl
@[simp] theorem raise_configOpen (e : EventRecord) (s : State) : (raise e s).configOpen = s.configOpen := by
  unfold raise; split <;> rfl
@[simp] theorem raise_stationConfigured (e : EventRecord) (s : State) : (raise e s).stationConfigured = s.stationConfigured := by
  unfold raise; split <;> rfl
@[simp] theorem raise_held (e : EventRecord) (s : State) : (raise e s).held = s.held := by
  unfold raise; split <;> rfl
@[simp] theorem raise_pins (e : EventRecord) (s : State) : (raise e s).pins = s.pins := by
  unfold raise; split <;> rfl
@[simp] theorem raise_taken (e : EventRecord) (s : State) : (raise e s).taken = s.taken := by
  unfold raise; split <;> rfl
@[simp] theorem raise_sparkRead (e : EventRecord) (s : State) : (raise e s).sparkRead = s.sparkRead := by
  unfold raise; split <;> rfl
@[simp] theorem raise_clockTaken (e : EventRecord) (s : State) : (raise e s).clockTaken = s.clockTaken := by
  unfold raise; split <;> rfl
@[simp] theorem raise_eventsNew (e : EventRecord) (s : State) : (raise e s).eventsNew = s.eventsNew := by
  unfold raise; split <;> rfl
@[simp] theorem raise_pending (e : EventRecord) (s : State) : (raise e s).pending = s.pending := by
  unfold raise; split <;> rfl
@[simp] theorem raise_apu (e : EventRecord) (s : State) : (raise e s).apu = s.apu := by
  unfold raise; split <;> rfl
@[simp] theorem raise_chans (e : EventRecord) (s : State) : (raise e s).chans = s.chans := by
  unfold raise; split <;> rfl
@[simp] theorem raise_chan (e : EventRecord) (s : State) (c : Chan) : (raise e s).chan c = s.chan c := by
  simp [State.chan]
@[simp] theorem raiseFor_chan (d : Chan) (k : EventKind) (p : Nat) (s : State) (c : Chan) :
    (raiseFor d k p s).chan c = s.chan c := by
  simp [raiseFor]

/-- The event queue after an event: it joins a queue of fewer than 8 records, and is discarded with the flag set otherwise
(R193, R194). -/
theorem raise_rpu (e : EventRecord) (s : State) :
    (raise e s).rpu =
      if s.rpu.events.length < 8 then { s.rpu with events := s.rpu.events ++ [e] } else { s.rpu with lost := true } := by
  unfold raise Config.eventCapacity; split <;> rfl

/-- The event queue never exceeds 8 records by an event. -/
theorem raise_events_length (e : EventRecord) (s : State) (h : s.rpu.events.length ≤ 8) :
    (raise e s).rpu.events.length ≤ 8 := by
  rw [raise_rpu]; split <;> simp <;> omega

/-- Events that several channels raise together reach the event queue and nothing else (R195). -/
theorem raiseInTurn_keeps (order : List Chan) (s t : State) :
    ∃ r : Rpu, raiseInTurn order s t = { t with rpu := r } := by
  have key : ∀ (es : List EventRecord) (r : Rpu),
      ∃ r' : Rpu, es.foldl (fun u e => raise e u) { t with rpu := r } = { t with rpu := r' } := by
    intro es
    induction es with
    | nil => exact fun r => ⟨r, rfl⟩
    | cons e es ih =>
      intro r
      have h : ∃ r1 : Rpu, raise e { t with rpu := r } = { t with rpu := r1 } := by
        unfold raise; split <;> exact ⟨_, rfl⟩
      obtain ⟨r1, h1⟩ := h
      obtain ⟨r2, h2⟩ := ih r1
      exact ⟨r2, by rw [List.foldl_cons, h1, h2]⟩
  exact key _ _

@[simp] theorem raiseInTurn_chan (order : List Chan) (s t : State) (c : Chan) :
    (raiseInTurn order s t).chan c = t.chan c := by
  obtain ⟨r, h⟩ := raiseInTurn_keeps order s t; rw [h]; rfl

@[simp] theorem raiseInTurn_chans (order : List Chan) (s t : State) : (raiseInTurn order s t).chans = t.chans := by
  obtain ⟨r, h⟩ := raiseInTurn_keeps order s t; rw [h]

/-- With no turns given, records reach the queue as they were raised. -/
@[simp] theorem inTurn_nil (es : List EventRecord) : inTurn [] es = es := rfl

/-- Turns move records, and neither lose nor repeat one. -/
theorem inTurn_perm (order : List Chan) (es : List EventRecord) : (inTurn order es).Perm es := by
  induction order generalizing es with
  | nil => exact List.Perm.refl _
  | cons c rest ih =>
    unfold inTurn
    cases h : es.find? fun e => e.channel == some c with
    | none =>
      have : es.eraseP (fun e => e.channel == some c) = es :=
        List.eraseP_of_forall_not (by simpa using h)
      simpa [this] using ih es
    | some e =>
      obtain ⟨he, as, bs, rfl, hn⟩ := List.find?_eq_some_iff_append.mp h
      have : (as ++ e :: bs).eraseP (fun e => e.channel == some c) = as ++ bs := by
        rw [List.eraseP_append_right _ (by simpa using hn)]; simp [he]
      rw [this]
      exact ((ih (as ++ bs)).cons e).trans List.perm_middle.symm

@[simp] theorem setAside_chan (s : State) (c : Chan) : (setAside s).chan c = s.chan c := rfl
@[simp] theorem setAside_events (s : State) : (setAside s).rpu = { events := [], lost := false } := rfl

@[simp] theorem makeRequest_mtb (s : State) : (makeRequest s).mtb = s.mtb := by
  unfold makeRequest; split <;> rfl
@[simp] theorem makeRequest_ssv (s : State) : (makeRequest s).ssv = s.ssv := by
  unfold makeRequest; split <;> rfl
@[simp] theorem makeRequest_lastStarted (s : State) : (makeRequest s).lastStarted = s.lastStarted := by
  unfold makeRequest; split <;> rfl
@[simp] theorem makeRequest_igu (s : State) : (makeRequest s).igu = s.igu := by
  unfold makeRequest; split <;> rfl
@[simp] theorem makeRequest_gib (s : State) : (makeRequest s).gib = s.gib := by
  unfold makeRequest; split <;> rfl
@[simp] theorem makeRequest_lif (s : State) : (makeRequest s).lif = s.lif := by
  unfold makeRequest; split <;> rfl
@[simp] theorem makeRequest_rpu (s : State) : (makeRequest s).rpu = s.rpu := by
  unfold makeRequest; split <;> rfl
@[simp] theorem makeRequest_configOpen (s : State) : (makeRequest s).configOpen = s.configOpen := by
  unfold makeRequest; split <;> rfl
@[simp] theorem makeRequest_stationConfigured (s : State) : (makeRequest s).stationConfigured = s.stationConfigured := by
  unfold makeRequest; split <;> rfl
@[simp] theorem makeRequest_held (s : State) : (makeRequest s).held = s.held := by
  unfold makeRequest; split <;> rfl
@[simp] theorem makeRequest_pins (s : State) : (makeRequest s).pins = s.pins := by
  unfold makeRequest; split <;> rfl
@[simp] theorem makeRequest_taken (s : State) : (makeRequest s).taken = s.taken := by
  unfold makeRequest; split <;> rfl
@[simp] theorem makeRequest_sparkRead (s : State) : (makeRequest s).sparkRead = s.sparkRead := by
  unfold makeRequest; split <;> rfl
@[simp] theorem makeRequest_clockTaken (s : State) : (makeRequest s).clockTaken = s.clockTaken := by
  unfold makeRequest; split <;> rfl
@[simp] theorem makeRequest_eventsNew (s : State) : (makeRequest s).eventsNew = s.eventsNew := by
  unfold makeRequest; split <;> rfl
@[simp] theorem makeRequest_pending (s : State) : (makeRequest s).pending = s.pending := by
  unfold makeRequest; split <;> rfl
@[simp] theorem makeRequest_chans (s : State) : (makeRequest s).chans = s.chans := by
  unfold makeRequest; split <;> rfl
@[simp] theorem makeRequest_chan (s : State) (c : Chan) : (makeRequest s).chan c = s.chan c := by simp [State.chan]

/-! ### The recomputation -/

@[simp] theorem declareDemands_mtb (s : State) : (declareDemands s).mtb = s.mtb := by
  unfold declareDemands; dsimp only; split <;> simp
@[simp] theorem recompute_mtb (s : State) : (recompute s).mtb = s.mtb := by
  simp [recompute]
@[simp] theorem declareDemands_ssv (s : State) : (declareDemands s).ssv = s.ssv := by
  unfold declareDemands; dsimp only; split <;> simp
@[simp] theorem recompute_ssv (s : State) : (recompute s).ssv = s.ssv := by
  simp [recompute]
@[simp] theorem declareDemands_lastStarted (s : State) : (declareDemands s).lastStarted = s.lastStarted := by
  unfold declareDemands; dsimp only; split <;> simp
@[simp] theorem recompute_lastStarted (s : State) : (recompute s).lastStarted = s.lastStarted := by
  simp [recompute]
@[simp] theorem declareDemands_igu (s : State) : (declareDemands s).igu = s.igu := by
  unfold declareDemands; dsimp only; split <;> simp
@[simp] theorem recompute_igu (s : State) : (recompute s).igu = s.igu := by
  simp [recompute]
@[simp] theorem declareDemands_gib (s : State) : (declareDemands s).gib = s.gib := by
  unfold declareDemands; dsimp only; split <;> simp
@[simp] theorem recompute_gib (s : State) : (recompute s).gib = s.gib := by
  simp [recompute]
@[simp] theorem declareDemands_lif (s : State) : (declareDemands s).lif = s.lif := by
  unfold declareDemands; dsimp only; split <;> simp
@[simp] theorem recompute_lif (s : State) : (recompute s).lif = s.lif := by
  simp [recompute]
@[simp] theorem declareDemands_rpu (s : State) : (declareDemands s).rpu = s.rpu := by
  unfold declareDemands; dsimp only; split <;> simp
@[simp] theorem recompute_rpu (s : State) : (recompute s).rpu = s.rpu := by
  simp [recompute]
@[simp] theorem declareDemands_configOpen (s : State) : (declareDemands s).configOpen = s.configOpen := by
  unfold declareDemands; dsimp only; split <;> simp
@[simp] theorem recompute_configOpen (s : State) : (recompute s).configOpen = s.configOpen := by
  simp [recompute]
@[simp] theorem declareDemands_stationConfigured (s : State) : (declareDemands s).stationConfigured = s.stationConfigured := by
  unfold declareDemands; dsimp only; split <;> simp
@[simp] theorem recompute_stationConfigured (s : State) : (recompute s).stationConfigured = s.stationConfigured := by
  simp [recompute]
@[simp] theorem declareDemands_held (s : State) : (declareDemands s).held = s.held := by
  unfold declareDemands; dsimp only; split <;> simp
@[simp] theorem recompute_held (s : State) : (recompute s).held = s.held := by
  simp [recompute]
@[simp] theorem declareDemands_pins (s : State) : (declareDemands s).pins = s.pins := by
  unfold declareDemands; dsimp only; split <;> simp
@[simp] theorem recompute_pins (s : State) : (recompute s).pins = s.pins := by
  simp [recompute]
@[simp] theorem declareDemands_taken (s : State) : (declareDemands s).taken = s.taken := by
  unfold declareDemands; dsimp only; split <;> simp
@[simp] theorem declareDemands_sparkRead (s : State) : (declareDemands s).sparkRead = s.sparkRead := by
  unfold declareDemands; dsimp only; split <;> simp
@[simp] theorem recompute_taken (s : State) : (recompute s).taken = s.taken := by
  simp [recompute]
@[simp] theorem recompute_sparkRead (s : State) : (recompute s).sparkRead = s.sparkRead := by
  simp [recompute]
@[simp] theorem declareDemands_clockTaken (s : State) : (declareDemands s).clockTaken = s.clockTaken := by
  unfold declareDemands; dsimp only; split <;> simp
@[simp] theorem declareDemands_eventsNew (s : State) : (declareDemands s).eventsNew = s.eventsNew := by
  unfold declareDemands; dsimp only; split <;> simp
@[simp] theorem recompute_clockTaken (s : State) : (recompute s).clockTaken = s.clockTaken := by
  simp [recompute]
@[simp] theorem recompute_eventsNew (s : State) : (recompute s).eventsNew = s.eventsNew := by
  simp [recompute]
@[simp] theorem declareDemands_pending (s : State) : (declareDemands s).pending = s.pending := by
  unfold declareDemands; dsimp only; split <;> simp
@[simp] theorem recompute_pending (s : State) : (recompute s).pending = s.pending := by
  simp [recompute]
theorem declareDemands_chan_chc (s : State) (c : Chan) :
    ((declareDemands s).chan c).chc = (s.chan c).chc := by
  unfold declareDemands; dsimp only; split <;> simp [State.chan, declareDemand]
@[simp] theorem recompute_chan_chc (s : State) (c : Chan) : ((recompute s).chan c).chc = (s.chan c).chc := by
  have h := declareDemands_chan_chc s c
  simpa [recompute, State.chan, settleChannel] using h
theorem declareDemands_chan_pgu (s : State) (c : Chan) :
    ((declareDemands s).chan c).pgu = (s.chan c).pgu := by
  unfold declareDemands; dsimp only; split <;> simp [State.chan, declareDemand]
@[simp] theorem recompute_chan_pgu (s : State) (c : Chan) : ((recompute s).chan c).pgu = (s.chan c).pgu := by
  have h := declareDemands_chan_pgu s c
  simpa [recompute, State.chan, settleChannel] using h
theorem declareDemands_chan_cfg (s : State) (c : Chan) :
    ((declareDemands s).chan c).cfg = (s.chan c).cfg := by
  unfold declareDemands; dsimp only; split <;> simp [State.chan, declareDemand]
@[simp] theorem recompute_chan_cfg (s : State) (c : Chan) : ((recompute s).chan c).cfg = (s.chan c).cfg := by
  have h := declareDemands_chan_cfg s c
  simpa [recompute, State.chan, settleChannel] using h
theorem declareDemands_chan_burner (s : State) (c : Chan) :
    ((declareDemands s).chan c).burner = (s.chan c).burner := by
  unfold declareDemands; dsimp only; split <;> simp [State.chan, declareDemand]
@[simp] theorem recompute_chan_burner (s : State) (c : Chan) : ((recompute s).chan c).burner = (s.chan c).burner := by
  have h := declareDemands_chan_burner s c
  simpa [recompute, State.chan, settleChannel] using h
theorem declareDemands_chan_valve (s : State) (c : Chan) :
    ((declareDemands s).chan c).valve = (s.chan c).valve := by
  unfold declareDemands; dsimp only; split <;> simp [State.chan, declareDemand]
@[simp] theorem recompute_chan_valve (s : State) (c : Chan) : ((recompute s).chan c).valve = (s.chan c).valve := by
  have h := declareDemands_chan_valve s c
  simpa [recompute, State.chan, settleChannel] using h
theorem declareDemands_chan_gated (s : State) (c : Chan) :
    ((declareDemands s).chan c).gated = (s.chan c).gated := by
  unfold declareDemands; dsimp only; split <;> simp [State.chan, declareDemand]
@[simp] theorem recompute_chan_gated (s : State) (c : Chan) : ((recompute s).chan c).gated = (s.chan c).gated := by
  have h := declareDemands_chan_gated s c
  simpa [recompute, State.chan, settleChannel] using h
theorem declareDemands_chan_lockoutBit (s : State) (c : Chan) :
    ((declareDemands s).chan c).lockoutBit = (s.chan c).lockoutBit := by
  unfold declareDemands; dsimp only; split <;> simp [State.chan, declareDemand]
@[simp] theorem recompute_chan_lockoutBit (s : State) (c : Chan) : ((recompute s).chan c).lockoutBit = (s.chan c).lockoutBit := by
  have h := declareDemands_chan_lockoutBit s c
  simpa [recompute, State.chan, settleChannel] using h
theorem declareDemands_apu_peers (s : State) : (declareDemands s).apu.peers = s.apu.peers := by
  unfold declareDemands makeRequest; dsimp only; split <;> (try split) <;> rfl
@[simp] theorem recompute_apu_peers (s : State) : (recompute s).apu.peers = s.apu.peers := declareDemands_apu_peers s
theorem declareDemands_apu_interval (s : State) : (declareDemands s).apu.interval = s.apu.interval := by
  unfold declareDemands makeRequest; dsimp only; split <;> (try split) <;> rfl
@[simp] theorem recompute_apu_interval (s : State) : (recompute s).apu.interval = s.apu.interval := declareDemands_apu_interval s
theorem declareDemands_apu_ownSendAge (s : State) : (declareDemands s).apu.ownSendAge = s.apu.ownSendAge := by
  unfold declareDemands makeRequest; dsimp only; split <;> (try split) <;> rfl
@[simp] theorem recompute_apu_ownSendAge (s : State) : (recompute s).apu.ownSendAge = s.apu.ownSendAge := declareDemands_apu_ownSendAge s
theorem declareDemands_apu_budgetA (s : State) : (declareDemands s).apu.budgetA = s.apu.budgetA := by
  unfold declareDemands makeRequest; dsimp only; split <;> (try split) <;> rfl
@[simp] theorem recompute_apu_budgetA (s : State) : (recompute s).apu.budgetA = s.apu.budgetA := declareDemands_apu_budgetA s
theorem declareDemands_apu_budgetB (s : State) : (declareDemands s).apu.budgetB = s.apu.budgetB := by
  unfold declareDemands makeRequest; dsimp only; split <;> (try split) <;> rfl
@[simp] theorem recompute_apu_budgetB (s : State) : (recompute s).apu.budgetB = s.apu.budgetB := declareDemands_apu_budgetB s

end Machine

end Sys2Proof
end

