-- ==== Sys2Proof/Laws/Ops.lean ====
section
/-! SUPPORT. What the shared operations can do, said once: the frame of a command, the acceptance of a COMMAND, the
ignition queue, and the start and the end of a program. -/

namespace Sys2Proof.Machine

/-! ### Commands -/

/-- Everything a command can answer: the state itself while the supply is below the threshold, `f` of it otherwise, with
the note on the event queue. -/
theorem live_next (f : State → State) (s t : State) :
    live f s = .next t ↔ t = if s.held then s else { f s with eventsNew := s.rpu.events.isEmpty } := by
  unfold live
  constructor
  · intro h; cases h; rfl
  · rintro rfl; rfl

@[simp] theorem live_powered (f : State → State) (s : State) (h : s.held = false) :
    live f s = .next { f s with eventsNew := s.rpu.events.isEmpty } := by
  simp [live, h]

@[simp] theorem onlyIf_true (f : State → State) (s : State) : onlyIf true f s = f s := rfl

@[simp] theorem onlyIf_false (f : State → State) (s : State) : onlyIf false f s = s := rfl

/-- What `f` keeps, `f` under a condition keeps. -/
theorem onlyIf_keeps (P : State → Prop) (p : Bool) (f : State → State) (s : State) (hs : P s) (h : P (f s)) :
    P (onlyIf p f s) := by
  cases p
  · exact hs
  · exact h

/-- A frame is taken where the line interface can take one, after the clash check. -/
theorem takeFrame_receptive (source : Address) (f : State → State) (s : State) (h : receptive s = true) :
    takeFrame source f s = f (noteClash source (setLine .closed s)) := by
  simp [takeFrame, h]

/-- What the clash check leaves alone in a channel. -/
theorem noteClash_chan (source : Address) (s : State) (c : Chan) :
    ((noteClash source s).chan c).chc = (s.chan c).chc ∧ ((noteClash source s).chan c).pgu = (s.chan c).pgu ∧
    ((noteClash source s).chan c).cfg = (s.chan c).cfg ∧ ((noteClash source s).chan c).burner = (s.chan c).burner ∧
    ((noteClash source s).chan c).valve = (s.chan c).valve ∧ ((noteClash source s).chan c).gated = (s.chan c).gated ∧
    ((noteClash source s).chan c).lockoutBit = (s.chan c).lockoutBit := by
  unfold noteClash
  split
  · dsimp only
    split
    · exact ⟨rfl, rfl, rfl, rfl, rfl, rfl, rfl⟩
    · refine ⟨?_, ?_, ?_, ?_, ?_, ?_, ?_⟩ <;> simp <;> rfl
  · exact ⟨rfl, rfl, rfl, rfl, rfl, rfl, rfl⟩

/-- A COMMAND that is accepted: the clash check, the effect, and the entry at the tail of the REPLY queue (R172). -/
theorem acceptCommand_accepted (h : CmdHeader) (code : Byte) (run : State → State × Quad Result) (s : State)
    (hm : addressMatches s.ssv.address h = true) (hr : receptive s = true) (hl : s.lif.replies.length < 4) :
    acceptCommand h code run s =
      pushReply ⟨h.source, code, (run (noteClash h.source (setLine .closed s))).2⟩
        (run (noteClash h.source (setLine .closed s))).1 := by
  have hl' : (noteClash h.source (setLine .closed s)).lif.replies.length < 4 := by
    unfold noteClash
    split
    · dsimp only
      split
      · exact hl
      · simpa [setLine] using hl
    · exact hl
  simp [acceptCommand, takeCommand, takeFrame, carryOut, replyRoom, Config.replyCapacity, hm, hr, hl']

/-- A named channel acts on the command by itself, and one that is not named answers DONE untouched (R46). -/
theorem actIfNamed_cases (mask : Byte) (act : ChannelAct) (c : Chan) (s : State) :
    (maskNames mask c = true ∧ actIfNamed mask act c s = act c s) ∨
    (maskNames mask c = false ∧ actIfNamed mask act c s = (s, .done)) := by
  cases h : maskNames mask c <;> simp [actIfNamed, h]

/-! ### Shares of a half-cycle -/

/-- A unit that has taken the half-cycle is passed over (R3). -/
@[simp] theorem deliver_taken (rising : Bool) (u : HalfCycleUnit) (s : State) (h : u ∈ s.taken) :
    deliver rising u s = s := by
  simp [deliver, h]

@[simp] theorem deliverOne_taken (rising : Bool) (u : HalfCycleUnit) (s : State) (h : u ∈ s.taken) :
    deliverOne rising u s = s := by
  simp [deliverOne, h]

/-- Shares that have all been taken are passed over. -/
theorem foldl_deliverOne_taken (rising : Bool) (us : List HalfCycleUnit) (s : State) (h : ∀ v ∈ us, v ∈ s.taken) :
    us.foldl (fun s v => deliverOne rising v s) s = s := by
  induction us with
  | nil => rfl
  | cons v vs ih =>
    rw [List.foldl_cons, deliverOne_taken _ _ _ (h v (by simp))]
    exact ih fun w hw => h w (by simp [hw])

/-- Where the shares that come before `u` have been taken, or there are none, nothing leads `u`'s. -/
theorem lead_of_taken (rising : Bool) (u : HalfCycleUnit) (s : State) (h : ∀ v ∈ earlierShares u, v ∈ s.taken) :
    lead rising u s = s := foldl_deliverOne_taken rising _ s h

/-- Where the shares that come after `u` have been taken, or there are none, nothing trails `u`'s. -/
theorem trail_of_taken (rising : Bool) (u : HalfCycleUnit) (s : State) (h : ∀ v ∈ companions u, v ∈ s.taken) :
    trail rising u s = s := foldl_deliverOne_taken rising _ s h

/-- What one share does: the unit's effect, the unit marked, and beside it what began with it. -/
theorem deliverOne_untaken (rising : Bool) (u : HalfCycleUnit) (s : State) (h : u ∉ s.taken) :
    deliverOne rising u s =
      { unitShare rising u s with taken := u :: (begun s (unitShare rising u s) ++ s.taken) } := by
  simp [deliverOne, h]

/-- A unit that shares its event with no other, and one whose companions have taken theirs, is delivered alone. -/
theorem deliverEvent_alone (rising : Bool) (u : HalfCycleUnit) (s : State)
    (h : ∀ v ∈ companions u, v ∈ (deliverOne rising u s).taken) :
    deliverEvent rising u s = deliverOne rising u s := trail_of_taken rising u _ h

/-- A unit to which its share is given has taken it. -/
@[simp] theorem mem_deliverOne_taken (rising : Bool) (u : HalfCycleUnit) (s : State) :
    u ∈ (deliverOne rising u s).taken := by
  by_cases h : u ∈ s.taken <;> simp [deliverOne, h]

/-- What a reading of the pins changes: the input pins, but for a SPK_SENSE that has been read (R128). -/
theorem withInputs_eq (pins : InputPins) (s : State) :
    withInputs pins s =
      { s with pins := { s.pins with inputs := { pins with spark := s.sparkRead.getD pins.spark } } } := rfl

@[simp] theorem withInputs_chan (pins : InputPins) (s : State) (c : Chan) : (withInputs pins s).chan c = s.chan c := rfl
@[simp] theorem withInputs_taken (pins : InputPins) (s : State) : (withInputs pins s).taken = s.taken := rfl
@[simp] theorem withInputs_sparkRead (pins : InputPins) (s : State) : (withInputs pins s).sparkRead = s.sparkRead := rfl

/-- A second reading of the pins within one half-cycle finds SPK_SENSE as the first did (R128). -/
theorem withInputs_reads_spark_once (pins : InputPins) (s : State) (x : Bool) (h : s.sparkRead = some x) :
    (withInputs pins s).pins.inputs.spark = x := by
  simp [withInputs, levelsRead, h]

/-- Noting a reading changes the note alone. -/
@[simp] theorem noteSpark_chan (u : HalfCycleUnit) (s : State) (c : Chan) : (noteSpark u s).chan c = s.chan c := by
  cases u <;> rfl

/-- Everything a row that reads no pin can do: the unit's event where it is due, and nothing otherwise. -/
theorem takeShare_cases (u : HalfCycleUnit) (due : State → Bool) (s t : State)
    (h : t = lead (comingRising s) u s) :
    (mayTake u t = true ∧ due t = true ∧ takeShare u due s = deliverEvent (comingRising s) u t) ∨
    ((mayTake u t && due t) = false ∧ takeShare u due s = s) := by
  subst h
  unfold takeShare
  cases h : mayTake u (lead (comingRising s) u s) <;> cases k : due (lead (comingRising s) u s) <;> simp [h, k]

/-- Everything a share that reads the pins can do: the share after those that lead it, with SPK_SENSE noted, where it is
due, and nothing otherwise. -/
theorem takeShareWith_cases (pins : InputPins) (u : HalfCycleUnit) (due : State → Bool) (s t : State)
    (h : t = lead (comingRising s) u (withInputs pins s)) :
    (mayTake u t = true ∧ due t = true ∧
      takeShareWith pins u due s = noteSpark u (deliverEvent (comingRising s) u t)) ∨
    ((mayTake u t && due t) = false ∧ takeShareWith pins u due s = s) := by
  subst h
  unfold takeShareWith
  cases h : mayTake u (lead (comingRising s) u (withInputs pins s)) <;>
    cases k : due (lead (comingRising s) u (withInputs pins s)) <;> simp [h, k]

/-! ### The ignition queue -/

/-- A promotion moves no channel's controller, program, configuration, valve or drive. -/
theorem promote_chan (s : State) (c : Chan) :
    ((promote s).chan c).chc = (s.chan c).chc ∧ ((promote s).chan c).pgu = (s.chan c).pgu ∧
    ((promote s).chan c).cfg = (s.chan c).cfg ∧ ((promote s).chan c).valve = (s.chan c).valve ∧
    ((promote s).chan c).claim = (s.chan c).claim ∧ ((promote s).chan c).driver = (s.chan c).driver ∧
    ((promote s).chan c).gated = (s.chan c).gated ∧ ((promote s).chan c).lockoutBit = (s.chan c).lockoutBit ∧
    ((promote s).chan c).burner.supervising = (s.chan c).burner.supervising := by
  unfold promote
  split
  · rename_i d rest _ _
    by_cases hd : c = d
    · subst hd
      simp only [State.chan_mapChan_self]
      exact ⟨rfl, rfl, rfl, rfl, rfl, rfl, rfl, rfl, rfl⟩
    · simp only [State.chan_mapChan_ne _ _ _ _ hd]
      exact ⟨rfl, rfl, rfl, rfl, rfl, rfl, rfl, rfl, rfl⟩
  · exact ⟨rfl, rfl, rfl, rfl, rfl, rfl, rfl, rfl, rfl⟩

/-- A promotion changes nothing of the station but the ignition unit and the channels' burners. -/
theorem promote_station (s : State) :
    (promote s).mtb = s.mtb ∧ (promote s).ssv = s.ssv ∧ (promote s).apu = s.apu ∧ (promote s).gib = s.gib ∧
    (promote s).lif = s.lif ∧ (promote s).rpu = s.rpu ∧ (promote s).pending = s.pending ∧
    (promote s).igu.spark = s.igu.spark := by
  unfold promote
  split <;> exact ⟨rfl, rfl, rfl, rfl, rfl, rfl, rfl, rfl⟩

/-- Leaving ignition moves no channel's controller, program or configuration. -/
theorem leaveIgnition_chan (c d : Chan) (s : State) :
    ((leaveIgnition c s).chan d).chc = (s.chan d).chc ∧ ((leaveIgnition c s).chan d).pgu = (s.chan d).pgu ∧
    ((leaveIgnition c s).chan d).cfg = (s.chan d).cfg := by
  unfold leaveIgnition
  dsimp only
  have key : ∀ (s' : State), s'.chans = s.chans →
      ((s'.mapChan c fun ch => { ch with burner := ch.burner.outOfIgnition, valve := 0 }).chan d).chc =
        (s.chan d).chc ∧
      ((s'.mapChan c fun ch => { ch with burner := ch.burner.outOfIgnition, valve := 0 }).chan d).pgu =
        (s.chan d).pgu ∧
      ((s'.mapChan c fun ch => { ch with burner := ch.burner.outOfIgnition, valve := 0 }).chan d).cfg =
        (s.chan d).cfg := by
    intro s' hs
    have hd' : s'.chan d = s.chan d := by simp [State.chan, hs]
    by_cases hd : d = c
    · subst hd; simp [hd']
    · simp [hd, hd']
  split
  · exact ⟨rfl, rfl, rfl⟩
  · exact key _ rfl
  all_goals first
    | exact key _ rfl
    | (have k := key s rfl
       have p := promote_chan
         { (s.mapChan c fun ch => { ch with burner := ch.burner.outOfIgnition, valve := 0 }) with
           igu := { (s.mapChan c fun ch =>
             { ch with burner := ch.burner.outOfIgnition, valve := 0 }).igu with holder := none, spark := false } } d
       exact ⟨p.1.trans k.1, p.2.1.trans k.2.1, p.2.2.1.trans k.2.2⟩)

/-- A burner that gives up flame and ignition keeps its controller, its program and its configuration, and so does every
other channel (R56, R127, R140). -/
theorem quench_chan (c d : Chan) (s : State) :
    ((quench c s).chan d).chc = (s.chan d).chc ∧ ((quench c s).chan d).pgu = (s.chan d).pgu ∧
    ((quench c s).chan d).cfg = (s.chan d).cfg := by
  have h := leaveIgnition_chan c d s
  unfold quench
  by_cases hd : d = c
  · subst hd
    rw [State.chan_mapChan_self]
    exact h
  · rw [State.chan_mapChan_ne _ _ _ _ hd]
    exact h

/-- A quenched burner's valve is closed and its supervision has ended (R56, R140). -/
theorem quench_closed (c : Chan) (s : State) :
    ((quench c s).chan c).valve = 0 ∧ ((quench c s).chan c).burner.supervising = false := by
  unfold quench
  rw [State.chan_mapChan_self]
  exact ⟨rfl, rfl⟩

/-! ### Programs -/

/-- The end of a program (R33): the controller and the program state of the channel, its closed valve, and nothing of any
other channel's controller, program or configuration. -/
theorem endProgram_self (c : Chan) (cause : EndCause) (into : ChanState) (s : State) :
    ((endProgram c cause into s).chan c).chc =
      { state := into, causes := ⟨false, false⟩, target := none, endCause := cause } ∧
    ((endProgram c cause into s).chan c).pgu = (s.chan c).pgu.ended ∧
    ((endProgram c cause into s).chan c).cfg = (s.chan c).cfg ∧
    ((endProgram c cause into s).chan c).valve = 0 ∧
    ((endProgram c cause into s).chan c).burner.supervising = false := by
  have h := quench_chan c c (raiseFor c .programEnd cause.code s)
  have k := quench_closed c (raiseFor c .programEnd cause.code s)
  unfold endProgram
  rw [State.chan_mapChan_self]
  refine ⟨rfl, ?_, ?_, k.1, k.2⟩
  · show Pgu.ended _ = _
    rw [h.2.1, raiseFor_chan]
  · exact h.2.2.trans (by rw [raiseFor_chan])

theorem endProgram_other (c d : Chan) (cause : EndCause) (into : ChanState) (s : State) (hd : d ≠ c) :
    ((endProgram c cause into s).chan d).chc = (s.chan d).chc ∧
    ((endProgram c cause into s).chan d).pgu = (s.chan d).pgu ∧
    ((endProgram c cause into s).chan d).cfg = (s.chan d).cfg := by
  have h := quench_chan c d (raiseFor c .programEnd cause.code s)
  unfold endProgram
  rw [State.chan_mapChan_ne _ _ _ _ hd]
  simpa using h

/-- A half-cycle on a timer that is not at its end moves h and s alone (R27). -/
theorem countStep_cases (f : Option Frequency) (p : Pgu) :
    (p.phase + 1 < perSecond f ∧ p.countStep f = { p with phase := p.phase + 1 }) ∨
    (perSecond f ≤ p.phase + 1 ∧ p.countStep f = { p with phase := 0, seconds := p.seconds - 1 }) := by
  unfold Pgu.countStep
  split
  · exact .inl ⟨‹_›, rfl⟩
  · exact .inr ⟨by omega, rfl⟩

end Sys2Proof.Machine
end

