-- ==== Sys2Proof/Laws/Clock.lean ====
section
/-! SUPPORT. A share of a half-cycle neither reads nor moves the clock: the accepted sign, the filter, the spacing and the
timers of the time base, and the notes the model keeps beside them.  It reads the pins where its unit samples them, and
moves none.  So a share taken ahead of a crossing by a row is the share that the crossing delivers. -/

namespace Sys2Proof.Machine

/-- `s` with the clock of `m`, the pins `p` and the notes given. -/
def withClock (m : Mtb) (p : Pins) (k : Bool) (q : Option Bool) (e : Bool) (s : State) : State :=
  { s with
    mtb := { m with mode := s.mtb.mode, frequency := s.mtb.frequency, prescaler := s.mtb.prescaler }
    pins := p, clockTaken := k, sparkRead := q, eventsNew := e }

variable (m : Mtb) (p : Pins) (k : Bool) (q : Option Bool) (e : Bool)

/-- `f` does to a state with another clock what it does to the state. -/
abbrev KeepsClock (f : State → State) : Prop := ∀ s : State, f (withClock m p k q e s) = withClock m p k q e (f s)

theorem keepsClock_mapChan (c : Chan) (f : Channel → Channel) : KeepsClock m p k q e fun s => s.mapChan c f :=
  fun _ => rfl

theorem keepsClock_forChans (f : Chan → State → State) (h : ∀ c, KeepsClock m p k q e (f c)) :
    KeepsClock m p k q e (forChans f) := by
  intro s
  simp only [forChans, h _ _]

theorem keepsClock_raise (r : EventRecord) : KeepsClock m p k q e (raise r) := by
  intro s
  unfold raise
  rw [apply_ite (withClock m p k q e)]
  rfl

theorem keepsClock_raiseFor (c : Chan) (a : EventKind) (n : Nat) : KeepsClock m p k q e (raiseFor c a n) :=
  fun s => keepsClock_raise m p k q e _ s

theorem keepsClock_makeRequest : KeepsClock m p k q e makeRequest := by
  intro s
  unfold makeRequest
  rw [apply_ite (withClock m p k q e)]
  rfl

theorem keepsClock_declareDemands : KeepsClock m p k q e declareDemands := by
  intro s
  unfold declareDemands
  dsimp only
  rw [apply_ite (withClock m p k q e), ← keepsClock_makeRequest]
  rfl

theorem keepsClock_recompute : KeepsClock m p k q e recompute := by
  intro s
  unfold recompute
  rw [keepsClock_declareDemands]
  rfl

theorem keepsClock_promote : KeepsClock m p k q e promote := by
  intro s
  unfold promote
  have : (withClock m p k q e s).igu = s.igu := rfl
  rw [this]
  split <;> rfl

theorem keepsClock_joinQueue (c : Chan) : KeepsClock m p k q e (joinQueue c) := by
  intro s
  unfold joinQueue
  rw [← keepsClock_promote]
  rfl

theorem keepsClock_releaseUnit : KeepsClock m p k q e releaseUnit := by
  intro s
  unfold releaseUnit
  rw [← keepsClock_promote]
  rfl

theorem keepsClock_enterIgnition (c : Chan) (n : Nat) : KeepsClock m p k q e (enterIgnition c n) := by
  intro s
  unfold enterIgnition
  rw [← keepsClock_joinQueue]
  rfl

theorem keepsClock_leaveIgnition (c : Chan) : KeepsClock m p k q e (leaveIgnition c) := by
  intro s
  unfold leaveIgnition
  dsimp only
  have : (withClock m p k q e s).chan c = s.chan c := rfl
  rw [this]
  split <;> first | rfl | (rw [← keepsClock_releaseUnit]; rfl)

theorem keepsClock_quench (c : Chan) : KeepsClock m p k q e (quench c) := by
  intro s
  unfold quench
  rw [keepsClock_leaveIgnition]
  rfl

theorem keepsClock_endProgram (c : Chan) (a : EndCause) (b : ChanState) : KeepsClock m p k q e (endProgram c a b) := by
  intro s
  unfold endProgram
  rw [keepsClock_raiseFor, keepsClock_quench]
  rfl

theorem keepsClock_startSlot (c : Chan) (n : Slot) : KeepsClock m p k q e (startSlot c n) := by
  intro s
  unfold startSlot
  simp only [apply_ite (withClock m p k q e)]
  unfold enterIgnitionConfigured
  rw [← keepsClock_enterIgnition]
  rfl

theorem keepsClock_expireStep (c : Chan) (a : EndAction) : KeepsClock m p k q e (expireStep c a) := by
  intro s
  unfold expireStep
  rw [keepsClock_raiseFor]
  cases a
  · have : (withClock m p k q e s).chan c = s.chan c := rfl
    dsimp only
    rw [this]
    split
    · exact keepsClock_startSlot m p k q e _ _ _
    · exact keepsClock_endProgram m p k q e _ _ _ _
  · exact keepsClock_endProgram m p k q e _ _ _ _
  · rfl

theorem keepsClock_endDelay (c : Chan) : KeepsClock m p k q e (endDelay c) := by
  intro s
  unfold endDelay
  rw [keepsClock_raiseFor]
  have : (withClock m p k q e s).chan c = s.chan c := rfl
  dsimp only
  rw [this]
  split
  · exact keepsClock_startSlot m p k q e _ _ _
  · rfl

theorem keepsClock_programShare (c : Chan) : KeepsClock m p k q e (programShare c) := by
  intro s
  unfold programShare
  dsimp only
  simp only [apply_ite (withClock m p k q e), ← keepsClock_recompute m p k q e, expireByRecord,
    ← keepsClock_expireStep m p k q e, ← keepsClock_endDelay m p k q e]
  rfl

theorem keepsClock_lockOut (c : Chan) (a : EndCause) : KeepsClock m p k q e (lockOut c a) := by
  intro s
  have h : ∀ t : State, ((withClock m p k q e t).mapChan c fun ch => { ch with lockoutBit := true, valve := 0 }) =
      withClock m p k q e (t.mapChan c fun ch => { ch with lockoutBit := true, valve := 0 }) := fun _ => rfl
  unfold lockOut
  dsimp only
  rw [h, keepsClock_raiseFor, keepsClock_endProgram]
  rfl

theorem keepsClock_proveFlame (c : Chan) : KeepsClock m p k q e (proveFlame c) := by
  intro s
  unfold proveFlame
  rw [← keepsClock_releaseUnit]
  rfl

theorem keepsClock_failAttempt (c : Chan) : KeepsClock m p k q e (failAttempt c) := by
  intro s
  have h : ∀ t : State, ((withClock m p k q e t).mapChan c fun ch => { ch with valve := 0 }) =
      withClock m p k q e (t.mapChan c fun ch => { ch with valve := 0 }) := fun _ => rfl
  have h' : (withClock m p k q e s).chan c = s.chan c := rfl
  unfold failAttempt
  dsimp only
  rw [h, keepsClock_raiseFor, h', keepsClock_lockOut, apply_ite (withClock m p k q e), ← keepsClock_releaseUnit]
  rfl

theorem keepsClock_loseFlame (c : Chan) (n : Nat) : KeepsClock m p k q e (loseFlame c n) := by
  intro s
  unfold loseFlame
  rw [← keepsClock_enterIgnition, ← keepsClock_raiseFor]
  rfl

theorem keepsClock_applyIgnition (c : Chan) (o : IgnitionOutcome) : KeepsClock m p k q e (applyIgnition c o) := by
  intro s
  cases o <;> simp only [applyIgnition, keepsClock_lockOut m p k q e _ _ _, keepsClock_proveFlame m p k q e _ _,
    keepsClock_failAttempt m p k q e _ _, keepsClock_loseFlame m p k q e _ _ _, keepsClock_recompute m p k q e _] <;> rfl

theorem keepsClock_ignitionShare (c : Chan) (s : State) (h : p.inputs = s.pins.inputs) :
    ignitionShare c (withClock m p k q e s) = withClock m p k q e (ignitionShare c s) := by
  have h1 : ignitionStep (withClock m p k q e s) c = ignitionStep s c := by
    have a : (withClock m p k q e s).pins = p := rfl
    have b : (withClock m p k q e s).chan c = s.chan c := rfl
    have d : (withClock m p k q e s).mtb.frequency = s.mtb.frequency := rfl
    unfold ignitionStep flameSample
    simp only [a, b, d, h]
  unfold ignitionShare
  rw [h1, ← keepsClock_applyIgnition]
  rfl

theorem keepsClock_purgeSecond (c : Chan) : KeepsClock m p k q e (purgeSecond c) := by
  intro s
  unfold purgeSecond
  simp only [apply_ite (withClock m p k q e), ← keepsClock_joinQueue m p k q e]
  rfl

theorem keepsClock_purgeShare (c : Chan) : KeepsClock m p k q e (purgeShare c) := by
  intro s
  unfold purgeShare
  rw [apply_ite (withClock m p k q e), ← keepsClock_purgeSecond]
  rfl

theorem keepsClock_prescalerShare : KeepsClock m p k q e prescalerShare := by
  intro s
  unfold prescalerShare
  rw [apply_ite (withClock m p k q e), ← keepsClock_forChans m p k q e purgeShare (keepsClock_purgeShare m p k q e)]
  rfl

theorem keepsClock_clearLockout (c : Chan) : KeepsClock m p k q e (clearLockout c) := by
  intro s
  unfold clearLockout
  rw [apply_ite (withClock m p k q e), ← keepsClock_raise]
  rfl

theorem keepsClock_takeManualReset : KeepsClock m p k q e takeManualReset := by
  intro s
  unfold takeManualReset
  have : (withClock m p k q e s).igu = s.igu := rfl
  rw [this]
  split
  · rw [keepsClock_forChans m p k q e clearLockout (keepsClock_clearLockout m p k q e), keepsClock_recompute]
  · rfl

theorem keepsClock_manualShare (s : State) (h : p.inputs = s.pins.inputs) :
    manualShare (withClock m p k q e s) = withClock m p k q e (manualShare s) := by
  have a : (withClock m p k q e s).pins = p := rfl
  unfold manualShare
  dsimp only
  rw [a, h, apply_ite (withClock m p k q e), ← keepsClock_takeManualReset]
  rfl

theorem keepsClock_regate : KeepsClock m p k q e regate := by
  intro s
  unfold regate
  rw [apply_ite (withClock m p k q e), ← keepsClock_recompute]
  rfl

theorem keepsClock_doorEvent (g : Fin 4) (b : Bool) (c : Chan) : KeepsClock m p k q e (doorEvent g b c) := by
  intro s
  unfold doorEvent
  rw [apply_ite (withClock m p k q e), ← keepsClock_raiseFor]
  rfl

theorem keepsClock_doorEvents (x : Quad Bool) (y : Quad Gate) (g : Fin 4) :
    KeepsClock m p k q e (doorEvents x y g) := by
  intro s
  unfold doorEvents
  rw [apply_ite (withClock m p k q e),
    ← keepsClock_forChans m p k q e (doorEvent g (x.get g)) (keepsClock_doorEvent m p k q e g _)]

theorem keepsClock_gatesShare (s : State) (h : p.inputs = s.pins.inputs) :
    gatesShare (withClock m p k q e s) = withClock m p k q e (gatesShare s) := by
  have a : (withClock m p k q e s).pins = p := rfl
  have b : (withClock m p k q e s).gib = s.gib := rfl
  unfold gatesShare
  dsimp only
  rw [a, b, h, keepsClock_forChans m p k q e _ (keepsClock_doorEvents m p k q e _ _), ← keepsClock_regate]
  rfl

theorem keepsClock_endIfProgram (c : Chan) (a : EndCause) : KeepsClock m p k q e (endIfProgram c a) := by
  intro s
  unfold endIfProgram
  rw [apply_ite (withClock m p k q e), ← keepsClock_endProgram]
  rfl

theorem keepsClock_safeChannel (c : Chan) : KeepsClock m p k q e (safeChannel c) := by
  intro s
  unfold safeChannel
  rw [apply_ite (withClock m p k q e), ← keepsClock_endIfProgram]
  rfl

theorem keepsClock_enterSafe : KeepsClock m p k q e enterSafe := by
  intro s
  unfold enterSafe
  rw [apply_ite (withClock m p k q e), ← keepsClock_forChans m p k q e safeChannel (keepsClock_safeChannel m p k q e)]
  rfl

theorem keepsClock_disableChannel (c : Chan) : KeepsClock m p k q e (disableChannel c) := by
  intro s
  unfold disableChannel
  simp only [apply_ite (withClock m p k q e), ← keepsClock_endProgram m p k q e]
  rfl

theorem keepsClock_applyVerdict (c : Chan) (v : DriveVerdict) : KeepsClock m p k q e (applyVerdict c v) := by
  intro s
  cases v
  · rfl
  · simp only [applyVerdict, reportStuckOff, keepsClock_raiseFor m p k q e _ _ _ _,
      keepsClock_disableChannel m p k q e _ _, keepsClock_recompute m p k q e _]
  · simp only [applyVerdict, reportStuckOn, keepsClock_raiseFor m p k q e _ _ _ _,
      keepsClock_disableChannel m p k q e _ _, keepsClock_mapChan m p k q e _ _ _, keepsClock_enterSafe m p k q e _,
      keepsClock_makeRequest m p k q e _, keepsClock_recompute m p k q e _]
  · exact keepsClock_recompute m p k q e s

theorem keepsClock_driverShare (rising : Bool) (c : Chan) (s : State) (h : p.inputs = s.pins.inputs) :
    driverShare rising c (withClock m p k q e s) = withClock m p k q e (driverShare rising c s) := by
  have a : driverSample (withClock m p k q e s) c = driverSample s c := by
    have : (withClock m p k q e s).pins = p := rfl
    unfold driverSample
    rw [this, h]
    rfl
  have b : ∀ f : Channel → Channel, (withClock m p k q e s).mapChan c f = withClock m p k q e (s.mapChan c f) :=
    fun _ => rfl
  unfold driverShare
  dsimp only
  rw [a, b, apply_ite (withClock m p k q e), keepsClock_applyVerdict]
  rfl

theorem keepsClock_holdShare (c : Chan) : KeepsClock m p k q e (holdShare c) := by
  intro s
  unfold holdShare clearHold
  simp only [apply_ite (withClock m p k q e), ← keepsClock_recompute m p k q e]
  rfl

theorem keepsClock_agePeers : KeepsClock m p k q e agePeers := by
  intro s
  unfold agePeers
  dsimp only
  rw [apply_ite (withClock m p k q e), ← keepsClock_recompute]
  rfl

theorem keepsClock_ageOwnSend : KeepsClock m p k q e ageOwnSend := by
  intro s
  unfold ageOwnSend
  dsimp only
  rw [apply_ite (withClock m p k q e), ← keepsClock_recompute]
  rfl

theorem keepsClock_countListen : KeepsClock m p k q e countListen := by
  intro s
  unfold countListen becomeActive
  simp only [apply_ite (withClock m p k q e), ← keepsClock_recompute m p k q e]
  rfl

theorem keepsClock_intervalShare : KeepsClock m p k q e intervalShare := by
  intro s
  have h : ∀ t : State, countClashQuiet (withClock m p k q e t) = withClock m p k q e (countClashQuiet t) :=
    fun _ => rfl
  unfold intervalShare takeInterval
  rw [apply_ite (withClock m p k q e), ← h, ← keepsClock_countListen, ← keepsClock_makeRequest,
    ← keepsClock_ageOwnSend, ← keepsClock_agePeers]
  rfl

/-- A unit that reads the input pins at its share (R128, R151, 05 R101). -/
def readsPins (u : HalfCycleUnit) : Bool :=
  match u with
  | .driver _ | .ignition _ | .gates | .manualReset => true
  | .program _ | .hold _ | .prescaler | .interval | .purge _ => false

/-- The clock has no part in a share. -/
theorem keepsClock_unitShare (rising : Bool) (u : HalfCycleUnit) (s : State)
    (h : readsPins u = true → p.inputs = s.pins.inputs) :
    unitShare rising u (withClock m p k q e s) = withClock m p k q e (unitShare rising u s) := by
  cases u with
  | program c => exact keepsClock_programShare m p k q e c s
  | driver c => exact keepsClock_driverShare m p k q e rising c s (h rfl)
  | ignition c => exact keepsClock_ignitionShare m p k q e c s (h rfl)
  | hold c => exact keepsClock_holdShare m p k q e c s
  | prescaler => exact keepsClock_prescalerShare m p k q e s
  | interval => exact keepsClock_intervalShare m p k q e s
  | gates => exact keepsClock_gatesShare m p k q e s (h rfl)
  | manualReset => exact keepsClock_manualShare m p k q e s (h rfl)
  | purge c =>
    unfold unitShare onlyIf
    dsimp only
    rw [apply_ite (withClock m p k q e), ← keepsClock_purgeSecond]
    rfl

/-- A share leaves the clock, the pins and the notes as they are. -/
theorem unitShare_clock (rising : Bool) (u : HalfCycleUnit) (s : State) :
    (unitShare rising u s).pins = s.pins ∧ (unitShare rising u s).clockTaken = s.clockTaken ∧
    (unitShare rising u s).sparkRead = s.sparkRead ∧ (unitShare rising u s).eventsNew = s.eventsNew ∧
    (unitShare rising u s).mtb =
      { s.mtb with
        mode := (unitShare rising u s).mtb.mode, frequency := (unitShare rising u s).mtb.frequency
        prescaler := (unitShare rising u s).mtb.prescaler } := by
  have h : unitShare rising u s = withClock s.mtb s.pins s.clockTaken s.sparkRead s.eventsNew (unitShare rising u s) :=
    keepsClock_unitShare s.mtb s.pins s.clockTaken s.sparkRead s.eventsNew rising u s fun _ => rfl
  have h1 := congrArg State.pins h
  have h2 := congrArg State.clockTaken h
  have h3 := congrArg State.sparkRead h
  have h4 := congrArg State.eventsNew h
  have h5 := congrArg State.mtb h
  exact ⟨h1, h2, h3, h4, h5⟩

@[simp] theorem unitShare_pins (rising : Bool) (u : HalfCycleUnit) (s : State) :
    (unitShare rising u s).pins = s.pins := (unitShare_clock rising u s).1

@[simp] theorem deliverOne_pins (rising : Bool) (u : HalfCycleUnit) (s : State) :
    (deliverOne rising u s).pins = s.pins := by
  unfold deliverOne
  split <;> simp

/-- The clock has no part in what begins within a share, nor in a delivery. -/
theorem keepsClock_deliverOne (rising : Bool) (u : HalfCycleUnit) (s : State)
    (h : readsPins u = true → p.inputs = s.pins.inputs) :
    deliverOne rising u (withClock m p k q e s) = withClock m p k q e (deliverOne rising u s) := by
  unfold deliverOne
  dsimp only
  rw [keepsClock_unitShare m p k q e rising u s h, apply_ite (withClock m p k q e)]
  rfl

/-- The units that a delivery of `u` reaches read the pins where `u` does. -/
theorem readsPins_event (u v : HalfCycleUnit) (h : v ∈ earlierShares u ∨ v ∈ companions u) :
    readsPins v = readsPins u := by
  cases u <;> simp [earlierShares, companions] at h
  case gates | manualReset => rw [h]; rfl
  case interval => obtain ⟨_, _, rfl⟩ := h; rfl
  all_goals first
    | (obtain ⟨_, _, rfl⟩ | ⟨_, _, rfl⟩ | rfl := h <;> rfl)
    | (obtain ⟨_, _, rfl⟩ | ⟨_, _, rfl⟩ := h <;> rfl)

theorem keepsClock_foldl (rising : Bool) (us : List HalfCycleUnit) (s : State)
    (h : ∀ v ∈ us, readsPins v = true → p.inputs = s.pins.inputs) :
    us.foldl (fun s v => deliverOne rising v s) (withClock m p k q e s) =
      withClock m p k q e (us.foldl (fun s v => deliverOne rising v s) s) ∧
    (us.foldl (fun s v => deliverOne rising v s) s).pins = s.pins := by
  induction us generalizing s with
  | nil => exact ⟨rfl, rfl⟩
  | cons v vs ih =>
    have hv := keepsClock_deliverOne m p k q e rising v s (h v (by simp))
    have := ih (deliverOne rising v s) fun w hw hr => by simpa using h w (by simp [hw]) hr
    simp only [List.foldl_cons, hv]
    exact ⟨this.1, by simpa using this.2⟩

/-- Nor in what comes after a unit's share in its event. -/
theorem keepsClock_trail (rising : Bool) (u : HalfCycleUnit) (s : State)
    (h : readsPins u = true → p.inputs = s.pins.inputs) :
    trail rising u (withClock m p k q e s) = withClock m p k q e (trail rising u s) :=
  (keepsClock_foldl m p k q e rising (companions u) s fun v hv hr =>
    h ((readsPins_event u v (.inr hv)).symm.trans hr)).1

/-- The clock has no part in the delivery of a unit with those of its event; and the delivery moves no pin. -/
theorem keepsClock_deliver (rising : Bool) (u : HalfCycleUnit) (s : State)
    (h : readsPins u = true → p.inputs = s.pins.inputs) :
    deliver rising u (withClock m p k q e s) = withClock m p k q e (deliver rising u s) ∧
    (deliver rising u s).pins = s.pins := by
  have h1 := keepsClock_foldl m p k q e rising (earlierShares u) s fun v hv hr =>
    h ((readsPins_event u v (.inl hv)).symm.trans hr)
  have h2 := keepsClock_deliverOne m p k q e rising u (lead rising u s) fun hr => by
    rw [h hr]; exact congrArg Pins.inputs h1.2.symm
  have h3 := keepsClock_foldl m p k q e rising (companions u) (deliverOne rising u (lead rising u s)) fun v hv hr => by
    rw [h ((readsPins_event u v (.inr hv)).symm.trans hr), deliverOne_pins]
    exact congrArg Pins.inputs h1.2.symm
  have a : (withClock m p k q e s).taken = s.taken := rfl
  have b : lead rising u (withClock m p k q e s) = withClock m p k q e (lead rising u s) := h1.1
  constructor
  · unfold deliver deliverEvent trail
    rw [a, b, h2, apply_ite (withClock m p k q e), h3.1]
  · unfold deliver deliverEvent trail
    split
    · rfl
    · rw [h3.2, deliverOne_pins]; exact h1.2

/-- Nor in the delivery of all the units of a half-cycle, at the same levels. -/
theorem keepsClock_deliverAll (rising : Bool) (us : List HalfCycleUnit) (s : State) (h : p.inputs = s.pins.inputs) :
    deliverAll rising us (withClock m p k q e s) = withClock m p k q e (deliverAll rising us s) := by
  unfold deliverAll
  induction us generalizing s with
  | nil => rfl
  | cons u us ih =>
    have hu := keepsClock_deliver m p k q e rising u s fun _ => h
    simp only [List.foldl_cons, hu.1]
    exact ih _ (h.trans (congrArg Pins.inputs hu.2.symm))

end Sys2Proof.Machine
end

