-- ==== Sys2Proof/Tests/Slice0.lean ====
section
/-! SUPPORT. Tests: what WellFormed refuses, a witness for the hypotheses of each statement (every clause, at a boundary
of its range), and the worked examples and tables of spec/. -/

namespace Sys2Proof.Tests

open Sys2Proof.Machine

set_option Elab.async false

/-! ### Small states -/

/-- A powered station in ACTIVE that tracks the mains at `f`, its line idle and its configuration taken. -/
def station (f : Frequency) : State :=
  { State.reset with
    mtb := { Mtb.reset with sign := some .positive, mode := .tracking, frequency := some f, missingTimer := some 0 }
    ssv := { State.reset.ssv with station := .active, listenCount := 3 }
    lif := { State.reset.lif with line := .idle }
    stationConfigured := true }

/-- A channel of kind `k` in state `st` whose slot 0 holds `r` and is current with a program; slot 1 holds an END step, and
the timer and the delay are at their last half-cycle at 50 Hz. -/
def channel (k : ChanKind) (st : ChanState) (r : StepRecord) : Channel :=
  { Channel.reset false with
    cfg := { ChanConfig.reset with kind := k, load := 100, burnerTaken := true }
    chc := { (Channel.reset false).chc with state := st }
    pgu :=
      { Pgu.reset with
        slots := (Pgu.reset.slots.set 0 (some r)).set 1 (some ⟨5, some 60, .finish⟩)
        current := if st.hasProgram then some 0 else none
        timing := .timed, seconds := 1, delay := 1, phase := 99 } }

/-- `ch` as channel 1 of the station at 50 Hz. -/
def with1 (ch : Channel) : State := (station .hz50).setChan 1 ch

/-- A step of one minute at level 9. -/
def minute (a : EndAction) : StepRecord := ⟨9, some 60, a⟩

/-- A header that every station matches. -/
def toAll : CmdHeader := ⟨9, 0, 0⟩

/-- The pins with the spark running or not, the flame of channel 1, and the sense of channel 1. -/
def pins (spark : Bool) (flame : BitVec 4) (sense : Bool) : InputPins :=
  { Pins.quiet.inputs with
    spark := spark, flame := Pins.quiet.inputs.flame.set 1 flame, sense := Pins.quiet.inputs.sense.set 1 sense }

/-- The state that a command answers. -/
def after (i : Instr) (s : State) : State :=
  match exec i s with
  | .next t => t
  | .fault _ | .refused _ => s

/-- The station whose time base is about to accept a negative crossing. -/
def crossing (m : Mtb) : State :=
  { station .hz50 with mtb := { m with sign := some .positive, run := 3 } }

/-- A burner of channel 1 in an ignition phase, the holder of the unit. -/
def igniting (p : IgnitionPhase) (b : Burner) : State :=
  { with1 { channel .burner .igniting (minute .next) with burner := { b with phase := p } } with
    igu := { queue := [], holder := some 1, spark := false } }

/-! ### What WellFormed refuses -/

theorem test_wellFormed_refuses_a_unit_twice_in_the_order :
    (Instr.acceptedCrossing Pins.quiet.inputs [.gates, .gates]).wellFormed = false := by decide

theorem test_wellFormed_refuses_a_mismatch_at_the_stop_bit_of_byte_0 :
    (Instr.frameAbandoned 0 9).wellFormed = false ∧ (Instr.frameAbandoned 15 0).wellFormed = false := by decide

theorem test_wellFormed_refuses_a_valid_frame_as_rejected :
    (Instr.frameRejected [0x03, 0x00, 0xFC]).wellFormed = false ∧
    (Instr.frameRejected [0x03, 0x00]).wellFormed = false := by decide

theorem test_wellFormed_refuses_a_halt_as_a_peer_report :
    (Instr.peerReportReceived [0x03, 0x00, 0xFC]).wellFormed = false := by decide

theorem test_wellFormed_refuses_a_known_command_as_unknown :
    (Instr.commandUnknown toAll 6 [0x01]).wellFormed = false := by decide

theorem test_wellFormed_refuses_clear_as_a_record_and_last_as_a_mask :
    (Instr.loadStep toAll 1 0 50 60 0xFF).wellFormed = false ∧ (Instr.stop toAll 0x80 []).wellFormed = false := by decide

theorem test_wellFormed_refuses_another_adjust_as_adjustTimeSet :
    (Instr.adjustTimeSet toAll 1 0 0 5 []).wellFormed = false ∧
    (Instr.adjustTimeSet toAll 1 1 2 5 []).wellFormed = false := by decide

/-! ### Witnesses: the step, the resets and the invariants -/

theorem witness_stepTakesFrontCommand :
    { station .hz50 with pending := [.lineIdle false] }.pending = .lineIdle false :: [] := by decide

theorem witness_queueBelongsToSender : (station .hz50).pending = [] := by decide

theorem witness_supplyLoss :
    (after .supplyBelowThreshold (station .hz50)).held = true ∧ isPowerRow (.lineIdle false) = false := by decide +kernel

theorem witness_resetStation :
    Accepts toAll (station .hz50) ∧
    (let s := { station .hz50 with lif := { line := .idle, replies := List.replicate 4 ⟨1, 1, .fill .done⟩, stateSet := [] } }
     s.held = false ∧ addressMatches s.ssv.address toAll = true ∧ receptive s = true ∧ 4 ≤ s.lif.replies.length) := by
  decide

/-- The state that the witnesses of the invariants use: a supervised burner and a driven element, a command waiting. -/
def sound : State :=
  { (with1 { channel .burner .running (minute .next) with
               burner := { Burner.reset with supervising := true }, valve := 9 }).setChan 2
      { channel .cycle .running ⟨50, some 60, .next⟩ with
        claim := { Claim.reset with target := 50, announced := 50, settled := 50, paid := 50, ceiling := 50 }
        driver := { Driver.reset with level := 50, accumulator := 99 } } with
    pending := [.replySent] }

theorem witness_stepKeepsBounds : Bounded sound ∧ (step sound matches .next _) := by decide +kernel
theorem witness_stepKeepsPowerSound : Bounded sound ∧ LevelsInRange sound ∧ PowerSound sound := by decide +kernel
theorem witness_stepKeepsHoldsSound : HoldsSound sound := by decide +kernel
theorem witness_stepKeepsFuelSound : FuelSound sound := by decide +kernel
theorem witness_stepKeepsAttemptsBounded : TimeBaseSound sound ∧ AttemptBounded sound := by decide +kernel
theorem witness_stepKeepsStationSound : TimeBaseSound sound ∧ StationSound sound := by decide +kernel

/-- A SAFE station whose manual reset button is about to qualify, channel 1 locked out. -/
def lockedOut : State :=
  { with1 { Channel.reset true with gated := false } with
    ssv := { State.reset.ssv with station := .safe, relay := false }
    gib := { Gib.reset with mrOn := 99 }
    configOpen := false }

theorem witness_onlyResetsUndoLatches :
    isReset .manualResetRequest = false ∧ lockedOut.ssv.station = .safe ∧ lockedOut.ssv.relay = false ∧
    lockedOut.configOpen = false ∧ (lockedOut.chan 1).lockoutBit = true ∧
    (exec .manualResetRequest lockedOut matches .next _) ∧
    ((after .manualResetRequest lockedOut).chan 1).lockoutBit = false ∧ lockedOut.gib.mrActive = false ∧
    perSecond lockedOut.mtb.frequency = lockedOut.gib.mrOn + 1 := by decide +kernel

/-! ### Witnesses: the shared computations -/

/-- Two own records and two of a peer, one of them in a class that the budget cannot carry whole. -/
def dividing : State :=
  { (with1 { channel .cycle .running (minute .next) with claim := { Claim.reset with announced := 100 } }).setChan 2
      { channel .burner .idle (minute .next) with
        cfg := { ChanConfig.reset with kind := .burner, cls := 3, circuit := .b } } with
    apu :=
      { Apu.reset with
        budgetA := 150, peers := Apu.reset.peers.set 3 (some ⟨0, .safe, .fill ⟨100, 2, .a⟩⟩) } }

theorem witness_grants :
    (let recs := circuitRecords .a dividing.chans dividing.apu.peers
     remainder 150 recs 0 = 150 ∧
     (∀ k : Nat, classTotal recs k = ((recs.filter fun x => x.cls.val == k).map DemandRecord.demand).sum) ∧
     (∀ k : Nat,
       remainder 150 recs (k + 1) =
         if classTotal recs k ≤ remainder 150 recs k then remainder 150 recs k - classTotal recs k else 0) ∧
     recs.map (grantOf 150 recs) = [100, 12, 12, 12, 12] ∧ remainder 150 recs 2 < classTotal recs 2) ∧
    ownRecord (dividing.chan 2) = ⟨0, 0, .a⟩ ∧ channelGrant dividing.apu dividing.chans (dividing.chan 1) = 100 := by
  refine ⟨⟨by decide +kernel, fun _ => rfl, fun _ => rfl, ?_, ?_⟩, ?_⟩ <;> decide +kernel

theorem witness_slowOnTime : 4 * 400 ≤ 2000 ∧ 85 ≤ 100 ∧ 100 ≤ 100 := by decide

theorem witness_cycleDrive :
    ({ Driver.reset with accumulator := 99, level := 100 } : Driver).accumulator ≤ 99 ∧
    ({ Driver.reset with accumulator := 99, level := 100 } : Driver).level ≤ 100 := by decide

theorem witness_timersCountWholeSeconds :
    (let p : Pgu := { Pgu.reset with seconds := 1, delay := 1 }
     p.phase = 0 ∧ p.seconds = 1 ∧ p.delay = 1) ∧ 99 < 1 * perSecond (some .hz50) := by decide

theorem witness_eachUnitTakesAHalfCycleOnce :
    HalfCycleUnit.gates ∈ { station .hz50 with taken := [.gates] }.taken ∧
    HalfCycleUnit.gates ∈ [HalfCycleUnit.interval, .gates] ∧
    HalfCycleUnit.ignition 3 ∉ (station .hz50).taken ∧ HalfCycleUnit.purge 3 ∉ (station .hz50).taken ∧
    HalfCycleUnit.hold 3 ∉ (station .hz50).taken ∧ HalfCycleUnit.interval ∉ (station .hz50).taken ∧
    (∀ v ∈ earlierShares (.program 2) ++ companions (.program 2), v ∈ (station .hz50).taken) ∧
    (∀ v ∈ earlierShares .gates ++ companions .gates, v ∈ { station .hz50 with taken := [.manualReset] }.taken) ∧
    HalfCycleUnit.gates ∉ (station .hz50).taken ∧ HalfCycleUnit.manualReset ∉ (station .hz50).taken := by decide

theorem witness_eachUnitTakesAHalfCycleOnce_begins :
    (let s := { with1 (channel .burner .igniting (minute .next)) with
                igu := { queue := [1], holder := some 2, spark := false } }
     let b := { channel .burner .igniting (minute .next) with
                burner := { Burner.reset with phase := .prove, onRun := 1, safetyTime := 200 } }
     let t := { s.setChan 2 b with pins := { s.pins with inputs := { s.pins.inputs with flame := .fill 15, spark := false } } }
     .ignition 2 ∉ t.taken ∧ t.igu.holder ≠ some 1 ∧ (t.chan 2).chc.state = .igniting ∧
     (deliverOne true (.ignition 2) t).igu.holder = some 1 ∧
     ((deliverOne true (.ignition 2) t).chan 2).chc.state = .running) ∧
    (let s := igniting .prove { Burner.reset with safety := 199, safetyTime := 200, allowed := 2 }
     .ignition 1 ∉ s.taken ∧ (s.chan 1).burner.phase ≠ .purge ∧
     ((deliverOne true (.ignition 1) s).chan 1).burner.phase = .purge) := by decide +kernel

/-- Rows whose share has an outcome, each with what it leaves to a crossing: a step expiry and a drive fault. -/
theorem witness_eachUnitTakesAHalfCycleOnce_rows :
    (let ch := { channel .cycle .running (minute .finish) with driver := { Driver.reset with offMismatch := 5 } }
     let s := { with1 ch with mtb := { (station .hz50).mtb with run := 3 } }
     let p := pins false 0 true
     let row (i : Instr) (u : HalfCycleUnit) := rowUnit p s i = some u ∧ u ∉ s.taken ∧ u ∈ (after i s).taken
     s.mtb.sign.isSome = true ∧ s.mtb.run = 3 ∧ row (.stepExpiry 1) (.program 1) ∧ row (.stuckOn 1 p) (.driver 1) ∧
     after (.acceptedCrossing p [.driver 1]) s =
       { after (.acceptedCrossing p []) (after (.stuckOn 1 p) s) with eventsNew := true } ∧
     s.held = false ∧ s.clockTaken = false ∧ s.mtb.sign = some (signOf (!false)) ∧ s.mtb.mode = .tracking ∧
     s.mtb.frequency.isSome = true) := by decide +kernel

theorem witness_framesCarryTheirCommands :
    (Instr.start toAll 3 0 0).wellFormed = true ∧
    frameOfCommand (.start toAll 3 0 0) = some [0x19, 0x07, 0x00, 0x05, 0x03, 0x00, 0x00, 0x00, 0x00, 0xD7] ∧
    commandHeader (.start toAll 3 0 0) = some toAll ∧ addressMatches 15 toAll = true := by decide +kernel

/-! ### Witnesses: the ZX clock -/

/-- A sample that is no accepted crossing finds the station powered and no timer at its end. -/
abbrev Samples (s : State) : Prop :=
  s.held = false ∧ s.clockTaken = false ∧ missingExpired s.mtb.tick = false ∧ rideExpired s.mtb.tick = false

theorem witness_zxSample :
    (let s := station .hz50
     Samples s ∧ s.mtb.sign = some (signOf true) ∧ s.mtb.sign = some (signOf (!false)) ∧ s.mtb.run < 3) ∧
    (let s := { State.reset with mtb := { Mtb.reset with candidate := some .positive, run := 2 } }
     Samples s ∧ s.mtb.sign = none ∧ s.mtb.candidate = some (signOf true) ∧ s.mtb.run < 3 ∧
     s.mtb.candidate ≠ some (signOf false)) ∧
    (let s := { State.reset with mtb := { Mtb.reset with candidate := some .positive, run := 3 } }
     Samples s ∧ s.mtb.sign = none ∧ s.mtb.candidate = some (signOf true) ∧ s.mtb.run = 3) := by decide +kernel

/-- A station at `f` whose missing-crossing timer stands at `n`. -/
def silent (f : Frequency) (n : Nat) : State :=
  { station f with mtb := { (station f).mtb with missingTimer := some n } }

/-- A station that rides through a dropout, its timer at `n`. -/
def riding (n : Nat) : State :=
  { station .hz50 with
    mtb := { (station .hz50).mtb with mode := .missing, missingTimer := none, rideTimer := some n }
    ssv := { (station .hz50).ssv with station := .rideThrough, prior := some .active } }

/-- R5, R7: one sample short of its limit a timer counts on; at the limit the sample makes the report, and the sample of an
instant that the row of the expiry has taken counts nothing again. -/
theorem witness_zxSample_expiry :
    (let z (s : State) := after (.zxFilterSample true []) s
     (z (silent .hz50 118)).mtb.missingTimer = some 119 ∧ (z (silent .hz50 119)).mtb.mode = .missing ∧
     (z (silent .hz60 98)).mtb.missingTimer = some 99 ∧ (z (silent .hz60 99)).ssv.station = .rideThrough ∧
     (z (riding 15998)).mtb.rideTimer = some 15999 ∧ (z (riding 15999)).ssv.station = .mainsWait ∧
     (let t := after .mainsAbsent (silent .hz50 119)
      t.clockTaken = true ∧ t.mtb.missingTimer = none ∧ t.mtb.rideTimer = some 0 ∧
      (z t).mtb.rideTimer = some 0 ∧ (z t).clockTaken = false)) := by decide +kernel

/-- A sample that produces an accepted negative crossing. -/
abbrev Crosses (s : State) : Prop :=
  s.held = false ∧ s.clockTaken = false ∧ s.mtb.sign = some (signOf (!false)) ∧ s.mtb.run = 3

set_option synthInstance.maxSize 400

theorem witness_crossingInTracking :
    (let s := crossing (station .hz50).mtb
     Crosses s ∧ s.mtb.mode = .tracking ∧ s.mtb.frequency = some .hz50 ∧ s.taken = [] ∧
     Ordinary 50 Pins.quiet.inputs s) ∧
    (let s := crossing { (station .hz60).mtb with prescaler := 118 }
     s.mtb.frequency = some .hz60 ∧ Ordinary 60 Pins.quiet.inputs s) := by decide +kernel

/-- An ordinary half-cycle at the boundaries of its counts: every count stands one short of its end, and MR at the eighth
released sample. -/
theorem witness_crossingInTracking_boundaries :
    (let b := { channel .burner .igniting (minute .next) with
                burner := { Burner.reset with phase := .lineWait, quiet := 48 } }
     let e := channel .cycle .running (minute .next)
     let s := { (with1 b).setChan 2 { e with
                  pgu := { e.pgu with phase := 98 }, claim := { e.claim with stage := .counting, count := 2 }
                  driver := { Driver.reset with offMismatch := 4 } } with
                igu := { State.reset.igu with holder := some 1 }
                apu := { Apu.reset with interval := 48 }, gib := { Gib.reset with mrActive := true, mrOff := 7 } }
     let s1 := { s with mtb := { (station .hz50).mtb with prescaler := 98, run := 3 } }
     let p := { pins false 0 false with sense := (pins false 0 false).sense.set 2 true }
     let t := after (.acceptedCrossing p []) s1
     Crosses s1 ∧ Ordinary 50 p s1 ∧ t.gib.mrActive = false ∧ t.gib.mrOff = 0 ∧
     (t.chan 1).burner.quiet = 49 ∧ (t.chan 2).driver.offMismatch = 5 ∧ (t.chan 2).claim.count = 1) := by decide +kernel

/-- The burner of channel 1 in `b`, at an accepted crossing. -/
def crossingOn (st : ChanState) (b : Burner) : State :=
  { with1 { channel .burner st ⟨9, some 60, .next⟩ with
      cfg := { ChanConfig.reset with kind := .burner, burnerTaken := true }
      pgu := { (channel .burner st (minute .next)).pgu with seconds := 2 }, burner := b } with
    igu := { State.reset.igu with holder := if b.phase.holdsUnit then some 1 else none }
    mtb := { (station .hz50).mtb with run := 3 } }

/-- What an ordinary half-cycle with the levels `p` makes of the burner `b`; nothing where it is not ordinary. -/
def ordinaryBurner (p : InputPins) (st : ChanState) (b : Burner) : Option Burner :=
  if Crosses (crossingOn st b) ∧ Ordinary 50 p (crossingOn st b) then
    some ((after (.acceptedCrossing p []) (crossingOn st b)).chan 1).burner
  else none

/-- R128 to R130: in LINE_WAIT a blanked sample moves no run and the timer of a false flame runs on, up to 20f - 1; the
counted sample of the on-run 2 sets false flame at 0; that of the off-run 2 clears it with the quiet count below f. -/
theorem witness_crossing_lineWait :
    (let b := { Burner.reset with phase := .lineWait }
     ordinaryBurner (pins true 15 false) .igniting
         { b with falseFlame := true, falseTimer := 998, quiet := 50, onRun := 16 } =
       some { b with falseFlame := true, falseTimer := 999, quiet := 0, onRun := 16 } ∧
     ordinaryBurner (pins false 15 false) .igniting { b with onRun := 1, quiet := 49 } =
       some { b with onRun := 2, quiet := 50, falseFlame := true } ∧
     ordinaryBurner (pins false 0 false) .igniting
         { b with offRun := 1, quiet := 48, falseFlame := true, falseTimer := 999 } =
       some { b with offRun := 2, quiet := 49 } ∧
     ordinaryBurner (pins false 0 false) .igniting { b with quiet := 49 } = none) := by decide +kernel

/-- R133, R134: SPARK counts up to S - 1 and takes no sample; PROVE counts up to T - 1 and takes its sample. -/
theorem witness_crossing_attempt :
    (let b := { Burner.reset with phase := .spark, safety := 48, sparkTime := 50, safetyTime := 200, onRun := 1 }
     ordinaryBurner (pins true 15 false) .igniting b = some { b with safety := 49 } ∧
     ordinaryBurner (pins true 15 false) .igniting { b with safety := 49 } = none ∧
     ordinaryBurner (pins false 0 false) .igniting { b with phase := .prove, safety := 198 } =
       some { b with phase := .prove, safety := 199, onRun := 0, offRun := 1 } ∧
     ordinaryBurner (pins false 15 false) .igniting { b with phase := .prove, safety := 198, onRun := 0 } =
       some { b with phase := .prove, safety := 199, onRun := 1 } ∧
     ordinaryBurner (pins false 15 false) .igniting { b with phase := .prove } = none) := by decide +kernel

/-- R140: a supervised burner counts blanked half-cycles up to 8f - 1, and a counted sample sets them to 0; a burner that
waits or purges is left alone. -/
theorem witness_crossing_supervised :
    (let b := { Burner.reset with supervising := true, onRun := 16 }
     ordinaryBurner (pins true 0 false) .running { b with blankRun := 398, offRun := 1 } =
       some { b with blankRun := 399, offRun := 1 } ∧
     ordinaryBurner (pins true 0 false) .running { b with blankRun := 399 } = none ∧
     ordinaryBurner (pins false 15 false) .running { b with blankRun := 399 } = some b ∧
     ordinaryBurner (pins false 0 false) .running { b with offRun := 1 } = none ∧
     ordinaryBurner (pins false 15 false) .igniting { Burner.reset with phase := .purge, purge := 1 } =
       some { Burner.reset with phase := .purge, purge := 1 } ∧
     ordinaryBurner (pins false 15 false) .igniting { Burner.reset with phase := .queued } =
       some { Burner.reset with phase := .queued }) := by decide +kernel

/-- A crossing that finds shares taken ahead: they are passed over, whatever they would have brought. -/
theorem witness_crossing_after_shares :
    (let s := { crossingOn .igniting { Burner.reset with phase := .lineWait, quiet := 49 } with
                taken := [.ignition 1, .prescaler, .interval, .gates], sparkRead := some true
                apu := { Apu.reset with interval := 49 } }
     let t := after (.acceptedCrossing (pins false 0 false) []) s
     Crosses s ∧ Ordinary 50 (pins false 0 false) s ∧ (t.chan 1).burner = (s.chan 1).burner ∧
     t.apu.interval = 49 ∧ t.mtb.prescaler = s.mtb.prescaler ∧ t.pins.inputs.spark = true) := by decide +kernel

/-- The driver `d` of a RUNNING channel 1 of kind `k` with ceiling 50, after an ordinary rising crossing. -/
def ordinaryDriver (k : ChanKind) (d : Driver) : Option Driver :=
  let ch := channel k .running ⟨50, some 60, .next⟩
  let s :=
    { with1 { ch with pgu := { ch.pgu with seconds := 2 }, claim := { Claim.reset with ceiling := 50 }, driver := d } with
      mtb := { (station .hz50).mtb with run := 3, sign := some .negative } }
  if Ordinary 50 (pins false 0 true) s then some ((after (.acceptedCrossing (pins false 0 true) []) s).chan 1).driver
  else none

/-- R102, R106, R107, R113, R114: the sum of 100 conducts; a period starts at q = P and at the first half-cycle; the output
opens at q = u; a relay that settles is not judged. -/
theorem witness_crossing_drivers :
    (let d := { Driver.reset with level := 50, output := true }
     ordinaryDriver .cycle { d with accumulator := 50, onMismatch := 5 } =
       some { d with accumulator := 0, conducting := true } ∧
     ordinaryDriver .cycle { d with accumulator := 49 } = some { d with accumulator := 99, output := false } ∧
     ordinaryDriver .slow { d with inPeriod := true, position := 998, onTime := 999 } =
       some { d with inPeriod := true, position := 999, onTime := 999, output := false, settle := 4 } ∧
     ordinaryDriver .slow { d with inPeriod := true, position := 999, level := 7, settle := 3 } =
       some { d with inPeriod := true, position := 0, onTime := 500, settle := 2 } ∧
     ordinaryDriver .cycle { d with output := false, offMismatch := 5 } = none) := by decide +kernel

theorem witness_crossingOutsideTracking :
    (let s := crossing Mtb.reset
     Crosses s ∧ s.mtb.mode = .measuring ∧ s.mtb.windowCount = 0) ∧
    (let s := crossing { Mtb.reset with windowCount := 1, spacing := 120 }
     Crosses s ∧ s.mtb.mode = .measuring ∧ 120 < s.mtb.spacing + 1) ∧
    (let s := crossing { Mtb.reset with windowCount := 9, windowSum := 740, spacing := 52 }
     Crosses s ∧ 792 < s.mtb.windowSum + (s.mtb.spacing + 1)) ∧
    (let s := crossing { Mtb.reset with windowCount := 9, windowSum := 480, spacing := 58 }
     s.mtb.windowSum + (s.mtb.spacing + 1) < 540) ∧
    (let s (sum : Nat) := crossing { Mtb.reset with windowCount := 9, windowSum := sum, spacing := 79 }
     Crosses (s 460) ∧ (s 460).mtb.spacing + 1 ≤ 120 ∧ 540 ≤ (s 460).mtb.windowSum + ((s 460).mtb.spacing + 1) ∧
     (s 712).mtb.windowSum + ((s 712).mtb.spacing + 1) ≤ 792 ∧
     (after (.acceptedCrossing Pins.quiet.inputs []) (s 460)).mtb.frequency = some .hz60 ∧
     (after (.acceptedCrossing Pins.quiet.inputs []) (s 712)).mtb.frequency = some .hz50) ∧
    (let s := crossing { (riding 15999).mtb with returnRun := 8, spacing := 79 }
     Crosses s ∧ s.mtb.rideTimer = some 15999 ∧
     (after (.acceptedCrossing Pins.quiet.inputs []) s).mtb.mode = .measuring ∧
     (after (.acceptedCrossing Pins.quiet.inputs []) { s with mtb := { s.mtb with returnRun := 9 } }).mtb.mode =
       .tracking) ∧
    (let s := crossing { Mtb.reset with windowCount := 8, spacing := 119 }
     Crosses s ∧ 0 < s.mtb.windowCount ∧ s.mtb.windowCount < 9 ∧ s.mtb.spacing + 1 ≤ 120) ∧
    (let s := crossing { Mtb.reset with mode := .missing, frequency := some .hz50, rideTimer := some 15998 }
     Crosses s ∧ s.mtb.mode = .missing ∧ s.mtb.returnRun ≤ 9 ∧ ∀ n ∈ s.mtb.rideTimer, n + 1 < 16000) ∧
    (let s := crossing { Mtb.reset with
                mode := .missing, frequency := some .hz50, rideTimer := some 15998, returnRun := 9, spacing := 63 }
     Crosses s ∧ s.mtb.returnRun ≤ 9 ∧ (∀ n ∈ s.mtb.rideTimer, n + 1 < 16000) ∧
     64 ≤ s.mtb.spacing + 1 ∧ s.mtb.spacing + 1 ≤ 96) := by decide +kernel

/-- R6: the spacings of a return at 50 Hz and at 60 Hz. -/
theorem test_returnSpacing_bounds :
    [63, 64, 96, 97].map (returnSpacing (some .hz50)) = [false, true, true, false] ∧
    [53, 54, 80, 81].map (returnSpacing (some .hz60)) = [false, true, true, false] := by decide +kernel

theorem witness_frequencySet :
    (let s := crossing { Mtb.reset with windowCount := 9, windowSum := 568, spacing := 79 }
     Crosses s ∧ s.mtb.windowCount = 9 ∧ s.mtb.spacing + 1 ≤ 120 ∧ s.mtb.windowSum + (s.mtb.spacing + 1) = 648 ∧
     s.ssv.station ≠ .safe) ∧
    (let s := { crossing { Mtb.reset with windowCount := 9, windowSum := 567, spacing := 79 } with
                ssv := lockedOut.ssv }
     Crosses s ∧ s.mtb.mode = .measuring ∧ s.mtb.windowSum + (s.mtb.spacing + 1) = 647 ∧
     s.ssv.station = .safe) := by decide +kernel

theorem witness_mainsAbsent :
    (let s := with1 (channel .burner .running (minute .next))
     s.held = false ∧ s.clockTaken = false ∧ s.mtb.mode = .tracking ∧ s.mtb.missingTimer = some 0) ∧
    (let s (f : Frequency) (n : Nat) := { station f with mtb := { (station f).mtb with missingTimer := some n } }
     missingExpired (s .hz50 118).mtb.tick = false ∧ missingExpired (s .hz50 119).mtb.tick = true ∧
     missingExpired (s .hz60 98).mtb.tick = false ∧ missingExpired (s .hz60 99).mtb.tick = true) ∧
    driverWorks (channel .slow .paused (minute .next)) = true := by decide +kernel

/-- A burner in SPARK that meets the mains absence, another one QUEUED behind it. -/
def sparking : State :=
  { (igniting .spark { Burner.reset with safety := 5, sparkTime := 50, safetyTime := 200 }).setChan 3
      { channel .burner .igniting (minute .next) with burner := { Burner.reset with phase := .queued } } with
    igu := { queue := [3], holder := some 1, spark := true }
    mtb := { (station .hz50).mtb with missingTimer := some 119 } }

theorem witness_mainsAbsent_fuelSound :
    FuelSound sparking ∧ (sparking.chan 1).chc.state = .igniting ∧ sparking.mtb.frequency = some .hz50 ∧ 120 ≤ 119 + 1 ∧
    (after .mainsAbsent sparking).igu = { queue := [], holder := none, spark := false } := by decide +kernel

theorem witness_mainsRestored :
    (let s := { crossing { Mtb.reset with
                  mode := .missing, frequency := some .hz50, rideTimer := some 6999, returnRun := 9, spacing := 63 } with
                ssv := { State.reset.ssv with station := .rideThrough, prior := some .active } }
     Crosses s ∧ s.mtb.mode = .missing ∧ s.mtb.returnRun = 9 ∧ s.mtb.rideTimer = some 6999 ∧
     s.mtb.frequency = some .hz50 ∧ 64 ≤ s.mtb.spacing + 1 ∧ s.mtb.spacing + 1 ≤ 96 ∧
     s.ssv.station = .rideThrough) := by decide +kernel

theorem witness_mainsFailed :
    (let s := { with1 (channel .cycle .paused (minute .next)) with
                mtb := { Mtb.reset with mode := .missing, frequency := some .hz50, rideTimer := some 15999 } }
     s.held = false ∧ s.clockTaken = false ∧ s.mtb.mode = .missing ∧ s.mtb.rideTimer = some 15999 ∧
     16000 ≤ 15999 + 1 ∧ s.ssv.station ≠ .safe ∧ (s.chan 1).chc.state.hasProgram = true ∧ (s.chan 0).chc.state.hasProgram = false) := by
  decide +kernel

theorem witness_secondEvent :
    (let s := { igniting .purge { Burner.reset with purge := 2 } with
                mtb := { (station .hz50).mtb with prescaler := 99 }, igu := State.reset.igu }
     Shares .prescaler s ∧ s.mtb.prescaler + 1 = perSecond s.mtb.frequency ∧ (s.chan 1).burner.phase = .purge ∧
     1 < (s.chan 1).burner.purge ∧ (1 : Chan) ∉ s.igu.queue ∧ (s.chan 0).burner.phase = .none ∧
     .purge 1 ∉ s.taken ∧ .purge 1 ∈ { s with taken := [.purge 1] }.taken) ∧
    (let s (h : Option Chan) :=
       { igniting .purge { Burner.reset with purge := 1 } with
         mtb := { (station .hz50).mtb with prescaler := 99 }, igu := { State.reset.igu with holder := h } }
     let l (h : Option Chan) := lead (comingRising (s h)) (.purge 1) (s h)
     LeadsTo (.purge 1) (s none) (l none) ∧ ((l none).chan 1).burner.purge = 1 ∧ (l none).igu.holder = none ∧
     (l none).igu.queue = [] ∧ LeadsTo (.purge 1) (s (some 2)) (l (some 2)) ∧
     (l (some 2)).igu.holder.isSome = true ∧ (l (some 2)).mtb.prescaler + 1 = perSecond (l (some 2)).mtb.frequency) := by
  decide +kernel

/-- Burners 1 and 3 at the end of their purges, at a second event. -/
def purging (h : Option Chan) : State :=
  { (igniting .purge { Burner.reset with purge := 1 }).setChan 3
      { channel .burner .igniting (minute .next) with burner := { Burner.reset with phase := .purge, purge := 1 } } with
    mtb := { (station .hz50).mtb with prescaler := 99 }, igu := { State.reset.igu with holder := h } }

theorem witness_secondEvent_ends_purges :
    Shares .prescaler (purging none) ∧ (purging none).mtb.prescaler + 1 = perSecond (purging none).mtb.frequency ∧
    ([0, 1, 2, 3].filter fun d =>
      decide (((purging none).chan d).burner.phase = .purge ∧ ((purging none).chan d).burner.purge ≤ 1 ∧
        HalfCycleUnit.purge d ∉ (purging none).taken)) = [1, 3] ∧
    (purging none).igu.holder = none ∧ (purging none).igu.queue = [] ∧
    (purging (some 2)).igu.holder.isSome = true ∧
    (after .secondEvent (purging none)).igu = { queue := [3], holder := some 1, spark := false } ∧
    (after .secondEvent (purging (some 2))).igu.queue = [1, 3] := by decide +kernel

/-! ### Witnesses: demand intervals and holds -/

/-- A station at its interval event, one peer's row about to leave the table. -/
def atInterval (st : StationState) : State :=
  { station .hz50 with
    ssv := { State.reset.ssv with station := st, listenCount := 2 }
    apu :=
      { Apu.reset with
        interval := 49, ownSendAge := 1
        peers := Apu.reset.peers.set 3 (some ⟨3, .active, .fill ⟨100, 0, .a⟩⟩) } }

theorem witness_intervalEvent :
    Shares .interval (atInterval .listen) ∧ (atInterval .listen).apu.interval = 49 ∧
    (atInterval .listen).apu.peers.length = 16 ∧
    ((atInterval .listen).ssv.station = .listen ∧ 2 ≤ (atInterval .listen).ssv.listenCount) ∧
    ((atInterval .active).apu.peers[(3 : Address).toNat]?).join = some ⟨3, .active, .fill ⟨100, 0, .a⟩⟩ ∧
    (atInterval .active).apu.ownSendAge = 1 ∧ (atInterval .listen).ssv.listenCount = 2 := by decide +kernel

theorem witness_raiseHoldClear :
    (let s := with1 { channel .cycle .running ⟨50, some 60, .next⟩ with
                      claim := { Claim.reset with announced := 50, stage := .counting, count := 1 } }
     Shares (.hold 1) s ∧ (s.chan 1).claim.stage = .counting ∧ (s.chan 1).claim.count = 1 ∧
     neededDemand s.ssv.station (s.chan 1) = (s.chan 1).claim.announced ∧ (s.chan 0).claim.stage ≠ .counting) ∧
    1 < { Claim.reset with stage := .counting, count := 2 }.count := by decide +kernel

/-- R100, R108, R109: a CYCLE level follows the ceiling at once, a SLOW one follows a fall with its on-time and waits with
a rise; a gated channel drives at 0. -/
theorem witness_driver_follows_recomputation :
    (let d := { Driver.reset with level := 60, onTime := 600, output := true }
     let t (k : ChanKind) (level : Nat) (gated : Bool) : Driver :=
       ((recompute
          { with1 { channel k .running ⟨level, some 60, .next⟩ with
              cfg := { ChanConfig.reset with kind := k, load := 100 }
              claim := { Claim.reset with announced := 100, settled := 100, stage := .counting, count := 5 }
              driver := d, gated := gated } with
            apu := { Apu.reset with budgetA := 1000 } }).chan 1).driver
     t .cycle 80 false = { d with level := 80 } ∧ t .cycle 40 false = { d with level := 40 } ∧
     t .slow 80 false = d ∧ t .slow 40 false = { d with level := 40, onTime := 400 } ∧
     t .slow 80 true = { d with level := 0, onTime := 0 }) := by decide +kernel

/-! ### Witnesses: half-cycles on programs and drivers -/

/-- The step of channel 1 is at its last half-cycle. -/
abbrev StepEnds (s : State) (r : StepRecord) : Prop :=
  Shares (.program 1) s ∧ stepTimerRuns (s.chan 1) = true ∧ (s.chan 1).pgu.seconds = 1 ∧
  (s.chan 1).pgu.phase + 1 = perSecond s.mtb.frequency ∧ (s.chan 1).pgu.current = some 0 ∧
  (s.chan 1).pgu.slotAt 0 = some r

theorem witness_stepExpiry :
    StepEnds (with1 (channel .cycle .running (minute .finish))) (minute .finish) ∧
    StepEnds (with1 (channel .burner .running (minute .hold))) (minute .hold) ∧
    StepEnds (with1 (channel .slow .running (minute .next))) (minute .next) ∧
    ((channel .slow .running (minute .next)).pgu.slotAt 1).isSome = true ∧
    (let ch := channel .slow .running (minute .next)
     let s := with1 { ch with pgu := { ch.pgu with slots := ch.pgu.slots.set 1 none } }
     StepEnds s (minute .next) ∧ (s.chan 1).pgu.following 0 = none) := by decide +kernel

theorem witness_stepExpiryOnABurner :
    (let ch := channel .burner .running (minute .next)
     0 < levelAt ch 1 ∧ 0 < levelAt ch 0) ∧
    (let ch := channel .burner .running ⟨0, some 60, .next⟩
     StepEnds (with1 ch) ⟨0, some 60, .next⟩ ∧ 0 < levelAt ch 1 ∧ levelAt ch 0 = 0) ∧
    (let ch := channel .burner .running (minute .next)
     let s := with1 { ch with pgu := { ch.pgu with slots := ch.pgu.slots.set 1 (some ⟨0, none, .hold⟩) } }
     StepEnds s (minute .next) ∧ levelAt (s.chan 1) 1 = 0) := by decide +kernel

theorem witness_delayEnd :
    (let s := with1 (channel .burner .delayed (minute .next))
     Shares (.program 1) s ∧ (s.chan 1).chc.state = .delayed ∧ (s.chan 1).pgu.delay = 1 ∧
     (s.chan 1).pgu.phase + 1 = perSecond s.mtb.frequency ∧ (s.chan 1).pgu.current = some 0) := by decide +kernel

/-- A running slow channel whose driver is `d`. -/
def slow (d : Driver) : State := with1 { channel .slow .running ⟨50, some 60, .next⟩ with driver := d }

theorem witness_slowPeriod :
    (let s := slow Driver.reset
     Shares (.driver 1) s ∧ (s.chan 1).cfg.kind = .slow ∧ (s.chan 1).chc.state = .running ∧
     (driverSample (withInputs (pins false 0 false) s) 1).2 = .nothing ∧ (s.chan 1).driver.inPeriod = false) ∧
    (let s := slow { Driver.reset with inPeriod := true, position := 999 }
     slowPeriod s.mtb.frequency (s.chan 1).cfg ≤ (s.chan 1).driver.position + 1) ∧
    (let s := slow { Driver.reset with inPeriod := true, output := true, position := 199, onTime := 200 }
     (driverSample (withInputs (pins false 0 true) s) 1).2 = .nothing ∧
     (s.chan 1).driver.position + 1 < slowPeriod s.mtb.frequency (s.chan 1).cfg ∧
     (s.chan 1).driver.onTime = (s.chan 1).driver.position + 1) := by decide +kernel

/-- The driver of channel 1 judges the sample it takes. -/
abbrev Judges (s : State) : Prop :=
  Shares (.driver 1) s ∧ driverWorks (s.chan 1) = true ∧ (s.chan 1).driver.suspended = false ∧
  ((s.chan 1).cfg.kind = .slow → (s.chan 1).driver.settle = 0)

theorem witness_silentElement :
    (let s := slow { Driver.reset with output := true, onMismatch := 5 }
     Judges s ∧ (pins false 0 false).sense.get 1 = false ∧ (s.chan 1).driver.uncontrolled = false ∧
     (s.chan 1).driver.output = true ∧ (s.chan 1).driver.onMismatch = 5 ∧ (s.chan 1).driver.accumulator ≤ 99 ∧
     (s.chan 1).chc.state.hasProgram = true) ∧
    (let s := with1 { channel .cycle .disabled (minute .next) with
                      driver := { Driver.reset with uncontrolled := true, clearCount := 5 } }
     Judges s ∧ (s.chan 1).driver.uncontrolled = true ∧ (s.chan 1).driver.clearCount = 5 ∧
     (s.chan 1).chc.state ≠ .running) := by decide +kernel

theorem witness_stuckOn :
    (let s := (slow { Driver.reset with offMismatch := 5 }).setChan 2 (channel .cycle .running (minute .next))
     Judges s ∧ (s.chan 1).driver.uncontrolled = false ∧ (s.chan 1).driver.output = false ∧
     (pins false 0 true).sense.get 1 = true ∧ (s.chan 1).driver.offMismatch = 5 ∧
     (s.chan 1).driver.accumulator ≤ 99 ∧ (s.chan 1).chc.state ≠ .disabled ∧ s.ssv.station ≠ .safe ∧
     (s.chan 2).cfg.kind.isElement = true ∧ (s.chan 2).chc.state.hasProgram = true) ∧
    (let s := with1 { channel .cycle .disabled (minute .next) with
                      driver := { Driver.reset with offMismatch := 5 } }
     Judges s ∧ (s.chan 1).chc.state = .disabled ∧ (s.chan 1).driver.offMismatch = 5) := by decide +kernel

/-- R116: DRIVE_FAULT, the PROGRAM_END of the faulty channel 1, then those of 0 and 2; in SAFE the fault alone and its
PROGRAM_END. -/
theorem witness_stuckOn_records :
    (let e := channel .cycle .running (minute .next)
     let s := ((slow { Driver.reset with offMismatch := 5 }).setChan 2 e).setChan 0 e
     (after (.stuckOn 1 (pins false 0 true)) s).rpu.events =
       [⟨.driveFault, some 1, some 0, 1⟩, ⟨.programEnd, some 1, some 0, 5⟩, ⟨.programEnd, some 0, some 0, 6⟩,
        ⟨.programEnd, some 2, some 0, 6⟩] ∧
     (after (.stuckOn 1 (pins false 0 true)) { s with ssv := { s.ssv with station := .safe } }).rpu.events =
       [⟨.driveFault, some 1, some 0, 1⟩, ⟨.programEnd, some 1, some 0, 5⟩]) := by decide +kernel

/-! ### Witnesses: half-cycles on burners -/

/-- The state in which burner 1 takes its half-cycle with the levels `x`, after the burners below it. -/
def led (x : InputPins) (s : State) : State := lead (comingRising s) (.ignition 1) (withInputs x s)

/-- The half-cycle with the levels `x` finds channel 1 a burner in phase `p` that waits in no queue. -/
abbrev Attempts (x : InputPins) (p : IgnitionPhase) (s : State) : Prop :=
  LeadsTo (.ignition 1) (withInputs x s) (led x s) ∧ ((led x s).chan 1).cfg.kind = .burner ∧
  ((led x s).chan 1).burner.phase = p ∧ (1 : Chan) ∉ (led x s).igu.queue

theorem witness_spark :
    (let s₀ := igniting .lineWait { Burner.reset with quiet := 49 }
     let s := led (pins false 0 false) s₀
     Attempts (pins false 0 false) .lineWait s₀ ∧ (s.chan 1).burner.falseFlame = false ∧
     (levelsRead (pins false 0 false) s₀).spark = false ∧
     hertz s.mtb.frequency = (s.chan 1).burner.quiet + 1 ∧
     ¬ ((s.chan 1).cfg.params.threshold ≤ ((pins false 0 false).flame.get 1).toNat ∧
        (s.chan 1).cfg.params.wOn ≤ min 16 ((s.chan 1).burner.onRun + 1))) ∧
    (let s₀ := igniting .spark { Burner.reset with sparkTime := 50, safety := 49 }
     let s := led (pins false 0 false) s₀
     Attempts (pins false 0 false) .spark s₀ ∧ (s.chan 1).burner.sparkTime = (s.chan 1).burner.safety + 1) := by decide +kernel

theorem witness_flameProven :
    (let s₀ := igniting .prove { Burner.reset with onRun := 1, safety := 199, safetyTime := 200 }
     let s := led (pins false 1 false) s₀
     Attempts (pins false 1 false) .prove s₀ ∧ (levelsRead (pins false 1 false) s₀).spark = false ∧
     (s.chan 1).chc.state = .igniting ∧
     (s.chan 1).cfg.params.threshold ≤ ((pins false 1 false).flame.get 1).toNat ∧
     (s.chan 1).cfg.params.wOn ≤ min 16 ((s.chan 1).burner.onRun + 1) ∧
     (s.chan 1).burner.onRun + 1 = (s.chan 1).cfg.params.wOn) := by decide +kernel

theorem witness_failedAttempt :
    (let s₀ := igniting .prove { Burner.reset with safety := 199, safetyTime := 200, allowed := 2 }
     let s := led (pins false 0 false) s₀
     Attempts (pins false 0 false) .prove s₀ ∧ (s.chan 1).burner.safetyTime = (s.chan 1).burner.safety + 1 ∧
     ((pins false 0 false).flame.get 1).toNat < (s.chan 1).cfg.params.threshold ∧
     (s.chan 1).burner.attempt < (s.chan 1).burner.allowed) ∧
    (let s₀ := igniting .prove { Burner.reset with safety := 199, safetyTime := 200, attempt := 2, allowed := 2 }
     let s := led (pins false 0 false) s₀
     Attempts (pins false 0 false) .prove s₀ ∧ (s.chan 1).burner.allowed ≤ (s.chan 1).burner.attempt) := by decide +kernel

theorem witness_falseFlame :
    (let s₀ := igniting .lineWait { Burner.reset with onRun := 1 }
     let s := led (pins false 1 false) s₀
     Attempts (pins false 1 false) .lineWait s₀ ∧ (s.chan 1).burner.falseFlame = false ∧
     (s.chan 1).cfg.params.threshold ≤ ((pins false 1 false).flame.get 1).toNat ∧
     (s.chan 1).cfg.params.wOn = (s.chan 1).burner.onRun + 1 ∧ (s.chan 1).burner.onRun < 16) ∧
    (let s₀ := igniting .lineWait { Burner.reset with offRun := 1, falseFlame := true, quiet := 48 }
     let s := led (pins false 0 false) s₀
     Attempts (pins false 0 false) .lineWait s₀ ∧ (s.chan 1).burner.falseFlame = true ∧
     ((pins false 0 false).flame.get 1).toNat < (s.chan 1).cfg.params.threshold ∧
     (s.chan 1).cfg.params.wOff = (s.chan 1).burner.offRun + 1 ∧
     (s.chan 1).burner.quiet + 1 < hertz s.mtb.frequency) := by decide +kernel

theorem witness_falseFlame_cleared_at_f :
    (let s₀ := { igniting .lineWait { Burner.reset with offRun := 1, falseFlame := true, quiet := 49, falseTimer := 999 }
                 with sparkRead := some false }
     let s := led (pins true 0 false) s₀
     Attempts (pins true 0 false) .lineWait s₀ ∧ (levelsRead (pins true 0 false) s₀).spark = false ∧
     (s.chan 1).burner.falseFlame = true ∧
     ((pins true 0 false).flame.get 1).toNat < (s.chan 1).cfg.params.threshold ∧
     (s.chan 1).cfg.params.wOff = (s.chan 1).burner.offRun + 1 ∧ (s.chan 1).burner.offRun < 16 ∧
     hertz s.mtb.frequency ≤ (s.chan 1).burner.quiet + 1) := by decide +kernel

theorem witness_falseFlame_lockout :
    (let s₀ := igniting .lineWait { Burner.reset with falseFlame := true, falseTimer := 999 }
     let s := led (pins false 1 false) s₀
     Attempts (pins false 1 false) .lineWait s₀ ∧ 20 * hertz s.mtb.frequency = (s.chan 1).burner.falseTimer + 1 ∧
     (s.chan 1).cfg.params.threshold ≤ ((pins false 1 false).flame.get 1).toNat) := by decide +kernel

theorem witness_flameLoss :
    (let s₀ := with1 { channel .burner .running (minute .next) with
                      burner := { Burner.reset with supervising := true, offRun := 1, blankRun := 399 } }
     let s := led (pins false 0 false) s₀
     Attempts (pins false 0 false) .none s₀ ∧ (s.chan 1).burner.supervising = true ∧
     (s.chan 1).cfg.params.wOff ≤ min 16 ((s.chan 1).burner.offRun + 1) ∧
     8 * hertz s.mtb.frequency ≤ (s.chan 1).burner.blankRun + 1 ∧ s.igu.holder = none ∧ s.igu.queue = []) ∧
    ((pins false 0 false).flame.get 1).toNat < 1 ∧ (levelsRead (pins true 0 false) (station .hz50)).spark = true ∧
    (let s := led (pins true 0 false)
       { with1 { channel .burner .running (minute .next) with
                 burner := { Burner.reset with supervising := true, blankRun := 399 } } with
         igu := { State.reset.igu with holder := some 2 } }
     s.igu.holder.isSome = true ∧ Shares (.ignition 1) s ∧ 8 * hertz s.mtb.frequency = (s.chan 1).burner.blankRun + 1) := by
  decide +kernel

/-! ### Witnesses: the gate inputs and the line -/

/-- Doors 0 and 2 change at the same sample; channels 1 and 3 are guarded by both, channel 2 by the second alone. -/
theorem witness_gateChange :
    (let ch (mask : BitVec 4) := { channel .cycle .running (minute .next) with
                                   cfg := { ChanConfig.reset with kind := .cycle, gateMask := mask } }
     let s := { (((with1 (ch 5)).setChan 2 (ch 4)).setChan 3 (ch 5)) with
                gib := { Gib.reset with gates := (Gib.reset.gates.set 0 ⟨true, 7, .door⟩).set 2 ⟨false, 7, .door⟩ } }
     let p := { Pins.quiet.inputs with gates := Pins.quiet.inputs.gates.set 2 true }
     let e (c : Chan) (x : Nat) : EventRecord := ⟨.door, some c, some 0, x⟩
     Shares .gates s ∧ Shares .manualReset s ∧ p.gates.get 0 ≠ (s.gib.gates.get 0).active ∧ (s.gib.gates.get 0).run = 7 ∧
     p.gates.get 2 ≠ (s.gib.gates.get 2).active ∧ (s.gib.gates.get 2).run = 7 ∧
     (after (.gateChangeAccepted p) s).rpu.events = [e 1 1, e 3 1, e 1 0, e 2 0, e 3 0]) := by decide +kernel

/-- The levels of the five inputs with G1 made, MR pressed or not. -/
def made1 (pressed : Bool) : InputPins :=
  { Pins.quiet.inputs with gates := Pins.quiet.inputs.gates.set 1 true, mr := !pressed }

/-- A locked-out station whose channel 2 is guarded by door 1 in `gate`, with MR in `mr` and the unit held by `h`. -/
def guarded (gate : Gate) (mr : Gib) (h : Option Chan) : State :=
  { (lockedOut.setChan 1 (Channel.reset true)).setChan 2
      { channel .cycle .idle (minute .next) with cfg := { ChanConfig.reset with kind := .cycle, gateMask := 2 } } with
    gib := { mr with gates := mr.gates.set 1 gate }, igu := { State.reset.igu with holder := h } }

/-- R151: the row of a press counts the gates' samples, and that of a gate MR's; both marks stand after either. -/
theorem witness_manualReset :
    (let s := guarded ⟨false, 6, .door⟩ { Gib.reset with mrOn := 99 } none
     let t := after (.manualResetRequest (some (made1 true).gates)) s
     Shares .gates s ∧ Shares .manualReset s ∧ s.gib.mrActive = false ∧ perSecond s.mtb.frequency = s.gib.mrOn + 1 ∧
     made1 true = { s.pins.inputs with gates := (made1 true).gates, mr := !true } ∧
     s.igu.holder = none ∧ (s.chan 1).chc.state = .lockout ∧ (s.chan 0).chc.state ≠ .lockout ∧
     s.rpu.events.length + 4 ≤ 8 ∧ GatesQuiet (made1 true).gates s ∧ (t.gib.gates.get 1).run = 7 ∧
     t.taken = [.gates, .manualReset]) ∧
    (let s := guarded ⟨false, 0, .door⟩ { Gib.reset with mrActive := true, mrOff := 7 } (some 2)
     let t := after (.mrRelease none) s
     Shares .gates s ∧ Shares .manualReset s ∧ s.gib.mrActive = true ∧ s.gib.mrOff = 7 ∧ s.igu.holder.isSome = true ∧
     GatesQuiet s.pins.inputs.gates s ∧ t.gib.mrActive = false ∧ (t.gib.gates.get 1).run = 0) := by decide +kernel

/-- R151, R158, R144: where a press and a door's change fall on one sample, each row takes both, its own records first. -/
theorem witness_press_and_door_of_one_sample :
    (let s := guarded ⟨false, 7, .door⟩ { Gib.reset with mrOn := 99 } none
     let p := after (.manualResetRequest (some (made1 true).gates)) s
     let g := after (.gateChangeAccepted (made1 true)) s
     let x : EventRecord := ⟨.lockoutCleared, some 1, none, 0⟩
     let d : EventRecord := ⟨.door, some 2, none, 0⟩
     pressQualifies (made1 true) s = true ∧ p.rpu.events = [x, d] ∧ g.rpu.events = [d, x] ∧ p.gib = g.gib ∧
     (p.chan 2).gated = true ∧ (g.chan 1).lockoutBit = false) := by decide +kernel

/-- A station at an attempt with `e` in the event queue and `q` in the STATE set. -/
def attempting (e : List EventRecord) (q : List Chan) : State :=
  { station .hz50 with
    rpu := { events := e, lost := false }, eventsNew := true, lif := { line := .idle, replies := [], stateSet := q } }

theorem witness_attempt :
    (let s := attempting [] []
     s.held = false ∧ s.lif.line = .idle ∧ frameUnderWay s = none ∧ s.lif.replies = [] ∧ s.apu.request = false ∧
     s.rpu.events = [] ∧ s.lif.stateSet = []) ∧
    { (station .hz50).apu with request := true }.request = true ∧
    (let s := attempting [⟨.programEnd, some 1, some 0, 1⟩] [1]
     s.eventsNew = true ∧ s.rpu.events ≠ [] ∧ s.lif.stateSet.head? = some 1) ∧
    (∀ d : Chan, ((station .hz50).chan d).claim.announced < 1024) ∧
    { Claim.reset with announced := 1023, stage := .pendingSend }.announced < 1024 := by decide +kernel

/-- A station with a frame of its own under way. -/
def sending (k : SentKind) (bytes : List Byte) : State :=
  { station .hz50 with lif := { State.reset.lif with line := .sending ⟨k, bytes, 1⟩ } }

theorem witness_framesWithoutEffect :
    (sending .event [0x40, 0x00]).held = false ∧
    (sending .event [0x40, 0x00]).lif.line = .sending ⟨.event, [0x40, 0x00], 1⟩ ∧
    sentRecessive [0x40, 0x00] 0 2 = true ∧ sentRecessive [0x40, 0x00] 0 1 = false ∧
    sentRecessive [0x40, 0x00] 0 9 = true ∧ 1 < [0x40, 0x00].length ∧
    (after .stateSent (sending .state [])).lif.line = .closed ∧
    (after (.receiveAborted .cutShort) (station .hz50)).lif.line = .idle ∧
    receptive (station .hz50) = true ∧
    frameComplete [0x03, 0x00, 0xFB] = true ∧ frameValid [0x03, 0x00, 0xFB] = false ∧
    addressMatches (station .hz50).ssv.address ⟨9, 0xF, 5⟩ = false ∧
    addressMatches (station .hz50).ssv.address ⟨0, 0xF, 5⟩ = false ∧ (station .hz50).ssv.clash = false := by
  decide +kernel

/-- R166, R167, R169: whichever row reports the own stop bit that reads dominant, a HALT is taken only after the next idle;
any other mismatch leaves the station assembling the frame that won, and the HALT sets the clash flag. -/
theorem test_own_stop_bit_read_dominant :
    let clash := fun i => (after (.halt 0) (after i (sending .event [0x40, 0x00]))).ssv.clash
    clash (.arbitrationLost 9) = false ∧ clash (.frameAbandoned 1 9) = false ∧
    clash (.receiveAborted .framingError) = false ∧ clash (.arbitrationLost 2) = true ∧
    clash (.frameAbandoned 1 8) = true := by decide +kernel

theorem witness_completedFrames :
    (sending .reply []).lif.line = .sending ⟨.reply, [], 1⟩ ∧ (sending .event []).lif.line = .sending ⟨.event, [], 1⟩ ∧
    (sending .state []).lif.line = .sending ⟨.state, [], 1⟩ ∧
    (sending .demand []).lif.line = .sending ⟨.demand, [], 1⟩ ∧ starved (sending .demand []) = false ∧
    starved { sending .demand [] with apu := { Apu.reset with ownSendAge := 2 } } = true ∧
    (channel .cycle .running (minute .next)).claim.announced <
      neededDemand .active (channel .cycle .running (minute .next)) := by
  decide +kernel

/-- A DEMAND of station 3, which reports ACTIVE and asks 100 on its channel 0. -/
def demandOf3 : List Byte := makeFrame 3 3 [0x19, 0x00, 0, 0, 0, 0, 0, 0, 0x02]

theorem witness_peerFrames :
    receptive (station .hz50) = true ∧ (station .hz50).apu.peers.length = 16 ∧
    frameValid demandOf3 = true ∧ octet demandOf3 0 / 16 = 3 ∧
    octet demandOf3 0 % 16 ≠ (station .hz50).ssv.address.toNat ∧ octet demandOf3 10 % 8 = 2 ∧
    (let frame := makeFrame 2 0 [1, 2, 3, 4]
     frameValid frame = true ∧ 2 ≤ octet frame 0 / 16 ∧ octet frame 0 / 16 ≠ 3 ∧
     octet frame 0 % 16 = (station .hz50).ssv.address.toNat) ∧
    octet (makeFrame 2 1 [1, 2, 3, 4]) 0 % 16 ≠ (station .hz50).ssv.address.toNat := by decide +kernel

/-- 08, Frames sent: the bytes of a DEMAND of station 3 stand in row 3, channel by channel: 100 on A class 0, 1023 on B
class 3, 1 on A class 1, 0. -/
theorem witness_peerFrame_bytes :
    ((after (.peerReportReceived (makeFrame 3 3 [0x19, 0x00, 0xFF, 0xF8, 0x00, 0x50, 0x00, 0x00, 0x04]))
      (station .hz50)).apu.peers[3]?).join =
      some ⟨0, .safe, ⟨⟨100, 0, .a⟩, ⟨1023, 3, .b⟩, ⟨1, 1, .a⟩, ⟨0, 0, .a⟩⟩⟩ := by decide +kernel

/-! ### Witnesses: commands -/

/-- Channel 1 takes a program command that names it. -/
abbrev Takes (ch : Channel) : Prop :=
  Accepts toAll (with1 ch) ∧ maskNames 2 1 = true ∧ notBarred ((with1 ch).chan 1) = true

theorem witness_channelsBarred :
    Accepts toAll (with1 (Channel.reset true)) ∧ programCommand (.pause toAll 2) = some (toAll, 6, 2) ∧
    maskNames 2 0 = false ∧ maskNames 2 1 = true ∧ ((with1 (Channel.reset true)).chan 1).chc.state = .lockout ∧
    ((with1 (channel .unused .idle (minute .next))).chan 1).chc.state ≠ .lockout ∧
    ((with1 (channel .unused .idle (minute .next))).chan 1).cfg.kind = .unused ∧
    unknownCommand 0 [] = true ∧ unknownCommand 14 [] = true ∧ unknownCommand 6 [1, 2] = true := by decide +kernel

theorem witness_start :
    Takes (channel .burner .idle (minute .next)) ∧
    startResult (with1 (channel .burner .idle (minute .next))) 1 0 = .done ∧
    startResult (with1 (channel .burner .idle (minute .next))) 1 7 = .emptySlot ∧
    startResult (with1 (channel .burner .idle (minute .next))) 1 8 = .badValue ∧
    startResult (with1 (channel .burner .paused (minute .next))) 1 8 = .refusedState ∧
    slotOfByte 0 = some 0 := by decide +kernel

theorem witness_pauseResumeSkipAdjust :
    Takes (channel .burner .running (minute .next)) ∧ Takes (channel .cycle .delayed (minute .next)) ∧
    Takes (channel .burner .igniting (minute .next)) ∧ Takes (channel .slow .idle (minute .next)) ∧
    Takes (channel .slow .disabled (minute .next)) ∧ Takes (channel .burner .paused (minute .next)) ∧
    (channel .burner .running (minute .next)).pgu.slots.length = 8 ∧
    (channel .burner .running (minute .next)).pgu.current = some 0 ∧
    (channel .burner .running (minute .next)).pgu.slotAt 0 = some (minute .next) ∧
    (channel .burner .paused (minute .next)).chc.target ≠ some .delayed := by decide +kernel

theorem witness_pausedDelay :
    (let ch := channel .cycle .delayed (minute .next)
     let s := with1 { ch with chc := { ch.chc with state := .paused, causes := ⟨true, true⟩, target := some .delayed } }
     notBarred (s.chan 1) = true ∧ (s.chan 1).chc.state = .paused ∧ (s.chan 1).chc.target = some .delayed ∧
     (s.chan 1).chc.causes.mains = true ∧ (s.chan 1).pgu.current = some 0 ∧ (s.chan 1).pgu.delay ≤ 1) := by
  decide +kernel

theorem witness_stopAndHalt :
    Takes (channel .slow .running (minute .next)) ∧ (15 : Byte).toNat < 16 ∧ maskNames 15 1 = true ∧
    (let s := (with1 (channel .slow .running (minute .next))).setChan 2 (channel .cycle .paused (minute .next))
     Accepts toAll s ∧ (1 : Chan) < 2 ∧ (∀ x : Chan, maskNames 6 x = true ↔ x = 1 ∨ x = 2) ∧ s.rpu.events = [] ∧
     (∀ x : Chan, x = 1 ∨ x = 2 → notBarred (s.chan x) = true ∧ (s.chan x).chc.state.hasProgram = true)) ∧
    16 ≤ (16 : Byte).toNat ∧ (16 : Byte) ≠ 0x80 ∧
    { station .hz50 with lastStarted := some 1 }.lastStarted = some 1 ∧ (station .hz50).lastStarted ≠ some 1 := by
  decide +kernel

/-- Burners 1 and 3 in state `st`, with `h` in SPARK as the holder where there is one. -/
def twoBurners (st : ChanState) (h : Option Chan) : State :=
  let b := { channel .burner st (minute .next) with
             cfg := { (channel .burner st (minute .next)).cfg with params := { ChanConfig.reset.params with attempts := 3 } }
             chc := { (channel .burner st (minute .next)).chc with target := some .igniting, causes := ⟨true, false⟩ } }
  let s := ((station .hz50).setChan 1 b).setChan 3 b
  match h with
  | none => s
  | some c =>
    { s.setChan c
        { channel .burner .igniting (minute .next) with
          burner := { Burner.reset with phase := .spark, sparkTime := 50, safetyTime := 200 }, valve := 7 } with
      igu := { queue := [], holder := some c, spark := true } }

/-- R54, R125, R126: two burners that enter IGNITING by one START or one RESUME join in rising order, the first as holder
where the unit is free, both behind a holder that stays. -/
theorem witness_ignition_joined :
    (let b (p : IgnitionPhase) := { Burner.reset with phase := p, attempt := 1, allowed := 3 }
     let go (s t : State) :=
       FuelSound s ∧ t.igu = { queue := [3], holder := some 1, spark := false } ∧
       (t.chan 1).burner = b .lineWait ∧ (t.chan 3).burner = b .queued
     let wait (s t : State) :=
       FuelSound s ∧ t.igu = { queue := [1, 3], holder := some 0, spark := true } ∧
       (t.chan 1).burner = b .queued ∧ (t.chan 3).burner = b .queued
     go (twoBurners .idle none) (after (.start toAll 10 0 0) (twoBurners .idle none)) ∧
     wait (twoBurners .idle (some 0)) (after (.start toAll 10 0 0) (twoBurners .idle (some 0))) ∧
     go (twoBurners .paused none) (after (.resume toAll 10) (twoBurners .paused none)) ∧
     wait (twoBurners .paused (some 0)) (after (.resume toAll 10) (twoBurners .paused (some 0)))) := by decide +kernel

/-- R146: two burners that leave PAUSED at one return of the mains join in rising order, and an element's driver starts
afresh. -/
theorem witness_ignition_at_the_return :
    (let w := twoBurners .paused none
     let absent (ch : Channel) : Channel := { ch with chc := { ch.chc with causes := ⟨false, true⟩ } }
     let e := absent { channel .cycle .paused (minute .next) with
                       driver := { Driver.reset with suspended := true, accumulator := 99 } }
     let s :=
       { ((w.setChan 1 (absent (w.chan 1))).setChan 3 (absent (w.chan 3))).setChan 2
           { e with chc := { e.chc with target := some .running } } with
         mtb := (crossing { (riding 6999).mtb with returnRun := 9, spacing := 79 }).mtb
         ssv := (riding 6999).ssv }
     let t := after .mainsRestored s
     FuelSound s ∧ t.igu = { queue := [3], holder := some 1, spark := false } ∧ (t.chan 3).burner.allowed = 3 ∧
     (t.chan 2).chc.state = .running ∧ (t.chan 2).driver = Driver.reset) := by decide +kernel

/-- R26, R35, R40, R125: a burner enters IGNITING from a delay that ends, a NEXT expiry and an ADJUST LEVEL of its rest step,
behind the holder. -/
theorem witness_ignition_from_programs :
    (let s (st : ChanState) (r : StepRecord) :=
       (twoBurners .idle (some 0)).setChan 1 (channel .burner st r)
     let queued (s t : State) := FuelSound s ∧ t.igu.queue = [1] ∧ (t.chan 1).burner.phase = .queued
     queued (s .delayed (minute .next)) (after (.delayEnd 1) (s .delayed (minute .next))) ∧
     queued (s .running ⟨0, some 60, .next⟩) (after (.stepExpiry 1) (s .running ⟨0, some 60, .next⟩)) ∧
     queued (s .running ⟨0, some 60, .next⟩) (after (.skip toAll 2 []) (s .running ⟨0, some 60, .next⟩)) ∧
     queued (s .running ⟨0, some 60, .next⟩)
       (after (.adjustLevelAdd toAll 2 5) (s .running ⟨0, some 60, .next⟩))) := by decide +kernel

/-- R56, R58, R127: a STOP of the holder in SPARK releases SPK_EN and promotes the next; one of both empties the unit; one
of the QUEUED burner alone takes it from the queue. -/
theorem witness_ignition_left :
    (let t (mask : Byte) := after (.stop toAll mask []) sparking
     FuelSound sparking ∧ (t 2).igu = { queue := [], holder := some 3, spark := false } ∧
     ((t 2).chan 1).burner = { Burner.reset with allowed := (sparking.chan 1).burner.allowed } ∧
     ((t 2).chan 1).valve = 0 ∧ ((t 2).chan 3).burner.phase = .lineWait ∧
     (t 10).igu = { queue := [], holder := none, spark := false } ∧
     (t 8).igu = { queue := [], holder := some 1, spark := true } ∧ ((t 8).chan 1).burner = (sparking.chan 1).burner ∧
     (after (.stopLast toAll) { sparking with lastStarted := some 1 }).igu.holder = some 3 ∧
     (after (.halt 4) sparking).igu = { queue := [], holder := none, spark := false }) := by decide +kernel

/-- R104: a START and a RESUME into RUNNING start the driver afresh. -/
theorem witness_driver_afresh :
    (let d := { Driver.reset with accumulator := 99, conducting := true, inPeriod := true, position := 7, onTime := 9 }
     let s (k : ChanKind) (st : ChanState) :=
       with1 { channel k st ⟨50, some 60, .next⟩ with
         cfg := { ChanConfig.reset with kind := k }, driver := d
         chc := { (Channel.reset false).chc with state := st, target := some .running, causes := ⟨true, false⟩ } }
     let start (k : ChanKind) := ((after (.start toAll 2 0 0) (s k .idle)).chan 1).driver
     let resume (k : ChanKind) := ((after (.resume toAll 2) (s k .paused)).chan 1).driver
     start .cycle = { d with accumulator := 0, conducting := false } ∧ resume .cycle = start .cycle ∧
     start .slow = { d with inPeriod := false, position := 0, onTime := 0 } ∧ resume .slow = start .slow) := by
  decide +kernel

theorem witness_loadStep :
    Accepts toAll (with1 (channel .slow .running (minute .next))) ∧ maskNames 2 1 = true ∧ maskNames 5 1 = false ∧
    ((7 : Byte) ≠ 0x0F ∧ (7 : Byte).toNat < 8 ∧ (7 : Byte).toNat = (7 : Slot).val) ∧
    (0 : Slot) = ((with1 (channel .slow .running (minute .next))).chan 1).pgu.pointer ∧ 8 ≤ (8 : Byte).toNat := by
  decide +kernel

theorem witness_configure :
    Accepts toAll (station .hz50) ∧ (3 : Byte).toNat = (3 : Chan).val ∧ ¬ (4 : Byte).toNat < 4 ∧
    (station .hz50).configOpen = true ∧ (station .hz50).ssv.station ≠ .safe ∧
    ((station .hz50).chan 3).chc.state = .idle ∧
    (∃ k : Fin 4, (0x0C : Byte).toNat / 4 ^ k.val % 4 = 3) ∧ ¬ (∃ k : Fin 4, (0x9A : Byte).toNat / 4 ^ k.val % 4 = 3) := by
  decide +kernel

/-- R156, R159: a gate that is ACTIVE already gates the channels of the mask once its kind, or the mask, is stored. -/
theorem witness_configure_gates :
    (let s (gate : GateKind) : State :=
       { with1 { channel .cycle .idle (minute .next) with cfg := { ChanConfig.reset with kind := .cycle, gateMask := 4 } } with
         gib := { Gib.reset with gates := Gib.reset.gates.set 2 ⟨true, 0, gate⟩ } }
     let byKind := after (.configureStation toAll 0 0 0x10) (s .unused)
     let byMask (m : Byte) := after (.configureChannel toAll ⟨3, 2, 100, m, 10, 1⟩) (s .door)
     ((s .unused).chan 1).gated = false ∧ (byKind.chan 1).gated = true ∧ (byKind.chan 3).gated = false ∧
     ((byMask 4).chan 3).gated = true ∧ ((byMask 4).chan 1).gated = true ∧ ((byMask 8).chan 3).gated = false) := by
  decide +kernel

theorem witness_queryAndClearFlags :
    Accepts toAll (station .hz50) ∧ (station .hz50).lif.stateSet.Nodup := by decide +kernel

/-! ### The worked examples and tables of spec/ -/

/-- The result of the newest REPLY entry on each channel. -/
def results (s : State) : Option (Quad Result) := s.lif.replies.getLast?.map ReplyEntry.results

/-- 04, Worked apportionment: the grants and paid levels when the warming drawer starts. -/
theorem test_apportionment_scales_class_two :
    (let recs : List DemandRecord := [⟨108, 0, .a⟩, ⟨120, 1, .a⟩, ⟨250, 1, .a⟩, ⟨240, 2, .a⟩, ⟨50, 2, .a⟩]
     recs.map (grantOf 720 recs) = [108, 120, 250, 200, 41]) ∧
    levelPaidBy 200 300 = 66 ∧ levelPaidBy 41 50 = 82 := by decide +kernel

/-- 04, the hob turned up: class 2 is scaled by 188 / 290; R70: the demand is rounded up. -/
theorem test_apportionment_after_the_hob :
    (let recs : List DemandRecord := [⟨162, 0, .a⟩, ⟨120, 1, .a⟩, ⟨250, 1, .a⟩, ⟨240, 2, .a⟩, ⟨50, 2, .a⟩]
     recs.map (grantOf 720 recs) = [162, 120, 250, 155, 32]) ∧ demandFor 180 90 = 162 ∧ demandFor 50 33 = 17 := by
  decide +kernel

/-- R106, the table for P = 2,000 and M = 400. -/
theorem test_slowOnTime_table :
    [0, 15, 20, 51, 66, 80, 85, 100].map (slowOnTime 2000 400) = [0, 0, 400, 1020, 1320, 1600, 1600, 2000] := by
  decide +kernel

/-- 05, cycle drive of an oven element: cycles 4, 7, 8 and 9. -/
theorem test_cycleCommand_table :
    (cycleCommand true { Driver.reset with level := 30, accumulator := 90 }).accumulator = 20 ∧
    (cycleCommand true { Driver.reset with level := 30, accumulator := 80 }).output = true ∧
    (cycleCommand true { Driver.reset with level := 75, accumulator := 10 }).output = false ∧
    (cycleCommand true { Driver.reset with level := 75, accumulator := 85 }).accumulator = 60 := by decide +kernel

/-- 05, cycle 13: the door opens before the second half of a conducting cycle. -/
theorem test_cycleCommand_second_half_of_a_gated_cycle :
    (cycleCommand false { Driver.reset with level := 0, conducting := true, output := true }).output = false ∧
    (cycleCommand false { Driver.reset with level := 75, conducting := true }).output = true := by decide +kernel

/-- 05, slow drive of a grill: a ceiling that falls to 66, then a rise that waits. -/
theorem test_followCeiling_on_a_grill :
    (let ch (k v u : Nat) : Channel :=
       { channel .slow .running ⟨80, some 60, .next⟩ with
         cfg := { ChanConfig.reset with kind := .slow, load := 300, period := 20, minSwitch := 4 }
         claim := { Claim.reset with ceiling := k }
         driver := { Driver.reset with level := v, inPeriod := true, position := 700, onTime := u, output := true } }
     (followCeiling (some .hz50) (ch 66 80 1600)).onTime = 1320 ∧
     (followCeiling (some .hz50) (ch 15 80 1600)).onTime = 0 ∧
     (followCeiling (some .hz50) (ch 80 51 1020)).onTime = 1020 ∧
     (followCeiling (some .hz50) (ch 80 51 1020)).level = 51) := by decide +kernel

/-- 09, lines 5 and 7: the clamps of the minimum switch time, the ignition position and the safety time. -/
theorem test_configuration_clamps :
    (channelConfigOf ChanConfig.reset .slow ⟨1, 2, 50, 0x23, 10, 5⟩).minSwitch = 2 ∧
    (channelConfigOf ChanConfig.reset .slow ⟨1, 2, 50, 0x23, 10, 5⟩).cls = 2 ∧
    (channelConfigOf ChanConfig.reset .burner ⟨2, 3, 0, 0x02, 0, 0⟩).gateMask = 0 ∧
    (channelConfigOf ChanConfig.reset .burner ⟨2, 3, 0, 0x02, 0, 0⟩).load = 1 ∧
    (burnerParamsOf ⟨4, 3, 20, 25, 5, 6, 4, 4⟩).position = 5 ∧
    (burnerParamsOf ⟨4, 3, 20, 25, 5, 6, 4, 4⟩).safetyTime = 30 := by decide +kernel

/-- 09, lines 3 and 4: a gate code of 3 refuses the whole command; a budget of 5,000 is stored as 4,095. -/
theorem test_configureStation_lines_3_and_4 :
    (let s := after (.configureStation toAll 720 5000 0xC9) (station .hz50)
     results s = some (.fill .badValue) ∧ s.apu.budgetA = 0) ∧
    (let s := after (.configureStation toAll 720 5000 0x09) (station .hz50)
     results s = some (.fill .done) ∧ s.apu.budgetA = 720 ∧ s.apu.budgetB = 4095 ∧
     (s.gib.gates.get 0).kind = .thermostat ∧ (s.gib.gates.get 1).kind = .door) := by decide +kernel

/-- 09, line 8: an unknown kind is refused on the named channel alone. -/
theorem test_configureChannel_line_8 :
    results (after (.configureChannel toAll ⟨3, 5, 0, 0, 0, 0⟩) (station .hz50)) =
      some ⟨.done, .done, .done, .badValue⟩ := by decide +kernel

/-- 09, lines 2 and 12: START where the station or the channel is not configured. -/
theorem test_start_not_configured :
    results (after (.start toAll 8 0 0) (station .hz50)) = some ⟨.done, .done, .done, .notConfigured⟩ := by
  decide +kernel

/-- 03: a station with an oven element, a burner, a grill, and channel 3 UNUSED. -/
def fourChannels : State :=
  { station .hz50 with
    chans :=
      ⟨channel .cycle .idle ⟨50, some 60, .next⟩, channel .burner .idle ⟨6, some 60, .next⟩,
       channel .slow .idle ⟨50, some 60, .next⟩, channel .unused .idle ⟨50, some 60, .next⟩⟩ }

/-- 03, line 1. -/
theorem test_start_line_1 :
    (let s := after (.start toAll 3 0 0) fourChannels
     results s = some (.fill .done) ∧ (s.chan 0).chc.state = .running ∧ (s.chan 1).chc.state = .igniting ∧
     s.lastStarted = some 1 ∧ s.configOpen = false) := by decide +kernel

/-- 03, line 2. -/
theorem test_start_line_2 :
    (let s := after (.start toAll 12 0 300) fourChannels
     results s = some ⟨.done, .done, .done, .unusedChannel⟩ ∧ (s.chan 2).chc.state = .delayed ∧
     (s.chan 2).pgu.delay = 300 ∧ s.lastStarted = some 2) := by decide +kernel

/-- 03, line 3: a PAUSE of an igniting burner is BUSY. -/
theorem test_pause_line_3 :
    (let s := after (.pause toAll 2) (igniting .queued Burner.reset)
     results s = some ⟨.done, .busy, .done, .done⟩ ∧ (s.chan 1).chc.state = .igniting) := by decide +kernel

/-- 03, lines 7 and 8: with the mains absent a RESUME removes COMMAND alone. -/
theorem test_resume_line_7 :
    (let ch := channel .burner .paused ⟨6, some 60, .next⟩
     let s := after (.resume toAll 2)
       (with1 { ch with chc := { ch.chc with causes := ⟨true, true⟩, target := some .running } })
     (s.chan 1).chc.state = .paused ∧ (s.chan 1).chc.causes = ⟨false, true⟩) := by decide +kernel

/-- 03, lines 9 and 10: STOP LAST ends the program of the channel started last, and then finds it IDLE. -/
theorem test_stopLast_lines_9_and_10 :
    (let s := after (.stopLast toAll) { with1 (channel .slow .paused (minute .next)) with lastStarted := some 1 }
     (s.chan 1).chc.state = .idle ∧ (s.chan 1).chc.endCause = .stopped ∧ s.lastStarted = some 1 ∧
     results s = some (.fill .done)) := by decide +kernel

/-- 03, line 12: HALT ends every program without a reply. -/
theorem test_halt_line_12 :
    (let s := after (.halt 4) (with1 (channel .burner .running (minute .next)))
     (s.chan 1).chc.endCause = .halted ∧ s.lif.replies = [] ∧
     s.rpu.events = [⟨.programEnd, some 1, some 0, 3⟩]) := by decide +kernel

/-- 02, an oven program: SKIP on the holding step of slot 2 finds slot 3 EMPTY. -/
theorem test_skip_at_4200 :
    (let ch := channel .cycle .running (minute .hold)
     let s := after (.skip toAll 2 [])
       (with1 { ch with pgu := { ch.pgu with
                  slots := (List.replicate 8 none).set 2 (some ⟨30, some 900, .hold⟩)
                  current := some 2, seconds := 0, holding := true } })
     s.rpu.events = [⟨.stepEnd, some 1, some 2, 0⟩, ⟨.programEnd, some 1, some 2, 1⟩] ∧
     (s.chan 1).chc.state = .idle) := by decide +kernel

/-- 02, an oven program: the ADJUSTs at 50, 390 and 1,290 seconds. -/
theorem test_adjust_of_the_oven_program :
    (let ch := channel .cycle .delayed ⟨100, some 600, .next⟩
     ((after (.adjustTimeSubtract toAll 2 30 []) (with1 { ch with pgu := { ch.pgu with delay := 70 } })).chan 1).pgu.delay =
       40) ∧
    (let ch := channel .cycle .running ⟨100, some 600, .next⟩
     ((after (.adjustLevelSubtract toAll 2 20) (with1 ch)).chan 1).pgu.level = 80 ∧
     ((after (.adjustTimeAdd toAll 2 600) (with1 { ch with pgu := { ch.pgu with seconds := 1200 } })).chan 1).pgu.seconds =
       1800) := by decide +kernel

/-- R22, R23: a load AT_POINTER clamps the record and wraps the pointer from 7 to 0. -/
theorem test_loadStep_at_pointer :
    (let s := after (.loadStep toAll 2 0x0F 120 90000 1)
       (with1 { channel .cycle .idle (minute .next) with pgu := { Pgu.reset with pointer := 7 } })
     (s.chan 1).pgu.slotAt 7 = some ⟨100, some 86399, .finish⟩ ∧ (s.chan 1).pgu.pointer = 0) := by decide +kernel

/-- R24: the current slot is neither loaded nor cleared. -/
theorem test_loadStepClear_of_the_current_slot :
    results (after (.loadStepClear toAll 2 0) (with1 (channel .cycle .running (minute .next)))) =
      some ⟨.done, .refusedState, .done, .done⟩ := by decide +kernel

/-- R191: a set holding [2] that takes QUERY for 0, 2 and 3 becomes [2, 0, 3]. -/
theorem test_query_joins_in_rising_order :
    (after (.query toAll 0x0D) { station .hz50 with lif := { line := .idle, replies := [], stateSet := [2] } }).lif.stateSet =
      [2, 0, 3] := by decide +kernel

/-- R18: the clash flag stays while the clash-quiet count is below 4. -/
theorem test_clearFlags_before_quiet :
    (let s := after (.clearFlags toAll)
       { station .hz50 with ssv := { (station .hz50).ssv with clash := true, clashQuiet := 3, powerFail := true } }
     s.ssv.clash = true ∧ s.ssv.powerFail = false) := by decide +kernel

/-- R171, the table of masks and targets. -/
theorem test_addressMatches_table :
    addressMatches 5 ⟨0, 0xF, 5⟩ = true ∧ addressMatches 4 ⟨0, 0xF, 5⟩ = false ∧ addressMatches 7 ⟨0, 0xC, 4⟩ = true ∧
    addressMatches 8 ⟨0, 0xC, 4⟩ = false ∧ addressMatches 3 ⟨0, 0x1, 1⟩ = true ∧ addressMatches 2 ⟨0, 0x1, 1⟩ = false ∧
    addressMatches 2 ⟨0, 0, 9⟩ = true := by decide +kernel

/-- 08, one busy moment: byte 0 of four frames, and the kind that S2 offers first. -/
theorem test_byte_0_of_the_busy_moment :
    [makeFrame 1 0 [], makeFrame 2 2 [], makeFrame 3 3 [], makeFrame 4 5 []].map (fun f => f.headD 0) =
      [0x10, 0x22, 0x33, 0x45] ∧
    sentRecessive [0x45] 0 2 = true ∧ sentRecessive [0x22] 0 3 = true ∧ sentRecessive [0x10] 0 3 = false := by
  decide +kernel

/-- R165, R171 and 08, COMMAND frames: words written out from the layouts give their commands. -/
theorem test_commandOfFrame_words :
    commandOfFrame 2 0 [] [0x10, 0x07, 0xF2, 0x05, 0x01, 0x00, 0x00, 0x00, 0x00, 0xF0] = .start ⟨0, 0xF, 2⟩ 1 0 0 ∧
    commandOfFrame 2 0 [] [0x04, 0x00, 0xFB] = .halt 4 ∧
    commandOfFrame 2 0 [] [0x10, 0x03, 0x00, 0x08, 0x80, 0x64] = .stopLast ⟨0, 0, 0⟩ ∧
    commandOfFrame 2 0 [] [0x10, 0x02, 0xF3, 0x0C, 0xEE] = .commandNotMatched ⟨0, 0xF, 3⟩ ∧
    commandOfFrame 2 0 [] [0x10, 0x02, 0xF2, 0x0D, 0xEE] = .resetStation ⟨0, 0xF, 2⟩ 0 := by decide +kernel

/-- The table gives no row any bits: no word spells a command, and none is put in front. -/
theorem test_decodeTableWord : decodeTableWord 0 0 = none ∧ (station .hz50).withFetchWord 0 0 = station .hz50 := by
  decide +kernel

/-- 01, a short dropout: a ride-through reading of 7,000 samples is 8 tenths. -/
theorem test_mainsRestored_after_7000_samples :
    (let s := after .mainsRestored
       { crossing { Mtb.reset with
           mode := .missing, frequency := some .hz50, rideTimer := some 6999, returnRun := 9, spacing := 79
           prescaler := 63 } with
         ssv := { State.reset.ssv with station := .rideThrough, prior := some .active } }
     s.rpu.events = [⟨.mainsRestored, none, none, 8⟩] ∧ s.ssv.station = .active ∧ s.mtb.prescaler = 63) := by
  decide +kernel

/-- 07, a manual reset: the request is ignored while a burner holds the unit, and taken when none does. -/
theorem test_manualReset_waits_for_no_holder :
    (let s (h : Option Chan) : State :=
       { lockedOut with
         chans := lockedOut.chans.set 1 (Channel.reset true), igu := { State.reset.igu with holder := h } }
     ((after .manualResetRequest (s (some 2))).chan 1).lockoutBit = true ∧
     (after .manualResetRequest (s (some 2))).gib.mrActive = true ∧
     ((after .manualResetRequest (s none)).chan 1).chc.state = .idle) := by decide +kernel

/-- 10, an overflow: with six records waiting, the two of the faulty channel join and the rest are lost. -/
theorem test_stuckOn_overflows_the_event_queue :
    (let e : EventRecord := ⟨.door, some 0, none, 0⟩
     let s0 := { (slow { Driver.reset with offMismatch := 5 }).setChan 2 (channel .cycle .running (minute .next)) with
                 rpu := { events := List.replicate 6 e, lost := false } }
     let s := after (.stuckOn 1 (pins false 0 true)) s0
     s.rpu.events.drop 6 = [⟨.driveFault, some 1, some 0, 1⟩, ⟨.programEnd, some 1, some 0, 5⟩] ∧
     s.rpu.lost = true ∧ (s.chan 2).chc.endCause = .safe ∧ s.ssv.relay = false) := by decide +kernel

/-- 07, the oven door: the eighth active sample raises DOOR OPEN for both channels it guards, and both are gated. -/
theorem test_gateChange_opens_the_door :
    (let ch := { channel .cycle .running ⟨100, some 1800, .next⟩ with
                 cfg := { ChanConfig.reset with kind := .cycle, gateMask := 3 } }
     let s := after (.gateChangeAccepted { Pins.quiet.inputs with gates := Pins.quiet.inputs.gates.set 1 true })
       { (with1 ch).setChan 2 ch with
         gib := { Gib.reset with gates := (Gib.reset.gates.set 0 ⟨false, 0, .thermostat⟩).set 1 ⟨false, 7, .door⟩ } }
     s.rpu.events = [⟨.door, some 1, some 0, 0⟩, ⟨.door, some 2, some 0, 0⟩] ∧
     (s.chan 1).gated = true ∧ (s.chan 2).claim.ceiling = 0) := by decide +kernel

/-! ### What happens within one half-cycle, one frame, one moment -/

/-- A station with burners 1 and 3 in `ch` and an element on channel 2, at an accepted crossing with the second event. -/
def burning (ch : Channel) (igu : Igu) : State :=
  { ((with1 ch).setChan 3 ch).setChan 2 (channel .cycle .running (minute .next)) with
    igu := igu, mtb := { (station .hz50).mtb with run := 3, prescaler := 99 } }

/-- R28, R135, 06: the half-cycle of the proof does not count on the step timer, whichever unit takes it first. -/
theorem test_proof_starts_the_timer_with_the_next_half_cycle :
    (let ch := { channel .burner .igniting (minute .next) with
                 burner := { Burner.reset with phase := .prove, onRun := 1, safetyTime := 200 } }
     let s := (burning ch { State.reset.igu with holder := some 1 }).setChan 3 (Channel.reset false)
     let t (order : List HalfCycleUnit) := (after (.acceptedCrossing (pins false 1 false) order) s).chan 1
     (t [.ignition 1, .program 1]).chc.state = .running ∧ (t [.ignition 1, .program 1]).pgu = ch.pgu ∧
     (t [.program 1, .ignition 1]).pgu = ch.pgu) := by decide +kernel

/-- R139: the second event of the half-cycle in which the attempt fails takes nothing from a purge of 10 s. -/
theorem test_purge_lasts_more_than_its_seconds :
    (let ch := { channel .burner .igniting (minute .next) with
                 cfg := { ChanConfig.reset with kind := .burner, params := { ChanConfig.reset.params with purge := 10 } }
                 burner := { Burner.reset with phase := .prove, safety := 199, safetyTime := 200, allowed := 2 } }
     let s := (burning ch { State.reset.igu with holder := some 1 }).setChan 3 (Channel.reset false)
     let t := after (.acceptedCrossing (pins false 0 false) [.ignition 1, .prescaler]) s
     (t.chan 1).burner.phase = .purge ∧ (t.chan 1).burner.purge = 11 ∧ t.mtb.prescaler = 0 ∧
     ((after (.attemptFail 1 (pins false 0 false)) s).chan 1).burner.purge = 11) := by decide +kernel

/-- R125: two flames lost at one half-cycle join in rising order, in whatever order the shares are delivered. -/
theorem test_flame_losses_of_one_half_cycle_join_in_rising_order :
    (let ch := { channel .burner .running (minute .next) with
                 burner := { Burner.reset with supervising := true, offRun := 1 } }
     (after (.acceptedCrossing (pins false 0 false) [.ignition 3, .ignition 1])
       (burning ch { State.reset.igu with holder := some 0 })).igu.queue = [1, 3] ∧
     (after (.flameLoss 3 (pins false 0 false)) (burning ch { State.reset.igu with holder := some 0 })).igu.queue =
       [1, 3]) := by decide +kernel

/-- R125: nothing falls within the event in which burners 1 and 3 lose their flames: a burner that another unit, or a
command after FLAME_LOSS, sends to the queue joins after both or before both. -/
theorem test_no_burner_joins_within_an_event :
    (let ch := { channel .burner .running (minute .next) with
                 burner := { Burner.reset with supervising := true, offRun := 1 } }
     let rest (st : ChanState) := { channel .burner st ⟨0, some 60, .next⟩ with
                                    pgu := { (channel .burner st ⟨0, some 60, .next⟩).pgu with
                                             slots := [some ⟨0, some 60, .next⟩, some ⟨5, some 60, .next⟩] } }
     let s (st : ChanState) := (burning ch { State.reset.igu with holder := some 2 }).setChan 0 (rest st)
     let p := pins false 0 false
     let order (us : List HalfCycleUnit) := (after (.acceptedCrossing p us) (s .running)).igu.queue
     order [.ignition 1, .program 0, .ignition 3] = [1, 3, 0] ∧ order [.program 0, .ignition 1] = [0, 1, 3] ∧
     (let t := after (.start toAll 1 1 0) (after (.flameLoss 1 p) (s .idle))
      t.igu.queue = [1, 3, 0] ∧ (after (.acceptedCrossing p []) t).igu.queue = [1, 3, 0])) := by decide +kernel

/-- R195: the PROGRAM_END records of two channels that one STOP ends join in either order. -/
theorem test_stop_of_two_channels_in_either_order :
    (let s := burning (channel .burner .running (minute .next)) State.reset.igu
     let e (c : Chan) : EventRecord := ⟨.programEnd, some c, some 0, 2⟩
     (after (.stop toAll 6 []) s).rpu.events = [e 1, e 2] ∧
     (after (.stop toAll 6 [2]) s).rpu.events = [e 2, e 1]) := by decide +kernel

/-- R195: the same for the programs that a mains failure ends. -/
theorem test_mainsFailed_in_either_order :
    (let s := { burning (channel .burner .paused (minute .next)) State.reset.igu with
                mtb := { Mtb.reset with mode := .missing, frequency := some .hz50, rideTimer := some 15999 } }
     let e (c : Chan) : EventRecord := ⟨.programEnd, some c, some 0, 4⟩
     (after (.mainsFailed []) s).rpu.events = [e 1, e 2, e 3] ∧
     (after (.mainsFailed [3, 1]) s).rpu.events = [e 3, e 1, e 2]) := by decide +kernel

/-- R197: a STATE frame may go before the EVENT frame of a change that came together with the attempt. -/
theorem test_state_before_the_event_of_its_change :
    (let kind (late : Bool) :=
       (frameUnderWay (after (.lineIdle late) (attempting [⟨.programEnd, some 1, some 0, 1⟩] [1]))).map TxFrame.kind
     kind false = some .event ∧ kind true = some .state) := by decide +kernel

/-- R125, R128: the SPARK_END of burner 3 takes the sample of burner 1 with it, at the levels that stand then: a flame lost
where SPK_SENSE is inactive, and none where it blanks. -/
theorem test_sparkEnd_samples_the_other_burners :
    (let lit := { channel .burner .running (minute .next) with
                  burner := { Burner.reset with supervising := true, offRun := 1 } }
     let b := { channel .burner .igniting (minute .next) with
                burner := { Burner.reset with phase := .spark, safety := 49, sparkTime := 50 } }
     let s := (burning lit { State.reset.igu with holder := some 3 }).setChan 3 b
     let t (spark : Bool) := after (.sparkEnd 3 (some (pins spark 0 false))) s
     ((t true).chan 3).burner.phase = .prove ∧ ((t true).chan 1).chc.state = .running ∧
     ((t true).chan 1).burner.blankRun = 1 ∧ ((t false).chan 3).burner.phase = .prove ∧
     ((t false).chan 1).chc.state = .igniting) := by decide +kernel

/-- R128: SPK_SENSE is read once for the station: a reading that FLAME_LOSS has taken stands at the crossing. -/
theorem test_spark_sense_is_read_once :
    (let lit := { channel .burner .running (minute .next) with
                  burner := { Burner.reset with supervising := true, offRun := 1 } }
     let s := (burning lit { State.reset.igu with holder := some 0 }).setChan 3
       { lit with burner := { lit.burner with offRun := 0 } }
     let t := after (.flameLoss 1 (pins false 0 false)) s
     let u := after (.acceptedCrossing (pins true 0 false) []) t
     t.sparkRead = some false ∧ (u.chan 3).burner.offRun = 1 ∧ (u.chan 3).burner.blankRun = 0 ∧
     u.sparkRead = none) := by decide +kernel

/-- R75, R182 (09): a BURNER without burner parameters is sent with demand 0, class 0, on circuit A, and with its own class
and circuit once they are taken. -/
theorem test_demand_of_a_burner_without_parameters :
    (let ch (taken : Bool) : Channel :=
       { Channel.reset false with
         cfg := { ChanConfig.reset with kind := .burner, cls := 2, circuit := .b, burnerTaken := taken } }
     demandBytes (ownRecord (ch false)) = [0x00, 0x00] ∧ demandBytes (ownRecord (ch true)) = [0x00, 0x28]) := by
  decide +kernel

/-- R169: a frame cut short is discarded at the idle, so the next one is taken; after a framing error none is. -/
theorem test_frame_after_a_discard :
    (let next (c : AbortCause) :=
       (after (.halt 4) (after (.receiveAborted c) (with1 (channel .slow .running (minute .next))))).chan 1
     (next .cutShort).chc.state = .idle ∧ (next .framingError).chc.state = .running ∧
     (next .lengthOutOfRange).chc.state = .running) := by decide +kernel

/-- R80, R81: a DEMAND that completes in a starved station satisfies its request and starts the count of its hold. -/
theorem test_demandSent_ends_starvation :
    (let s := { (with1 { channel .cycle .running ⟨50, some 60, .next⟩ with
                           claim := { Claim.reset with announced := 50, settled := 20, stage := .pendingSend, carried := true } })
                with
                lif := (sending .demand []).lif
                apu := { Apu.reset with ownSendAge := 2, request := true, budgetA := 100 } }
     let t := after .demandSent s
     t.apu.request = false ∧ (t.chan 1).claim.stage = .counting ∧ (t.chan 1).claim.count = 100 ∧
     (t.chan 1).claim.ceiling = 20) := by decide +kernel

/-- R36, R42: the records of a SKIP of two channels, one that goes on and one whose program ends, in either order. -/
theorem test_skip_records :
    (let s := { (with1 (channel .slow .running (minute .hold))).setChan 2 (channel .cycle .delayed (minute .next)) with
                rpu := { events := [], lost := false } }
     let e1 : EventRecord := ⟨.stepEnd, some 1, some 0, 2⟩
     let e2 : EventRecord := ⟨.delayEnd, some 2, some 0, 0⟩
     (after (.skip toAll 6 []) s).rpu.events = [e1, e2] ∧ (after (.skip toAll 6 [2]) s).rpu.events = [e2, e1]) := by
  decide +kernel

/-- R2: nominal mains of nine spacings of 80 samples sets f to 50, of 66 to 60. -/
theorem test_judgeWindow_bounds :
    [539, 540, 600, 647, 648, 720, 792, 793].map judgeWindow =
      [none, some .hz60, some .hz60, some .hz60, some .hz50, some .hz50, some .hz50, none] := by decide +kernel

end Sys2Proof.Tests
end

section
/-! SUPPORT. What the turns of the channels in a command leave alone (R46): the station but for the ignition unit, the
configurations, and every channel whose turn it is not, but for a promotion to LINE_WAIT (R126). -/

namespace Sys2Proof.Machine

/-! ### Turns of channels -/

/-- Between `s` and `t` the channels of `moved` have acted on a command: the station has kept all but its ignition unit,
every channel its configuration, its claim, its gated condition and its lockout bit, and the channels outside `moved`
everything but the phase and the quiet count, which a promotion sets (R126). -/
structure Turns (moved : Chan → Prop) (s t : State) : Prop where
  station : t = { s with chans := t.chans, igu := t.igu }
  fixtures : ∀ d : Chan,
    (t.chan d).cfg = (s.chan d).cfg ∧ (t.chan d).gated = (s.chan d).gated ∧
    (t.chan d).lockoutBit = (s.chan d).lockoutBit
  others : ∀ d : Chan, ¬ moved d →
    t.chan d =
      { s.chan d with
        burner := { (s.chan d).burner with phase := (t.chan d).burner.phase, quiet := (t.chan d).burner.quiet } }

theorem Turns.refl (moved : Chan → Prop) (s : State) : Turns moved s s :=
  ⟨rfl, fun _ => ⟨rfl, rfl, rfl⟩, fun _ _ => rfl⟩

theorem Turns.trans {moved : Chan → Prop} {s t u : State} (h : Turns moved s t) (k : Turns moved t u) :
    Turns moved s u where
  station := by
    have hs := h.station
    have ks := k.station
    generalize u.chans = cs at ks
    generalize u.igu = g at ks
    subst ks
    rw [hs]
  fixtures d := by
    obtain ⟨hc, hg, hl⟩ := h.fixtures d
    obtain ⟨kc, kg, kl⟩ := k.fixtures d
    exact ⟨kc.trans hc, kg.trans hg, kl.trans hl⟩
  others d hd := by rw [k.others d hd, h.others d hd]

theorem Turns.mono {p q : Chan → Prop} {s t : State} (h : Turns p s t) (hpq : ∀ d, p d → q d) : Turns q s t :=
  ⟨h.station, h.fixtures, fun d hd => h.others d fun hp => hd (hpq d hp)⟩

/-- A channel whose turn it was not is kept. -/
theorem Turns.keepsChannel {moved : Chan → Prop} {s t : State} (h : Turns moved s t) {d : Chan} (hd : ¬ moved d) :
    KeepsChannel d s t := by
  rw [KeepsChannel, KeepsProgram, h.others d hd]
  exact ⟨⟨rfl, rfl, rfl⟩, rfl, rfl, rfl, rfl⟩

theorem Turns.driver {moved : Chan → Prop} {s t : State} (h : Turns moved s t) {d : Chan} (hd : ¬ moved d) :
    (t.chan d).driver = (s.chan d).driver := by rw [h.others d hd]

/-- A change of channel `c` alone that keeps its fixtures is a turn of `c`. -/
theorem turns_mapChan (c : Chan) (f : Channel → Channel) (s : State)
    (hf : ∀ ch, (f ch).cfg = ch.cfg ∧ (f ch).gated = ch.gated ∧ (f ch).lockoutBit = ch.lockoutBit := by
      exact fun _ => ⟨rfl, rfl, rfl⟩) :
    Turns (· = c) s (s.mapChan c f) where
  station := rfl
  fixtures d := by
    by_cases hd : d = c
    · subst hd; simpa using hf _
    · simp [hd]
  others d hd := by simp [hd]

/-- A change of the ignition unit alone is a turn of any channel. -/
theorem turns_igu (c : Chan) (g : Igu) (s : State) : Turns (· = c) s { s with igu := g } :=
  ⟨rfl, fun _ => ⟨rfl, rfl, rfl⟩, fun _ _ => rfl⟩

/-- A promotion is within the turn of any channel. -/
theorem turns_promote (c : Chan) (s : State) : Turns (· = c) s (promote s) := by
  unfold promote
  split
  · rename_i e rest _ _
    refine ⟨rfl, fun d => ?_, fun d _ => ?_⟩ <;> by_cases hd : d = e
    · subst hd; rw [State.chan_mapChan_self]; exact ⟨rfl, rfl, rfl⟩
    · rw [State.chan_mapChan_ne _ _ _ _ hd]; exact ⟨rfl, rfl, rfl⟩
    · subst hd; rw [State.chan_mapChan_self]; rfl
    · rw [State.chan_mapChan_ne _ _ _ _ hd]; rfl
  · exact .refl _ s

theorem turns_enterIgnition (c : Chan) (n : Nat) (s : State) : Turns (· = c) s (enterIgnition c n s) :=
  (turns_mapChan c _ s).trans <|
    (turns_igu c _ _).trans <| (turns_mapChan c _ _).trans (turns_promote c _)

theorem turns_releaseUnit (c : Chan) (s : State) : Turns (· = c) s (releaseUnit s) :=
  (turns_igu c _ s).trans (turns_promote c _)

theorem turns_leaveIgnition (c : Chan) (s : State) : Turns (· = c) s (leaveIgnition c s) := by
  have cleared (u : State) := turns_mapChan c
    (fun ch => { ch with burner := ch.burner.outOfIgnition, valve := 0 }) u
  unfold leaveIgnition
  dsimp only
  split
  case h_1 => exact .refl _ s
  case h_2 => exact (turns_igu c _ s).trans (cleared _)
  case h_6 => exact cleared s
  all_goals exact (cleared s).trans (turns_releaseUnit c _)

theorem turns_quench (c : Chan) (s : State) : Turns (· = c) s (quench c s) :=
  (turns_leaveIgnition c s).trans (turns_mapChan c _ _)

theorem turns_startSlot (c : Chan) (n : Slot) (s : State) : Turns (· = c) s (startSlot c n s) := by
  have started := turns_mapChan c (fun ch => { ch with pgu := ch.pgu.started n }) s
  unfold startSlot
  dsimp only
  refine started.trans ?_
  split_ifs
  case neg => exact turns_enterIgnition c _ _
  all_goals exact turns_mapChan c _ _

theorem turns_leavePaused (c : Chan) (s : State) : Turns (· = c) s (leavePaused c s) := by
  unfold leavePaused
  dsimp only
  refine (turns_mapChan c (fun ch => { ch with chc := { ch.chc with target := none } }) s).trans ?_
  split_ifs
  · exact turns_mapChan c _ _
  · exact turns_enterIgnition c _ _
  · exact turns_mapChan c _ _

/-! ### The turns of a command -/

/-- What `act` does on a channel is a turn of that channel. -/
abbrev ActsByTurns (act : ChannelAct) : Prop := ∀ (c : Chan) (s : State), Turns (· = c) s (act c s).1

/-- The station state that admits no START on the channel (R49). -/
theorem startReady_false_iff (s : State) (c : Chan) :
    startReady s c = false ↔
      s.ssv.station = .mainsWait ∨ s.ssv.station = .rideThrough ∨
        (s.ssv.station = .safe ∧ ((s.chan c).cfg.kind ≠ .burner ∨ s.mtb.mode ≠ .tracking)) := by
  unfold startReady tracking
  cases s.ssv.station <;> simp [imp_iff_not_or]

/-- A START on a channel past steps 1 and 2 answers by steps 3 to 7 of the judging order (R47, R49); it begins the program
at its start slot, on an IDLE channel, where it answers DONE (R50), and does nothing otherwise. -/
theorem startChannel_cases (slot : Byte) (delay : BitVec 24) (c : Chan) (s : State) :
    (startResult s c slot ≠ .done ∧ startChannel slot delay c s = (s, startResult s c slot)) ∨
    (startResult s c slot = .done ∧ (s.chan c).chc.state = .idle ∧ ∃ n, slotOfByte slot = some n ∧
      startChannel slot delay c s = (beginProgram c n (delayOfField delay) s, .done)) := by
  unfold startResult
  by_cases hcfg : (s.chan c).cfg.configured = false ∨ s.stationConfigured = false
  · have hcfg' : configuredFor s c = false := by simpa [configuredFor, imp_iff_not_or] using hcfg
    simp [startChannel, hcfg, hcfg']
  have hcfg' : configuredFor s c = true := by simpa [configuredFor] using hcfg
  by_cases hidle : (s.chan c).chc.state = .idle
  swap
  · simp [startChannel, hcfg, hcfg', hidle]
  by_cases hslot : slot.toNat < 8
  swap
  · simp [startChannel, hcfg, hcfg', hidle, slotOfByte, hslot, Nat.le_of_not_lt hslot]
  have hslot' : ¬ 8 ≤ slot.toNat := by omega
  simp only [← startReady_false_iff]
  cases hready : startReady s c
  · simp [startChannel, hcfg, hcfg', hidle, slotOfByte, hslot, hslot', hready]
  by_cases hempty : ((s.chan c).pgu.slots[slot.toNat]?).join = none
  · simp [startChannel, hcfg, hcfg', hidle, slotOfByte, hslot, hslot', hready, Pgu.slotAt, hempty]
  · simp [startChannel, hcfg, hcfg', hidle, slotOfByte, hslot, hslot', hready, Pgu.slotAt, hempty]

theorem startChannel_turns (slot : Byte) (delay : BitVec 24) : ActsByTurns (startChannel slot delay) := by
  intro c s
  obtain ⟨-, hs⟩ | ⟨-, -, n, -, hs⟩ := startChannel_cases slot delay c s <;> rw [hs]
  · exact .refl _ s
  dsimp only [beginProgram]
  split
  · exact turns_startSlot c n s
  · exact turns_mapChan c _ s

theorem pauseChannel_turns : ActsByTurns pauseChannel := by
  intro c s
  unfold pauseChannel
  split <;> dsimp only
  case h_1 | h_2 => exact (turns_quench c s).trans (turns_mapChan c _ _)
  case h_3 => exact turns_mapChan c _ s
  all_goals exact .refl _ s

theorem resumeChannel_turns : ActsByTurns resumeChannel := by
  intro c s
  unfold resumeChannel removeCause
  split <;> dsimp only
  case h_1 =>
    split
    · exact turns_mapChan c _ s
    · exact (turns_mapChan c _ s).trans (turns_leavePaused c _)
  all_goals exact .refl _ s

/-- A channel that is not named, is in LOCKOUT or is UNUSED does nothing (R46, R47). -/
theorem actIfNamed_turns {act : ChannelAct} (h : ActsByTurns act) (mask : Byte) :
    ActsByTurns (actIfNamed mask (unlessBarred act)) := by
  intro c s
  unfold actIfNamed unlessBarred
  split_ifs
  · exact .refl _ s
  · exact .refl _ s
  · exact h c s
  · exact .refl _ s

/-- A named channel past steps 1 and 2 acts (R46, R47). -/
theorem actIfNamed_unbarred {mask : Byte} {c : Chan} {s : State} (act : ChannelAct) (hm : maskNames mask c = true)
    (hb : notBarred (s.chan c) = true) : actIfNamed mask (unlessBarred act) c s = act c s := by
  simp only [notBarred, Bool.and_eq_true, bne_iff_ne] at hb
  simp [actIfNamed, unlessBarred, hm, hb.1, hb.2]

/-- A named channel that answers DONE has passed steps 1 and 2 (R47). -/
theorem notBarred_of_done {mask : Byte} {c : Chan} {s : State} {act : ChannelAct} (hm : maskNames mask c = true)
    (hd : (actIfNamed mask (unlessBarred act) c s).2 = .done) : notBarred (s.chan c) = true := by
  unfold actIfNamed unlessBarred at hd
  simp only [hm, if_true] at hd
  split_ifs at hd with hl hu
  simp [notBarred, hl, hu]

/-- The turns of a command as channel `c` sees them: those before its own, its own, from which its answer comes, and those
after it. -/
theorem actOnMask_turn {mask : Byte} {act : ChannelAct} (h : ActsByTurns (actIfNamed mask act)) (s : State) (c : Chan) :
    ∃ u, Turns (· ≠ c) s u ∧ (actOnMask mask act s).2.get c = (actIfNamed mask act c u).2 ∧
      Turns (· ≠ c) (actIfNamed mask act c u).1 (actOnMask mask act s).1 := by
  have other (d : Chan) (hd : d ≠ c) (u : State) : Turns (· ≠ c) u (actIfNamed mask act d u).1 :=
    (h d u).mono fun _ he => he ▸ hd
  unfold actOnMask
  fin_cases c
  · exact ⟨_, .refl _ s, rfl, (other 1 (by decide) _).trans <| (other 2 (by decide) _).trans (other 3 (by decide) _)⟩
  · exact ⟨_, other 0 (by decide) s, rfl, (other 2 (by decide) _).trans (other 3 (by decide) _)⟩
  · exact ⟨_, (other 0 (by decide) s).trans (other 1 (by decide) _), rfl, other 3 (by decide) _⟩
  · exact ⟨_, (other 0 (by decide) s).trans <| (other 1 (by decide) _).trans (other 2 (by decide) _), rfl, .refl _ _⟩

/-- All four turns together. -/
theorem actOnMask_turns {mask : Byte} {act : ChannelAct} (h : ActsByTurns (actIfNamed mask act)) (s : State) :
    Turns (fun _ => True) s (actOnMask mask act s).1 := by
  have turn (d : Chan) (u : State) : Turns (fun _ => True) u (actIfNamed mask act d u).1 :=
    (h d u).mono fun _ _ => trivial
  exact (turn 0 s).trans <| (turn 1 _).trans <| (turn 2 _).trans (turn 3 _)

end Sys2Proof.Machine
end

section
/-! SUPPORT. What a COMMAND does before the first turn of a channel and after the last one (R91, R170 to R172): the clash
check, the recomputation, the REPLY. -/

namespace Sys2Proof.Machine

/-! ### What stays around the turns -/

theorem KeepsClockwork.trans {s t u : State} (h : KeepsClockwork s t) (k : KeepsClockwork t u) :
    KeepsClockwork s u := by
  unfold KeepsClockwork at h k ⊢
  simp_all

theorem KeepsChannel.trans {c : Chan} {s t u : State} (h : KeepsChannel c s t) (k : KeepsChannel c t u) :
    KeepsChannel c s u := by
  unfold KeepsChannel KeepsProgram at h k ⊢
  simp_all

/-- Between `s` and `t` at most a recomputation, the line, the REPLY queue, the clash flag, the last-started record and the
openness of configuration have moved. -/
structure Settles (s t : State) : Prop where
  clockwork : KeepsClockwork s t
  configured : t.stationConfigured = s.stationConfigured
  rpu : t.rpu = s.rpu
  igu : t.igu = s.igu
  channel : ∀ d : Chan, KeepsChannel d s t
  burner : ∀ d : Chan, (t.chan d).burner = (s.chan d).burner

theorem Settles.trans {s t u : State} (h : Settles s t) (k : Settles t u) : Settles s u where
  clockwork := h.clockwork.trans k.clockwork
  configured := k.configured.trans h.configured
  rpu := k.rpu.trans h.rpu
  igu := k.igu.trans h.igu
  channel d := (h.channel d).trans (k.channel d)
  burner d := (k.burner d).trans (h.burner d)

/-- A state that differs in the line, the REPLY queue, the clash flag, the last-started record and the openness of
configuration alone. -/
theorem settles_of_eq (s : State) (l : LineState) (rs : List ReplyEntry) (b : Bool) (q : Nat) (c : Option Chan)
    (o e : Bool) :
    Settles s
      { s with
        lif := { s.lif with line := l, replies := rs }, ssv := { s.ssv with clash := b, clashQuiet := q }
        lastStarted := c, configOpen := o, eventsNew := e } where
  clockwork := by simp [KeepsClockwork, lockoutBits, State.chan]
  configured := rfl
  rpu := rfl
  igu := rfl
  channel _ := ⟨⟨rfl, rfl, rfl⟩, rfl, rfl, rfl, rfl⟩
  burner _ := rfl

theorem settles_recompute (s : State) : Settles s (recompute s) where
  clockwork := by simp [KeepsClockwork, lockoutBits]
  configured := by simp
  rpu := by simp
  igu := by simp
  channel _ := by simp [KeepsChannel, KeepsProgram]
  burner _ := by simp

/-- The driver after a recomputation follows the new ceiling (R92, R100). -/
theorem recompute_driver (s : State) (c : Chan) :
    ((recompute s).chan c).driver =
      followCeiling s.mtb.frequency { (recompute s).chan c with driver := (s.chan c).driver } := by
  have hd : ((declareDemands s).chan c).driver = (s.chan c).driver := by
    unfold declareDemands
    dsimp only
    split <;> simp [State.chan, declareDemand]
  have hr : (recompute s).chan c =
      settleChannel (declareDemands s).mtb.frequency (ceilingsBarred (declareDemands s)) (declareDemands s).apu
        (declareDemands s).chans ((declareDemands s).chan c) := by
    simp [recompute, State.chan]
  rw [hr, declareDemands_mtb]
  simp only [settleChannel, ← hd]

/-- The state in which the channels meet an accepted COMMAND: the frame has ended and has been judged for a clash (R169,
R170). -/
def atCommand (h : CmdHeader) (s : State) : State := noteClash h.source (setLine .closed s)

theorem noteClash_cases (source : Address) (s : State) :
    noteClash source s = s ∨ noteClash source s = { s with ssv := { s.ssv with clash := true, clashQuiet := 0 } } ∨
    noteClash source s = recompute { s with ssv := { s.ssv with clash := true, clashQuiet := 0 } } := by
  unfold noteClash
  split
  · dsimp only
    split
    · exact .inr (.inl rfl)
    · exact .inr (.inr rfl)
  · exact .inl rfl

theorem settles_atCommand (h : CmdHeader) (s : State) : Settles s (atCommand h s) := by
  have clash : Settles s { setLine .closed s with ssv := { s.ssv with clash := true, clashQuiet := 0 } } :=
    settles_of_eq s .closed s.lif.replies true 0 s.lastStarted s.configOpen s.eventsNew
  obtain hn | hn | hn := noteClash_cases h.source (setLine .closed s) <;> rw [atCommand, hn]
  · exact settles_of_eq s .closed s.lif.replies s.ssv.clash s.ssv.clashQuiet s.lastStarted s.configOpen s.eventsNew
  · exact clash
  · exact clash.trans (settles_recompute _)

theorem atCommand_record (h : CmdHeader) (s : State) :
    (atCommand h s).lif.replies = s.lif.replies ∧ (atCommand h s).lastStarted = s.lastStarted ∧
    (atCommand h s).configOpen = s.configOpen := by
  obtain hn | hn | hn := noteClash_cases h.source (setLine .closed s) <;> rw [atCommand, hn] <;> simp [setLine]

/-- At most the drive level differs between two driver records, and a level of 0 is kept. -/
def LevelOnly (d e : Driver) : Prop := e = { d with level := e.level } ∧ (d.level = 0 → e.level = 0)

/-- A driver whose channel is not RUNNING follows a ceiling by its level alone (R100). -/
theorem followCeiling_levelOnly (f : Option Frequency) (ch : Channel) (h : ch.chc.state ≠ .running) :
    LevelOnly ch.driver (followCeiling f ch) := by
  unfold followCeiling LevelOnly
  split
  · exact ⟨rfl, id⟩
  split <;> simp [driveLimit, h]

theorem atCommand_driver (h : CmdHeader) (s : State) (c : Chan) (hc : (s.chan c).chc.state ≠ .running) :
    LevelOnly (s.chan c).driver ((atCommand h s).chan c).driver := by
  obtain hn | hn | hn := noteClash_cases h.source (setLine .closed s) <;> rw [atCommand, hn]
  · exact ⟨rfl, id⟩
  · exact ⟨rfl, id⟩
  · rw [recompute_driver]
    exact followCeiling_levelOnly _ _ (by rw [recompute_chan_chc]; exact hc)

/-- A driver started afresh with the channel now RUNNING, once a recomputation has given it the ceiling (R50, R100,
R104). -/
theorem afresh_of_followCeiling {f : Option Frequency} {d e : Driver} {ch : Channel} (hde : LevelOnly d e)
    (hrun : ch.chc.state = .running)
    (hdr : ch.driver = followCeiling f { ch with driver := e.afresh ch.cfg.kind }) : Afresh d ch := by
  obtain ⟨he, hl⟩ := hde
  refine ⟨fun hk => ?_, fun hk => ?_⟩
  · rw [hdr, he]
    simp only [followCeiling, driveLimit, Driver.afresh, hk, hrun]
    cases ch.gated <;> rfl
  · have hfollow : ch.driver =
        if driveLimit ch < e.level then
          { e with
            inPeriod := false, position := 0, level := driveLimit ch
            onTime := slowOnTime (slowPeriod f ch.cfg) (slowMinSwitch f ch.cfg) (driveLimit ch) }
        else { e with inPeriod := false, position := 0, onTime := 0 } := by
      rw [hdr]
      simp [followCeiling, driveLimit, Driver.afresh, hk, hrun]
    split at hfollow
    · exact ⟨by rw [hfollow, he], fun h0 => absurd (hl h0) (by omega)⟩
    · exact ⟨by rw [hfollow, he], fun h0 => by rw [hfollow]; exact ⟨rfl, hl h0⟩⟩

/-! ### A command as a whole -/

/-- A note that a command takes of its results: the last-started record and the openness of configuration (R51, R188). -/
abbrev NotesOnly (note : State × Quad Result → State × Quad Result) : Prop :=
  ∀ r, ∃ l o, note r = ({ r.1 with lastStarted := l, configOpen := o }, r.2)

/-- The state after a command has been carried out and answered: the turns, the note, the recomputation, the entry at the
tail of the REPLY queue, and the mark on the event queue. -/
def afterCommand (h : CmdHeader) (code mask : Byte) (act : ChannelAct)
    (note : State × Quad Result → State × Quad Result) (s : State) : State :=
  { pushReply ⟨h.source, code, (note (actOnMask mask (unlessBarred act) (atCommand h s))).2⟩
      (recompute (note (actOnMask mask (unlessBarred act) (atCommand h s))).1) with
    eventsNew := s.rpu.events.isEmpty }

/-- The four answers of the channels to a command (R46). -/
def commandResults (h : CmdHeader) (mask : Byte) (act : ChannelAct) (s : State) : Quad Result :=
  (actOnMask mask (unlessBarred act) (atCommand h s)).2

/-- A COMMAND that finds the station powered, the line open and room for its entry is carried out (R170 to R172). -/
theorem live_acceptCommand {h : CmdHeader} {s : State} (ha : Accepts h s) (code mask : Byte) (act : ChannelAct)
    (note : State × Quad Result → State × Quad Result) :
    live (acceptCommand h code fun s => settled (note (actOnMask mask (unlessBarred act) s))) s =
      .next (afterCommand h code mask act note s) := by
  obtain ⟨hheld, hmatch, hline, hroom⟩ := ha
  rw [live_powered _ _ hheld, acceptCommand_accepted h code _ s hmatch hline hroom]
  rfl

/-- What channel `c`, and what it reads of the station, are in `u`, before its turn in a command taken in `s`. -/
structure BeforeTurn (c : Chan) (s u : State) : Prop where
  channel : KeepsChannel c s u
  clockwork : KeepsClockwork s u
  configured : u.stationConfigured = s.stationConfigured
  driver : (s.chan c).chc.state ≠ .running → LevelOnly (s.chan c).driver (u.chan c).driver

/-- What channel `c`, as its turn left it in `v`, is in `t` after the command. -/
structure AfterTurn (c : Chan) (v t : State) : Prop where
  channel : KeepsChannel c v t
  driver : ∃ f, (t.chan c).driver = followCeiling f { t.chan c with driver := (v.chan c).driver }

/-- A turn that did nothing leaves the channel as it was before the command. -/
theorem AfterTurn.keepsChannel {c : Chan} {s u t : State} (hu : BeforeTurn c s u) (ht : AfterTurn c u t) :
    KeepsChannel c s t := hu.channel.trans ht.channel

/-- A driver that its turn started afresh on entry to RUNNING is afresh after the command (R50, R100, R104). -/
theorem AfterTurn.afresh {c : Chan} {s u v t : State} (hu : BeforeTurn c s u) (ht : AfterTurn c v t)
    (hs : (s.chan c).chc.state ≠ .running) (hv : (v.chan c).chc.state = .running)
    (hcfg : (v.chan c).cfg = (u.chan c).cfg)
    (hdr : (v.chan c).driver = (u.chan c).driver.afresh (u.chan c).cfg.kind) :
    Afresh (s.chan c).driver (t.chan c) := by
  obtain ⟨⟨⟨hchc, -, htcfg⟩, -⟩, f, hf⟩ := ht
  refine afresh_of_followCeiling (f := f) (hu.driver hs) (by rw [hchc, hv]) ?_
  rw [hdr, ← hcfg, ← htcfg] at hf
  exact hf

/-- Turns leave the clockwork alone. -/
theorem Turns.keepsClockwork {moved : Chan → Prop} {s t : State} (h : Turns moved s t) : KeepsClockwork s t := by
  have hbits : lockoutBits t = lockoutBits s :=
    Quad.ext_get _ _ fun d => by simpa [lockoutBits] using (h.fixtures d).2.2
  rw [h.station] at hbits ⊢
  simpa [KeepsClockwork] using hbits

section
variable {h : CmdHeader} {code mask : Byte} {act : ChannelAct} {note : State × Quad Result → State × Quad Result}

/-- After the last turn: the note, the recomputation and the REPLY move no channel but by the recomputation. -/
theorem settles_afterCommand (hnote : NotesOnly note) (s : State) :
    Settles (actOnMask mask (unlessBarred act) (atCommand h s)).1 (afterCommand h code mask act note s) := by
  obtain ⟨l, o, hn⟩ := hnote (actOnMask mask (unlessBarred act) (atCommand h s))
  rw [afterCommand, hn]
  generalize actOnMask mask (unlessBarred act) (atCommand h s) = r
  have noted : Settles r.1 { r.1 with lastStarted := l, configOpen := o } :=
    settles_of_eq r.1 r.1.lif.line r.1.lif.replies r.1.ssv.clash r.1.ssv.clashQuiet l o r.1.eventsNew
  refine noted.trans ((settles_recompute _).trans ?_)
  generalize recompute _ = u
  exact settles_of_eq u u.lif.line _ u.ssv.clash u.ssv.clashQuiet u.lastStarted u.configOpen _

/-- What a command that the channels judge leaves alone. -/
theorem afterCommand_keeps (hact : ActsByTurns act) (hnote : NotesOnly note) (s : State) :
    KeepsClockwork s (afterCommand h code mask act note s) ∧ (afterCommand h code mask act note s).rpu = s.rpu ∧
    ∀ c, ((afterCommand h code mask act note s).chan c).cfg = (s.chan c).cfg := by
  have before := settles_atCommand h s
  have turns := actOnMask_turns (actIfNamed_turns hact mask) (atCommand h s)
  have after := settles_afterCommand (h := h) (code := code) (mask := mask) (act := act) hnote s
  have kb := before.clockwork
  have kt := turns.keepsClockwork
  have ka := after.clockwork
  refine ⟨kb.trans (kt.trans ka), ?_, fun c => ?_⟩
  · rw [after.rpu, turns.station, ← before.rpu]
  · rw [(after.channel c).1.2.2, (turns.fixtures c).1, (before.channel c).1.2.2]

/-- The four answers stand in the entry that has joined the REPLY queue (R172, R190). -/
theorem afterCommand_replies (hact : ActsByTurns act) (hnote : NotesOnly note) (s : State) (c : Chan) :
    Replies h code c ((commandResults h mask act s).get c) s (afterCommand h code mask act note s) := by
  have turns := actOnMask_turns (actIfNamed_turns hact mask) (atCommand h s)
  obtain ⟨l, o, hn⟩ := hnote (actOnMask mask (unlessBarred act) (atCommand h s))
  refine ⟨_, ?_, rfl⟩
  rw [afterCommand, hn, pushReply, recompute_lif, turns.station, (atCommand_record h s).1]
  rfl

/-- The turn of channel `c` in a command, from which its answer comes. -/
theorem afterCommand_turn (hact : ActsByTurns act) (hnote : NotesOnly note) (s : State) (c : Chan) :
    ∃ u, BeforeTurn c s u ∧
      (commandResults h mask act s).get c = (actIfNamed mask (unlessBarred act) c u).2 ∧
      AfterTurn c (actIfNamed mask (unlessBarred act) c u).1 (afterCommand h code mask act note s) := by
  have before := settles_atCommand h s
  have after := settles_afterCommand (h := h) (code := code) (mask := mask) (act := act) hnote s
  obtain ⟨u, hu, hres, hv⟩ := actOnMask_turn (actIfNamed_turns hact mask) (atCommand h s) c
  obtain ⟨l, o, hn⟩ := hnote (actOnMask mask (unlessBarred act) (atCommand h s))
  have unmoved : ¬ c ≠ c := fun hc => hc rfl
  refine ⟨u, ⟨(before.channel c).trans (hu.keepsChannel unmoved), before.clockwork.trans hu.keepsClockwork, ?_, ?_⟩,
    hres, (hv.keepsChannel unmoved).trans (after.channel c), ?_⟩
  · rw [hu.station, ← before.configured]
  · rw [hu.driver unmoved]
    exact atCommand_driver h s c
  · rw [← hv.driver unmoved, afterCommand, hn]
    exact ⟨_, recompute_driver _ c⟩

/-- The turn of a named channel past steps 1 and 2 (R46, R47). -/
theorem afterCommand_unbarred (hact : ActsByTurns act) (hnote : NotesOnly note) (s : State) (c : Chan)
    (hm : maskNames mask c = true) (hb : notBarred (s.chan c) = true) :
    ∃ u, BeforeTurn c s u ∧ Replies h code c (act c u).2 s (afterCommand h code mask act note s) ∧
      AfterTurn c (act c u).1 (afterCommand h code mask act note s) := by
  obtain ⟨u, hu, hres, hv⟩ := afterCommand_turn (h := h) (code := code) (mask := mask) hact hnote s c
  have replies := afterCommand_replies (h := h) (code := code) (mask := mask) hact hnote s c
  have hub : notBarred (u.chan c) = true := by
    obtain ⟨⟨⟨hchc, -, hcfg⟩, -⟩, -⟩ := hu
    rwa [notBarred, hchc, hcfg]
  rw [actIfNamed_unbarred act hm hub] at hres hv
  exact ⟨u, hu, hres ▸ replies, hv⟩

end

end Sys2Proof.Machine
end

section
/-! SUPPORT. What the turns of a command do to the ignition unit in a sound state (R125, R126): each burner that enters
IGNITING joins its line, and nothing else moves there. -/

namespace Sys2Proof.Machine

/-! ### One turn -/

/-- The line at the ignition unit: the holder, and then the queue. -/
def Igu.line (g : Igu) : List Chan := g.holder.toList ++ g.queue

/-- The ignition unit with `l` as its line: its head is the holder, the rest the queue (R126). -/
def Igu.withLine (g : Igu) (l : List Chan) : Igu := { g with holder := l.head?, queue := l.tail }

/-- A unit without holder has an empty queue, as R126 has it: the line tells the unit. -/
theorem Igu.withLine_line (g : Igu) (h : g.holder = none → g.queue = []) : g.withLine g.line = g := by
  obtain ⟨queue, holder, spark⟩ := g
  cases holder
  · simp_all [Igu.line, Igu.withLine]
  · simp [Igu.line, Igu.withLine]

@[simp] theorem Igu.line_withLine (g : Igu) (l : List Chan) : (g.withLine l).line = l := by
  cases l <;> rfl

@[simp] theorem Igu.withLine_withLine (g : Igu) (k l : List Chan) : (g.withLine k).withLine l = g.withLine l := rfl

/-- The record of a burner that enters IGNITING with the configured attempts, as the new holder or in the queue (R125,
R126). -/
def Burner.entered (b : Burner) (attempts : Nat) (holds : Bool) : Burner :=
  { b with
    attempt := 1, allowed := attempts, phase := if holds then .lineWait else .queued
    quiet := if holds then 0 else b.quiet }

/-- The turn of channel `c` has not touched the ignition unit, nor a burner in IGNITING. -/
structure StaysOut (c : Chan) (s t : State) : Prop where
  igu : t.igu = s.igu
  state : (t.chan c).chc.state = .igniting ↔ (s.chan c).chc.state = .igniting
  burner : (s.chan c).chc.state = .igniting → (t.chan c).burner = (s.chan c).burner

/-- In its turn the burner `c` has entered IGNITING and stands at the end of the line (R125, R126). -/
structure JoinsLine (c : Chan) (s t : State) : Prop where
  before : (s.chan c).chc.state ≠ .igniting
  after : (t.chan c).chc.state = .igniting
  igu : t.igu = s.igu.withLine (s.igu.line ++ [c])
  burner : (t.chan c).burner = (s.chan c).burner.entered (s.chan c).cfg.params.attempts s.igu.line.isEmpty

/-- What a turn of channel `c` that takes no burner out of IGNITING does to ignition. -/
structure IgnitionTurn (c : Chan) (s t : State) : Prop where
  others : ∀ d, d ≠ c → t.chan d = s.chan d
  cfg : (t.chan c).cfg = (s.chan c).cfg
  effect : StaysOut c s t ∨ JoinsLine c s t

theorem IgnitionTurn.refl (c : Chan) (s : State) : IgnitionTurn c s s :=
  ⟨fun _ _ => rfl, rfl, .inl ⟨rfl, .rfl, fun _ => rfl⟩⟩

/-- A change of a channel that is not IGNITING before or after. -/
theorem ignitionTurn_mapChan (c : Chan) (f : Channel → Channel) (s : State)
    (hs : (s.chan c).chc.state ≠ .igniting) (hf : (f (s.chan c)).chc.state ≠ .igniting)
    (hcfg : (f (s.chan c)).cfg = (s.chan c).cfg := by rfl) : IgnitionTurn c s (s.mapChan c f) where
  others d hd := by simp [hd]
  cfg := by simpa using hcfg
  effect := .inl ⟨rfl, by simp [hs, hf], fun h => absurd h hs⟩

/-- A turn that first changes its channel in what ignition does not read. -/
theorem IgnitionTurn.of_mapChan {c : Chan} {f : Channel → Channel} {s t : State}
    (h : IgnitionTurn c (s.mapChan c f) t)
    (hstate : (f (s.chan c)).chc.state = (s.chan c).chc.state := by rfl)
    (hburner : (f (s.chan c)).burner = (s.chan c).burner := by rfl)
    (hcfg : (f (s.chan c)).cfg = (s.chan c).cfg := by rfl) : IgnitionTurn c s t where
  others d hd := by rw [h.others d hd]; simp [hd]
  cfg := by rw [h.cfg]; simpa using hcfg
  effect := by
    obtain ⟨igu, state, burner⟩ | ⟨before, after, igu, burner⟩ := h.effect <;>
      simp only [State.chan_mapChan_self, State.mapChan_igu, hstate, hburner, hcfg] at *
    · exact .inl ⟨igu, state, burner⟩
    · exact .inr ⟨before, after, igu, burner⟩

theorem promote_of_holder {s : State} {x : Chan} (h : s.igu.holder = some x) : promote s = s := by
  unfold promote
  split <;> simp_all

theorem promote_of_free {s : State} {x : Chan} {rest : List Chan} (h : s.igu.holder = none)
    (hq : s.igu.queue = x :: rest) :
    promote s = { s with igu := s.igu.withLine (x :: rest) }.mapChan x fun ch =>
      { ch with burner := ch.burner.atLineWait } := by
  unfold promote
  split <;> simp_all [Igu.withLine]

/-- Two changes of one channel are one. -/
theorem mapChan_mapChan (c : Chan) (f g : Channel → Channel) (s : State) :
    (s.mapChan c f).mapChan c g = s.mapChan c fun ch => g (f ch) := by
  have hset : ∀ (q : Quad Channel) (x y : Channel), (q.set c x).set c y = q.set c y := by
    intro q x y; fin_cases c <;> rfl
  have hget : (s.chans.set c (f (s.chan c))).get c = f (s.chan c) := Quad.get_set_self _ _ _
  simp only [State.mapChan, State.setChan, State.chan, hset] at hget ⊢
  rw [hget]

/-- An entry to IGNITING is one change of the channel, at the tail of the queue, and a promotion (R125, R126). -/
theorem enterIgnition_eq_promote (c : Chan) (n : Nat) (s : State) :
    enterIgnition c n s =
      promote ({ s with igu := { s.igu with queue := s.igu.queue ++ [c] } }.mapChan c fun ch =>
        { ch with chc := { ch.chc with state := .igniting }, burner := ch.burner.entered n false }) :=
  congrArg promote <| mapChan_mapChan c
    (fun ch =>
      { ch with
        chc := { ch.chc with state := .igniting }
        burner := { ch.burner with attempt := 1, allowed := n } })
    (fun ch => { ch with burner := { ch.burner with phase := .queued } })
    { s with igu := { s.igu with queue := s.igu.queue ++ [c] } }

/-- An entry to IGNITING moves the controller's state and the burner of its channel alone (R125, R126). -/
theorem enterIgnition_chan (c : Chan) (n : Nat) (s : State) :
    ((enterIgnition c n s).chan c).chc = { (s.chan c).chc with state := .igniting } ∧
    ((enterIgnition c n s).chan c).pgu = (s.chan c).pgu ∧ ((enterIgnition c n s).chan c).cfg = (s.chan c).cfg := by
  rw [enterIgnition_eq_promote]
  obtain ⟨hchc, hpgu, hcfg, -⟩ := promote_chan _ c
  rw [hchc, hpgu, hcfg, State.chan_mapChan_self]
  exact ⟨rfl, rfl, rfl⟩

/-- A burner enters IGNITING at the end of the line, as the new holder where the unit is free (R125, R126). -/
theorem enterIgnitionConfigured_eq (c : Chan) (s : State) (hfree : s.igu.holder = none → s.igu.queue = []) :
    enterIgnitionConfigured c s =
      { s with igu := s.igu.withLine (s.igu.line ++ [c]) }.mapChan c fun ch =>
        { ch with
          chc := { ch.chc with state := .igniting }
          burner := ch.burner.entered (s.chan c).cfg.params.attempts s.igu.line.isEmpty } := by
  rw [enterIgnitionConfigured, enterIgnition_eq_promote]
  cases hh : s.igu.holder with
  | none =>
    have hq := hfree hh
    refine (promote_of_free (x := c) (rest := []) ?_ ?_).trans ?_
    · exact hh
    · exact congrArg (· ++ [c]) hq
    have hline : s.igu.line = [] := by simp [Igu.line, hh, hq]
    rw [hline]
    exact mapChan_mapChan c
      (fun ch =>
        { ch with
          chc := { ch.chc with state := .igniting }
          burner := ch.burner.entered (s.chan c).cfg.params.attempts false })
      (fun ch => { ch with burner := ch.burner.atLineWait }) { s with igu := s.igu.withLine [c] }
  | some x =>
    refine (promote_of_holder (x := x) ?_).trans ?_
    · exact hh
    have hline : s.igu.line = x :: s.igu.queue := by simp [Igu.line, hh]
    rw [hline, Igu.withLine, List.cons_append, List.head?_cons, List.tail_cons, ← hh, List.isEmpty_cons]

theorem ignitionTurn_enterIgnition (c : Chan) (s : State) (hfree : s.igu.holder = none → s.igu.queue = [])
    (hs : (s.chan c).chc.state ≠ .igniting) : IgnitionTurn c s (enterIgnitionConfigured c s) := by
  rw [enterIgnitionConfigured_eq c s hfree]
  exact ⟨fun d hd => State.chan_mapChan_ne _ _ _ _ hd, by rw [State.chan_mapChan_self]; rfl,
    .inr ⟨hs, congrArg (·.chc.state) (State.chan_mapChan_self _ _ _), rfl,
      congrArg Channel.burner (State.chan_mapChan_self _ _ _)⟩⟩

/-- What an act of a command finds of the ignition unit in a sound state, at the turn of channel `c`: without holder there
is no queue (R126), and a burner outside IGNITING has no phase (R123). -/
structure ReadyForTurn (c : Chan) (s : State) : Prop where
  free : s.igu.holder = none → s.igu.queue = []
  phase : (s.chan c).chc.state ≠ .igniting → (s.chan c).burner.phase = .none

/-- No turn of `act` takes a burner out of IGNITING. -/
abbrev IgnitesByTurns (act : ChannelAct) : Prop :=
  ∀ (c : Chan) (s : State), ReadyForTurn c s → IgnitionTurn c s (act c s).1

theorem ignitionTurn_startSlot (c : Chan) (n : Slot) (s : State) (hr : ReadyForTurn c s)
    (hs : (s.chan c).chc.state ≠ .igniting) : IgnitionTurn c s (startSlot c n s) := by
  unfold startSlot
  dsimp only
  split
  case isTrue hp =>
    exact .of_mapChan (ignitionTurn_mapChan c _ _ (by simpa using hs) (by simpa using hs))
  split
  · exact .of_mapChan (ignitionTurn_mapChan c _ _ (by simpa using hs) (by simp [Channel.enterRunning]))
  split
  · exact .of_mapChan (ignitionTurn_mapChan c _ _ (by simpa using hs) (by simp [Channel.enterRunning]))
  split
  · exact .of_mapChan (ignitionTurn_mapChan c _ _ (by simpa using hs) (by simpa using hs))
  · exact .of_mapChan (ignitionTurn_enterIgnition c _ hr.free (by simpa using hs))

theorem startChannel_ignites (slot : Byte) (delay : BitVec 24) : IgnitesByTurns (startChannel slot delay) := by
  intro c s hr
  obtain ⟨-, hs⟩ | ⟨-, hidle, n, -, hs⟩ := startChannel_cases slot delay c s <;> rw [hs]
  · exact .refl c s
  have hidle' : (s.chan c).chc.state ≠ .igniting := by simp [hidle]
  dsimp only [beginProgram]
  split
  · exact ignitionTurn_startSlot c n s hr hidle'
  · exact ignitionTurn_mapChan c _ s hidle' (by simp)

theorem quench_of_no_phase {c : Chan} {s : State} (h : (s.chan c).burner.phase = .none) :
    quench c s = s.mapChan c Channel.extinguished := by
  simp [quench, leaveIgnition, h]

theorem pauseChannel_ignites : IgnitesByTurns pauseChannel := by
  intro c s hr
  have paused (hs : (s.chan c).chc.state ≠ .igniting) : IgnitionTurn c s (enterPaused c ⟨true, false⟩ s) := by
    rw [enterPaused, quench_of_no_phase (hr.phase hs), mapChan_mapChan]
    exact ignitionTurn_mapChan c _ s hs (by simp)
  unfold pauseChannel
  split <;> dsimp only
  case h_1 hs | h_2 hs => exact paused (by simp [hs])
  case h_3 hs => exact ignitionTurn_mapChan c _ s (by simp [hs]) (by simp [hs])
  all_goals exact .refl c s

theorem ignitionTurn_leavePaused (c : Chan) (s : State) (hr : ReadyForTurn c s)
    (hs : (s.chan c).chc.state ≠ .igniting) : IgnitionTurn c s (leavePaused c s) := by
  unfold leavePaused
  dsimp only
  split
  · exact .of_mapChan (ignitionTurn_mapChan c _ _ (by simpa using hs) (by simp))
  split
  · exact .of_mapChan (ignitionTurn_enterIgnition c _ hr.free (by simpa using hs))
  · exact .of_mapChan (ignitionTurn_mapChan c _ _ (by simpa using hs) (by simp [Channel.enterRunning]))

theorem resumeChannel_ignites : IgnitesByTurns resumeChannel := by
  intro c s hr
  unfold resumeChannel removeCause
  split <;> dsimp only
  case h_1 hs =>
    split
    · exact ignitionTurn_mapChan c _ s (by simp [hs]) (by simp [hs])
    · refine .of_mapChan (ignitionTurn_leavePaused c _ ⟨hr.free, ?_⟩ (by simp [hs]))
      simpa using hr.phase
  all_goals exact .refl c s

theorem actIfNamed_ignites {act : ChannelAct} (h : IgnitesByTurns act) (mask : Byte) :
    IgnitesByTurns (actIfNamed mask (unlessBarred act)) := by
  intro c s hr
  unfold actIfNamed unlessBarred
  split_ifs
  · exact .refl c s
  · exact .refl c s
  · exact h c s hr
  · exact .refl c s

/-! ### The turns of a command -/

/-- The channels among `turned` that have entered IGNITING between `s` and `t`. -/
def enteredIgnition (s t : State) (turned : List Chan) : List Chan :=
  turned.filter fun d => decide ((s.chan d).chc.state ≠ .igniting ∧ (t.chan d).chc.state = .igniting)

/-- From the sound state `s` the channels of `turned` have had their turns, in this order, and none has left IGNITING: the
line of `s` has been joined by those that entered. -/
structure Joined (s : State) (turned : List Chan) (t : State) : Prop where
  igu : t.igu = s.igu.withLine (s.igu.line ++ enteredIgnition s t turned)
  cfg : ∀ d, (t.chan d).cfg = (s.chan d).cfg
  stays : ∀ d, (s.chan d).chc.state = .igniting →
    (t.chan d).chc.state = .igniting ∧ (t.chan d).burner = (s.chan d).burner
  enters : ∀ d, (s.chan d).chc.state ≠ .igniting → (t.chan d).chc.state = .igniting →
    (t.chan d).burner = (s.chan d).burner.entered (s.chan d).cfg.params.attempts (t.igu.holder == some d)
  waits : ∀ d, d ∉ turned →
    ((t.chan d).chc.state = .igniting ↔ (s.chan d).chc.state = .igniting) ∧ (t.chan d).burner = (s.chan d).burner

/-- The line of a sound state holds IGNITING burners alone (R123 to R126). -/
theorem igniting_of_mem_line {s : State} (hf : FuelSound s) {d : Chan} (hd : d ∈ s.igu.line) :
    (s.chan d).chc.state = .igniting := by
  obtain ⟨-, -, -, hc⟩ := hf
  obtain ⟨hholds, hqueued, hphase, -⟩ := hc d
  rw [Igu.line, List.mem_append, Option.mem_toList] at hd
  refine hphase fun hn => ?_
  obtain hd | hd := hd
  · have := hholds.2 hd
    simp [hn, IgnitionPhase.holdsUnit] at this
  · have := hqueued.2 hd
    simp [hn] at this

theorem Joined.refl {s : State} (hf : FuelSound s) : Joined s [] s where
  igu := by simp [enteredIgnition, Igu.withLine_line _ hf.2.1]
  cfg _ := rfl
  stays _ h := ⟨h, rfl⟩
  enters _ h k := absurd k h
  waits _ _ := ⟨.rfl, rfl⟩

/-- The line after the turns holds IGNITING burners alone. -/
theorem Joined.igniting_of_mem_line {s t : State} {turned : List Chan} (hf : FuelSound s) (h : Joined s turned t)
    {d : Chan} (hd : d ∈ t.igu.line) : (t.chan d).chc.state = .igniting := by
  rw [h.igu, Igu.line_withLine, List.mem_append] at hd
  obtain hd | hd := hd
  · exact (h.stays d (Machine.igniting_of_mem_line hf hd)).1
  · simp only [enteredIgnition, List.mem_filter, decide_eq_true_eq] at hd
    exact hd.2.2

theorem Joined.ready {s t : State} {turned : List Chan} (hf : FuelSound s) (h : Joined s turned t) {c : Chan}
    (hc : c ∉ turned) : ReadyForTurn c t where
  free hn := by
    rw [h.igu] at hn ⊢
    simp only [Igu.withLine, List.head?_eq_none_iff] at hn ⊢
    rw [hn]; rfl
  phase hn := by
    obtain ⟨-, -, -, hs⟩ := hf
    obtain ⟨-, -, hphase, -⟩ := hs c
    obtain ⟨hstate, hburner⟩ := h.waits c hc
    rw [hburner]
    by_contra hp
    exact hn (hstate.2 (hphase hp))

/-- One more turn. -/
theorem Joined.turn {s t u : State} {turned : List Chan} {c : Chan} (hf : FuelSound s) (h : Joined s turned t)
    (hc : c ∉ turned) (k : IgnitionTurn c t u) : Joined s (turned ++ [c]) u := by
  obtain ⟨hwait, hburner⟩ := h.waits c hc
  have hold : enteredIgnition s u turned = enteredIgnition s t turned :=
    List.filter_congr fun d hd => by rw [k.others d fun hdc => hc (hdc ▸ hd)]
  have waits (d : Chan) (hd : d ∉ turned ++ [c]) :
      ((u.chan d).chc.state = .igniting ↔ (s.chan d).chc.state = .igniting) ∧
        (u.chan d).burner = (s.chan d).burner := by
    rw [List.mem_append, List.mem_singleton, not_or] at hd
    rw [k.others d hd.2]
    exact h.waits d hd.1
  obtain ⟨igu, state, burner⟩ | ⟨before, after, igu, burner⟩ := k.effect
  · have hnew : enteredIgnition s u (turned ++ [c]) = enteredIgnition s t turned := by
      have hno : enteredIgnition s u [c] = [] := by simp [enteredIgnition, state, hwait]
      rw [enteredIgnition, List.filter_append]
      exact (congrArg₂ (· ++ ·) hold hno).trans (List.append_nil _)
    refine ⟨?_, fun d => ?_, fun d hs => ?_, fun d hs hu => ?_, waits⟩
    · rw [igu, hnew, h.igu]
    all_goals by_cases hd : d = c
    · rw [hd, k.cfg, h.cfg]
    · rw [k.others d hd, h.cfg]
    · subst hd; exact ⟨state.2 (hwait.2 hs), by rw [burner (hwait.2 hs), hburner]⟩
    · rw [k.others d hd]; exact h.stays d hs
    · subst hd; exact absurd (hwait.1 (state.1 hu)) hs
    · rw [k.others d hd] at hu ⊢; rw [igu]; exact h.enters d hs hu
  · have hnew : enteredIgnition s u (turned ++ [c]) = enteredIgnition s t turned ++ [c] := by
      have hs : (s.chan c).chc.state ≠ .igniting := fun hs => before (hwait.2 hs)
      have hyes : enteredIgnition s u [c] = [c] := by simp [enteredIgnition, after, hs]
      rw [enteredIgnition, List.filter_append]
      exact congrArg₂ (· ++ ·) hold hyes
    have hholder : u.igu.holder = (t.igu.line ++ [c]).head? := by rw [igu]; rfl
    refine ⟨?_, fun d => ?_, fun d hs => ?_, fun d hs hu => ?_, waits⟩
    · rw [igu, hnew, h.igu, Igu.line_withLine, Igu.withLine_withLine, List.append_assoc]
    all_goals by_cases hd : d = c
    · rw [hd, k.cfg, h.cfg]
    · rw [k.others d hd, h.cfg]
    · subst hd; exact absurd (hwait.2 hs) before
    · rw [k.others d hd]; exact h.stays d hs
    · subst hd
      rw [burner, hburner, h.cfg, hholder]
      congr 1
      cases hl : t.igu.line with
      | nil => simp
      | cons x rest =>
        have hx : x ≠ d := fun hx => before (hx ▸ h.igniting_of_mem_line hf (by simp [hl]))
        simp [hx]
    · rw [k.others d hd] at hu ⊢
      have hhead : t.igu.holder = t.igu.line.head? := by rw [h.igu, Igu.line_withLine]; rfl
      rw [h.enters d hs hu, hholder, hhead]
      congr 1
      cases t.igu.line with
      | nil => simp [Ne.symm hd]
      | cons x rest => simp

/-- What moves no controller, no configuration, no burner and not the ignition unit may come after the turns. -/
theorem Joined.settles {s t u : State} {turned : List Chan} (h : Joined s turned t) (k : Settles t u) :
    Joined s turned u := by
  have hstate (d : Chan) : (u.chan d).chc = (t.chan d).chc := (k.channel d).1.1
  have hcfg (d : Chan) : (u.chan d).cfg = (t.chan d).cfg := (k.channel d).1.2.2
  have hentered : enteredIgnition s u turned = enteredIgnition s t turned := by simp only [enteredIgnition, hstate]
  refine ⟨?_, fun d => ?_, fun d => ?_, fun d => ?_, fun d => ?_⟩
  · rw [k.igu, hentered, h.igu]
  · rw [hcfg, h.cfg]
  · rw [hstate, k.burner]; exact h.stays d
  · rw [hstate, k.burner, k.igu]; exact h.enters d
  · rw [hstate, k.burner]; exact h.waits d

/-- The four turns of a command in a sound state. -/
theorem actOnMask_joined {act : ChannelAct} {s t : State} (hf : FuelSound s) (h : Joined s [] t)
    (hact : IgnitesByTurns act) (mask : Byte) :
    Joined s [0, 1, 2, 3] (actOnMask mask (unlessBarred act) t).1 := by
  have turn {u : State} {turned : List Chan} (c : Chan) (hu : Joined s turned u) (hc : c ∉ turned) :
      Joined s (turned ++ [c]) (actIfNamed mask (unlessBarred act) c u).1 :=
    hu.turn hf hc (actIfNamed_ignites hact mask c u (hu.ready hf hc))
  exact turn 3 (turn 2 (turn 1 (turn 0 h (by decide)) (by decide)) (by decide)) (by decide)

/-- The ignition unit has followed the channels once all four have had their turns. -/
theorem Joined.ignitionFollows {s t : State} (h : FuelSound s → Joined s [0, 1, 2, 3] t) : IgnitionFollows s t := by
  intro hf
  have h := h hf
  have hline : ignitionLine s t = s.igu.line ++ enteredIgnition s t [0, 1, 2, 3] := by
    have hall : s.igu.line.filter (fun d => decide ((t.chan d).chc.state = .igniting)) = s.igu.line :=
      List.filter_eq_self.2 fun d hd => by simpa using (h.stays d (Machine.igniting_of_mem_line hf hd)).1
    exact congrArg (· ++ enteredIgnition s t [0, 1, 2, 3]) hall
  have higu : t.igu = s.igu.withLine (ignitionLine s t) := hline ▸ h.igu
  have hhead : t.igu.holder = (ignitionLine s t).head? := congrArg Igu.holder higu
  have hkept {x : Chan} (hx : s.igu.holder = some x) : (ignitionLine s t).head? = some x := by
    rw [hline, Igu.line, hx]; rfl
  refine ⟨?_, fun c => ⟨fun hs ht => ?_, fun hs ht => absurd (h.stays c hs).1 ht, fun hs _ => ?_⟩⟩
  · have hspark : s.igu.spark = (s.igu.spark && decide ((ignitionLine s t).head? = s.igu.holder)) := by
      cases hsp : s.igu.spark with
      | false => rfl
      | true =>
        obtain ⟨-, -, hholder, -⟩ := hf
        obtain ⟨x, hx, -⟩ := hholder hsp
        simp [hx, hkept hx]
    rw [← hspark]
    exact higu
  · rw [h.enters c hs ht, hhead]
    simp [Burner.entered]
  · have hnot : ¬ ((ignitionLine s t).head? = some c ∧ s.igu.holder ≠ some c) := by
      rintro ⟨hc, hne⟩
      cases hx : s.igu.holder with
      | some x => exact hne ((hx.trans (hkept hx).symm).trans hc)
      | none =>
        obtain ⟨-, hfree, -⟩ := hf
        have hempty : s.igu.line = [] := by simp [Igu.line, hx, hfree hx]
        rw [hline, hempty, List.nil_append] at hc
        have hmem := List.mem_of_mem_head? hc
        simp only [enteredIgnition, List.mem_filter, decide_eq_true_eq] at hmem
        exact hmem.2.1 hs
    rw [if_neg hnot]
    exact (h.stays c hs).2

/-- The ignition unit follows the channels in a command whose turns take no burner out of IGNITING. -/
theorem afterCommand_ignitionFollows {act : ChannelAct} {note : State × Quad Result → State × Quad Result}
    (hact : IgnitesByTurns act) (hnote : NotesOnly note) (h : CmdHeader) (code mask : Byte) (s : State) :
    IgnitionFollows s (afterCommand h code mask act note s) :=
  Joined.ignitionFollows fun hf =>
    (actOnMask_joined hf ((Joined.refl hf).settles (settles_atCommand h s)) hact mask).settles
      (settles_afterCommand hnote s)

end Sys2Proof.Machine
end

section
/-! Settles O49 and O50: START, and PAUSE and RESUME (03). -/

namespace Sys2Proof.Machine

/-! ### START on a channel -/

/-- The program state that a start of slot `n` gives is the table of R25. -/
theorem started_eq (p : Pgu) (n : Slot) : p.started n = startedProgram p n := by
  unfold Pgu.started startedProgram
  cases (p.slotAt n).bind StepRecord.duration <;> rfl

theorem started_level (ch : Channel) (n : Slot) : (ch.pgu.started n).level = levelAt ch n := rfl

/-- A slot that starts on an IDLE channel (R25, R26): the channel is IGNITING for a lit step of a burner and RUNNING
otherwise, with its driver afresh (R104). -/
theorem startSlot_idle (c : Chan) (n : Slot) (s : State) (h : (s.chan c).chc.state = .idle) :
    ((startSlot c n s).chan c).pgu = startedProgram (s.chan c).pgu n ∧
    ((startSlot c n s).chan c).chc =
      { (s.chan c).chc with
        state := if (s.chan c).cfg.kind = .burner ∧ 0 < levelAt (s.chan c) n then .igniting else .running } ∧
    ((s.chan c).cfg.kind ≠ .burner →
      ((startSlot c n s).chan c).driver = (s.chan c).driver.afresh (s.chan c).cfg.kind) := by
  have hlit : (s.chan c).lit = false := by simp [Channel.lit, h]
  rw [← started_eq, ← started_level]
  unfold startSlot
  dsimp only
  rw [if_neg (by simp [h])]
  by_cases hk : (s.chan c).cfg.kind = .burner
  · by_cases hl : ((s.chan c).pgu.started n).level = 0
    · simp [hk, hl, Channel.enterRunning, Channel.extinguished]
    · obtain ⟨hchc, hpgu, -⟩ := enterIgnition_chan c (s.chan c).cfg.params.attempts
        (s.mapChan c fun ch => { ch with pgu := ch.pgu.started n })
      simp [hk, hl, hlit, enterIgnitionConfigured, hchc, hpgu, Nat.pos_of_ne_zero hl]
  · simp [hk, Channel.enterRunning, h]

/-- A program that begins with a delay (R34). -/
theorem beginProgram_delayed (c : Chan) (n : Slot) (d : Nat) (s : State) (h : d ≠ 0) :
    (beginProgram c n d s).chan c =
      { s.chan c with pgu := (s.chan c).pgu.delayed n d, chc := { (s.chan c).chc with state := .delayed } } := by
  rw [beginProgram, if_neg h, State.chan_mapChan_self]

/-- The delay of a START is 0 where its field is (R34). -/
theorem delayOfField_eq_zero (delay : BitVec 24) : delayOfField delay = 0 ↔ delay.toNat = 0 := by
  unfold delayOfField Config.maxSeconds
  omega

/-- The answer to a START rests on the channel and the station alone that no earlier turn moves (R46, R47). -/
theorem BeforeTurn.startResult {c : Chan} {s u : State} (h : BeforeTurn c s u) (slot : Byte) :
    startResult u c slot = Machine.startResult s c slot := by
  obtain ⟨⟨⟨hchc, hpgu, hcfg⟩, -⟩, hclock, hconf, -⟩ := h
  obtain ⟨hmtb, -, -, -, -, -, -, -, hstation, -⟩ := hclock
  unfold Machine.startResult
  rw [hchc, hpgu, hcfg, hmtb, hstation, hconf]

/-! ### The record of a START -/

theorem noteStart_notesOnly (mask : Byte) : NotesOnly (noteStart mask) := by
  intro r
  unfold noteStart
  split
  · exact ⟨r.1.lastStarted, r.1.configOpen, rfl⟩
  · exact ⟨_, _, rfl⟩

/-- No named channel answered DONE where none is the highest. -/
theorem highestDone_eq_none {mask : Byte} {q : Quad Result}
    (h : ∀ d, maskNames mask d = true → q.get d ≠ .done) : highestDone mask q = none := by
  rw [highestDone, List.find?_eq_none]
  intro d _
  simpa using h d

/-- Where a named channel answered DONE, the highest one that did is at or above it (R51). -/
theorem exists_highestDone {mask : Byte} {q : Quad Result} {c : Chan} (hm : maskNames mask c = true)
    (hc : q.get c = .done) :
    ∃ d, highestDone mask q = some d ∧ c ≤ d ∧ maskNames mask d = true ∧ q.get d = .done := by
  have hp : (maskNames mask c && q.get c == .done) = true := by simp [hm, hc]
  cases hd : highestDone mask q with
  | none =>
    rw [highestDone, List.find?_eq_none] at hd
    exact absurd hp (hd c (by fin_cases c <;> simp))
  | some d =>
    obtain ⟨hpd, above, below, hsplit, habove⟩ := List.find?_eq_some_iff_append.1 hd
    simp only [Bool.and_eq_true, beq_iff_eq] at hpd
    refine ⟨d, rfl, ?_, hpd⟩
    have hsorted : (above ++ d :: below).Pairwise (· ≥ ·) := by rw [← hsplit]; decide
    have hmem : c ∈ above ++ d :: below := by rw [← hsplit]; fin_cases c <;> simp
    obtain hup | hrest := List.mem_append.1 hmem
    · have hno := habove c hup
      simp [hp] at hno
    · obtain rfl | hlow := List.mem_cons.1 hrest
      · exact le_rfl
      · exact List.rel_of_pairwise_cons (List.pairwise_append.1 hsorted).2.1 hlow

/-- The last-started record and the openness of configuration after a START (R51, R188). -/
theorem afterStart_record {act : ChannelAct} (hact : ActsByTurns act) (h : CmdHeader) (code mask : Byte) (s : State) :
    (highestDone mask (commandResults h mask act s) = none →
      (afterCommand h code mask act (noteStart mask) s).lastStarted = s.lastStarted ∧
      (afterCommand h code mask act (noteStart mask) s).configOpen = s.configOpen) ∧
    ∀ d, highestDone mask (commandResults h mask act s) = some d →
      (afterCommand h code mask act (noteStart mask) s).lastStarted = some d ∧
      (afterCommand h code mask act (noteStart mask) s).configOpen = false := by
  have turns := (actOnMask_turns (actIfNamed_turns hact mask) (atCommand h s)).station
  obtain ⟨-, hlast, hopen⟩ := atCommand_record h s
  unfold commandResults
  refine ⟨fun hn => ?_, fun d hd => ?_⟩
  · have hnote : noteStart mask (actOnMask mask (unlessBarred act) (atCommand h s)) =
        actOnMask mask (unlessBarred act) (atCommand h s) := by rw [noteStart, hn]
    rw [afterCommand, hnote]
    simp only [pushReply, recompute_lastStarted, recompute_configOpen]
    rw [turns]
    exact ⟨hlast, hopen⟩
  · rw [afterCommand, noteStart, hd]
    simp [pushReply]

/-- A named channel answers DONE to a START exactly where it has passed steps 1 and 2 and the judging order of a START says
so (R47, R49). -/
theorem start_done_iff {h : CmdHeader} {mask slot : Byte} {delay : BitVec 24} {s : State} {d : Chan}
    (hm : maskNames mask d = true) :
    (commandResults h mask (startChannel slot delay) s).get d = .done ↔
      notBarred (s.chan d) = true ∧ startResult s d slot = .done := by
  obtain ⟨u, hu, hres, -⟩ := afterCommand_turn (h := h) (code := 5) (mask := mask)
    (startChannel_turns slot delay) (noteStart_notesOnly mask) s d
  have hbar : notBarred (u.chan d) = notBarred (s.chan d) := by
    obtain ⟨⟨⟨hchc, -, hcfg⟩, -⟩, -⟩ := hu
    rw [notBarred, notBarred, hchc, hcfg]
  have hact : (startChannel slot delay d u).2 = startResult s d slot := by
    obtain ⟨-, hs⟩ | ⟨hd, -, n, -, hs⟩ := startChannel_cases slot delay d u <;> rw [hs, ← hu.startResult slot]
    exact hd.symm
  rw [hres, ← hbar]
  constructor
  · intro hd
    have hb := notBarred_of_done hm hd
    rw [actIfNamed_unbarred _ hm hb, hact] at hd
    exact ⟨hb, hd⟩
  · rintro ⟨hb, hd⟩
    rw [actIfNamed_unbarred _ hm hb, hact, hd]

/-- A START that answers DONE on channel `c` with slot `n` and no delay: the program runs, or its burner ignites, at once
(R25, R26, R50). -/
theorem start_at_once {c : Chan} {n : Slot} {s u t : State} (hu : BeforeTurn c s u)
    (hidle : (u.chan c).chc.state = .idle) (ht : AfterTurn c (startSlot c n u) t) :
    (t.chan c).pgu = startedProgram (s.chan c).pgu n ∧
    (t.chan c).chc =
      { (s.chan c).chc with
        state := if (s.chan c).cfg.kind = .burner ∧ 0 < levelAt (s.chan c) n then .igniting else .running } ∧
    Afresh (s.chan c).driver (t.chan c) := by
  obtain ⟨hpgu, hchc, hdr⟩ := startSlot_idle c n u hidle
  obtain ⟨⟨⟨uchc, upgu, ucfg⟩, -⟩, -⟩ := id hu
  obtain ⟨⟨⟨tchc, tpgu, tcfg⟩, -⟩, -⟩ := id ht
  have hcfg := ((turns_startSlot c n u).fixtures c).1
  refine ⟨by rw [tpgu, hpgu, upgu], by rw [tchc, hchc, uchc, ucfg, levelAt, levelAt, upgu], ?_⟩
  by_cases hk : (u.chan c).cfg.kind = .burner
  · have hk' : (t.chan c).cfg.kind = .burner := by rw [tcfg, hcfg, hk]
    exact ⟨fun h => by simp [hk'] at h, fun h => by simp [hk'] at h⟩
  · exact ht.afresh hu (by rw [← uchc, hidle]; decide) (by rw [hchc]; simp [hk]) hcfg (hdr hk)

/-- Settles O49: the channel's own turn gives the answer and the program, the note on the answers the record, and the line
of the ignition unit the burners that join. -/
theorem startBeginsTheProgram : Obligations.StartBeginsTheProgram := by
  intro s h mask slot delay c ha hm hb
  have hact := startChannel_turns slot delay
  have hnote := noteStart_notesOnly mask
  obtain ⟨hclock, -, hcfg⟩ := afterCommand_keeps (h := h) (code := 5) (mask := mask) hact hnote s
  obtain ⟨u, hu, hrep, ht⟩ := afterCommand_unbarred (h := h) (code := 5) hact hnote s c hm hb
  obtain ⟨hnone, hsome⟩ := afterStart_record hact h 5 mask s
  have hresult : startResult u c slot = startResult s c slot := hu.startResult slot
  have hcases := startChannel_cases slot delay c u
  rw [hresult] at hcases
  refine ⟨afterCommand h 5 mask (startChannel slot delay) (noteStart mask) s, live_acceptCommand ha 5 mask _ _,
    ?_, fun hne => ?_, fun hd n hn => ?_, fun hall => ?_, hcfg c,
    afterCommand_ignitionFollows (startChannel_ignites slot delay) hnote h 5 mask s, hclock⟩
  · obtain ⟨-, hs⟩ | ⟨hd, -, n, -, hs⟩ := hcases
    · rwa [hs] at hrep
    · rwa [hs, ← hd] at hrep
  · obtain ⟨-, hs⟩ | ⟨hd, -⟩ := hcases
    · rw [hs] at ht
      exact ht.keepsChannel hu
    · exact absurd hd hne
  · obtain ⟨d, hhigh, hle, hdm, hdone⟩ := exists_highestDone hm ((start_done_iff (h := h) (delay := delay) hm).2 ⟨hb, hd⟩)
    obtain ⟨hdb, hdr⟩ := (start_done_iff hdm).1 hdone
    obtain ⟨hlast, hopen⟩ := hsome d hhigh
    obtain ⟨hne, -⟩ | ⟨-, hidle, m, hm', hs⟩ := hcases
    · exact absurd hd hne
    obtain rfl : m = n := Option.some.inj (hm'.symm.trans hn)
    rw [hs] at ht
    refine ⟨hopen, ⟨d, hlast, hle, hdm, hdb, hdr⟩, fun h0 => ?_, fun hpos => ?_⟩
    · rw [beginProgram, if_pos ((delayOfField_eq_zero delay).2 h0)] at ht
      exact start_at_once hu hidle ht
    · have hdelay : delayOfField delay ≠ 0 := fun h0 => by
        have := (delayOfField_eq_zero delay).1 h0
        omega
      have hv := beginProgram_delayed c m _ u hdelay
      obtain ⟨⟨⟨tchc, tpgu, -⟩, -⟩, -⟩ := ht
      obtain ⟨⟨⟨uchc, upgu, -⟩, -⟩, -⟩ := hu
      rw [tchc, tpgu, hv, ← uchc, ← upgu]
      exact ⟨rfl, rfl⟩
  · refine hnone (highestDone_eq_none fun d hdm hd => ?_)
    obtain ⟨hdb, hdr⟩ := (start_done_iff hdm).1 hd
    exact hall d hdm hdb hdr

/-! ### PAUSE and RESUME on a channel -/

/-- A channel that enters PAUSED by COMMAND (R52). -/
theorem enterPaused_chan (c : Chan) (causes : PauseCauses) (s : State) :
    ((enterPaused c causes s).chan c).chc =
      { (s.chan c).chc with state := .paused, causes := causes, target := resumeTargetOf (s.chan c).chc.state } ∧
    ((enterPaused c causes s).chan c).pgu = (s.chan c).pgu ∧
    ((enterPaused c causes s).chan c).valve = 0 ∧ ((enterPaused c causes s).chan c).burner.supervising = false := by
  obtain ⟨hchc, hpgu, -⟩ := quench_chan c c s
  obtain ⟨hvalve, hsup⟩ := quench_closed c s
  rw [enterPaused, State.chan_mapChan_self]
  exact ⟨by simp only [hchc], hpgu, hvalve, hsup⟩

/-- PAUSE keeps the program, and takes no channel into IGNITING. -/
theorem pauseChannel_chan (c : Chan) (s : State) :
    ((pauseChannel c s).1.chan c).pgu = (s.chan c).pgu ∧
    (((pauseChannel c s).1.chan c).chc.state = .igniting → (s.chan c).chc.state = .igniting) := by
  obtain ⟨hchc, hpgu, -⟩ := enterPaused_chan c ⟨true, false⟩ s
  unfold pauseChannel
  split <;> dsimp only
  case h_1 | h_2 => exact ⟨hpgu, fun h => by simp [hchc] at h⟩
  case h_3 => simp
  all_goals exact ⟨rfl, id⟩

/-- A channel that leaves PAUSED goes to its resume target, a burner at a lit position by way of IGNITING (R54), and an
element that enters RUNNING has its driver afresh (R104). -/
theorem leavePaused_chan (c : Chan) (s : State) (h : (s.chan c).chc.state ≠ .running) :
    ((leavePaused c s).chan c).pgu = (s.chan c).pgu ∧
    ((leavePaused c s).chan c).chc =
      { (s.chan c).chc with
        target := none
        state :=
          if (s.chan c).chc.target = some .delayed then .delayed
          else if (s.chan c).cfg.kind = .burner ∧ 0 < (s.chan c).pgu.level then .igniting
          else .running } ∧
    (((leavePaused c s).chan c).chc.state = .running →
      ((leavePaused c s).chan c).driver = (s.chan c).driver.afresh (s.chan c).cfg.kind) := by
  unfold leavePaused
  dsimp only
  by_cases hd : (s.chan c).chc.target = some .delayed
  · simp [hd]
  rw [if_neg hd]
  by_cases hlit : (s.chan c).cfg.kind = .burner ∧ 0 < (s.chan c).pgu.level
  · rw [if_pos hlit]
    obtain ⟨hchc, hpgu, -⟩ := enterIgnition_chan c (s.chan c).cfg.params.attempts
      (s.mapChan c fun ch => { ch with chc := { ch.chc with target := none } })
    simp [enterIgnitionConfigured, hchc, hpgu, hd, hlit]
  · rw [if_neg hlit]
    simp [Channel.enterRunning, hd, hlit, h]

/-- RESUME on a PAUSED channel takes COMMAND from its causes; with none left the channel leaves PAUSED (R53, R54). -/
theorem resumeChannel_paused {c : Chan} {s : State} (h : (s.chan c).chc.state = .paused) :
    resumeChannel c s =
      (if (s.chan c).chc.causes.mains then
        s.mapChan c fun ch => { ch with chc := { ch.chc with causes := ⟨false, true⟩ } }
      else
        leavePaused c (s.mapChan c fun ch => { ch with chc := { ch.chc with causes := ⟨false, false⟩ } }), .done) := by
  unfold resumeChannel
  rw [h]
  cases hm : (s.chan c).chc.causes.mains <;> simp [removeCause]

theorem resumeChannel_refused {c : Chan} {s : State} (h : (s.chan c).chc.state ≠ .paused)
    (hl : (s.chan c).chc.state ≠ .lockout) : resumeChannel c s = (s, .refusedState) := by
  unfold resumeChannel
  split <;> simp_all

theorem id_notesOnly : NotesOnly id := fun r => ⟨r.1.lastStarted, r.1.configOpen, rfl⟩

/-- A PAUSE leaves the ignition unit alone: no channel enters IGNITING by it, and none leaves it. -/
theorem afterPause_igu {s : State} (hf : FuelSound s) (h : CmdHeader) (code mask : Byte) :
    (afterCommand h code mask pauseChannel id s).igu = s.igu := by
  have joined := ((actOnMask_joined hf ((Joined.refl hf).settles (settles_atCommand h s)) pauseChannel_ignites mask).settles
    (settles_afterCommand (code := code) id_notesOnly s)).igu
  have hnone : enteredIgnition s (afterCommand h code mask pauseChannel id s) [0, 1, 2, 3] = [] := by
    rw [enteredIgnition, List.filter_eq_nil_iff]
    intro d _
    obtain ⟨u, hu, -, ht⟩ := afterCommand_turn (h := h) (code := code) (mask := mask) pauseChannel_turns id_notesOnly s d
    obtain ⟨⟨⟨uchc, -⟩, -⟩, -⟩ := hu
    obtain ⟨⟨⟨tchc, -⟩, -⟩, -⟩ := ht
    rw [tchc, ← uchc, actIfNamed, unlessBarred, decide_eq_true_eq]
    rintro ⟨hout, hin⟩
    split_ifs at hin
    case neg => exact hout ((pauseChannel_chan d u).2 hin)
    all_goals exact hout hin
  rw [joined, hnone, List.append_nil, Igu.withLine_line _ hf.2.1]

/-- What a PAUSE does on a named channel past steps 1 and 2, by its state (R48, R52). -/
theorem pause_outcome {c : Chan} {h : CmdHeader} {s u t : State} (hlock : (s.chan c).chc.state ≠ .lockout)
    (hu : BeforeTurn c s u) (hrep : Replies h 6 c (pauseChannel c u).2 s t)
    (ht : AfterTurn c (pauseChannel c u).1 t) :
    match (s.chan c).chc.state with
    | .delayed | .running =>
      Replies h 6 c .done s t ∧ (t.chan c).valve = 0 ∧ (t.chan c).burner.supervising = false ∧
      (t.chan c).chc =
        { (s.chan c).chc with
          state := .paused, causes := ⟨true, false⟩
          target := if (s.chan c).chc.state = .delayed then some .delayed else some .running }
    | .paused =>
      Replies h 6 c .done s t ∧
      (t.chan c).chc = { (s.chan c).chc with causes := { (s.chan c).chc.causes with command := true } }
    | .igniting => Replies h 6 c .busy s t ∧ KeepsChannel c s t
    | .idle | .disabled | .lockout => Replies h 6 c .refusedState s t ∧ KeepsChannel c s t := by
  obtain ⟨pchc, -, pvalve, psup⟩ := enterPaused_chan c ⟨true, false⟩ u
  obtain ⟨⟨⟨uchc, -⟩, -⟩, -⟩ := id hu
  obtain ⟨⟨⟨tchc, -⟩, tvalve, -, -, tsup⟩, -⟩ := id ht
  split
  case h_1 hs | h_2 hs =>
    have hp : pauseChannel c u = (enterPaused c ⟨true, false⟩ u, .done) := by simp [pauseChannel, uchc, hs]
    rw [hp] at hrep tchc tvalve tsup
    refine ⟨hrep, tvalve.trans pvalve, tsup.trans psup, ?_⟩
    rw [tchc, pchc, uchc, hs]
    rfl
  case h_3 hs =>
    have hp : pauseChannel c u =
        (u.mapChan c fun ch => { ch with chc := { ch.chc with causes := { ch.chc.causes with command := true } } },
          .done) := by simp [pauseChannel, uchc, hs]
    rw [hp] at hrep tchc
    exact ⟨hrep, by rw [tchc, State.chan_mapChan_self, uchc]⟩
  case h_4 hs =>
    have hp : pauseChannel c u = (u, .busy) := by simp [pauseChannel, uchc, hs]
    rw [hp] at hrep ht
    exact ⟨hrep, ht.keepsChannel hu⟩
  case h_5 hs | h_6 hs =>
    have hp : pauseChannel c u = (u, .refusedState) := by simp [pauseChannel, uchc, hs]
    rw [hp] at hrep ht
    exact ⟨hrep, ht.keepsChannel hu⟩
  case h_7 hs => exact absurd hs hlock

/-- A RESUME that leaves a PAUSED channel without a cause (R53, R54, R104). -/
theorem resume_leaves {c : Chan} {s u t : State} (hu : BeforeTurn c s u) (hp : (s.chan c).chc.state = .paused)
    (ht : AfterTurn c
      (leavePaused c (u.mapChan c fun ch => { ch with chc := { ch.chc with causes := ⟨false, false⟩ } })) t) :
    (t.chan c).pgu = (s.chan c).pgu ∧
    (t.chan c).chc =
      { (s.chan c).chc with
        causes := ⟨false, false⟩, target := none
        state :=
          if (s.chan c).chc.target = some .delayed then .delayed
          else if (s.chan c).cfg.kind = .burner ∧ 0 < (s.chan c).pgu.level then .igniting
          else .running } ∧
    ((t.chan c).chc.state = .running → Afresh (s.chan c).driver (t.chan c)) := by
  obtain ⟨⟨⟨uchc, upgu, ucfg⟩, -⟩, -⟩ := id hu
  obtain ⟨⟨⟨tchc, tpgu, -⟩, -⟩, -⟩ := id ht
  have fixtures := (turns_leavePaused c
    (u.mapChan c fun ch => { ch with chc := { ch.chc with causes := ⟨false, false⟩ } })).fixtures c
  have leaves := leavePaused_chan c
    (u.mapChan c fun ch => { ch with chc := { ch.chc with causes := ⟨false, false⟩ } }) (by simp [uchc, hp])
  rw [State.chan_mapChan_self] at fixtures leaves
  obtain ⟨hpgu, hchc, hdr⟩ := leaves
  refine ⟨by rw [tpgu, hpgu, upgu], by rw [tchc, hchc, uchc, upgu, ucfg], fun hrun => ?_⟩
  rw [tchc] at hrun
  exact ht.afresh hu (by simp [hp]) hrun fixtures.1 (hdr hrun)

/-- What a RESUME does on a named channel past steps 1 and 2, by its state and its causes (R48, R53, R54). -/
theorem resume_outcome {c : Chan} {h : CmdHeader} {s u t : State} (hlock : (s.chan c).chc.state ≠ .lockout)
    (hu : BeforeTurn c s u) (hrep : Replies h 7 c (resumeChannel c u).2 s t)
    (ht : AfterTurn c (resumeChannel c u).1 t) :
    (t.chan c).pgu = (s.chan c).pgu ∧
    ((s.chan c).chc.state ≠ .running → (t.chan c).chc.state = .running → Afresh (s.chan c).driver (t.chan c)) ∧
    ((s.chan c).chc.state ≠ .paused → Replies h 7 c .refusedState s t ∧ KeepsChannel c s t) ∧
    ((s.chan c).chc.state = .paused → (s.chan c).chc.causes.mains = true →
      Replies h 7 c .done s t ∧ (t.chan c).chc = { (s.chan c).chc with causes := ⟨false, true⟩ }) ∧
    ((s.chan c).chc.state = .paused → (s.chan c).chc.causes.mains = false →
      Replies h 7 c .done s t ∧
      (t.chan c).chc =
        { (s.chan c).chc with
          causes := ⟨false, false⟩, target := none
          state :=
            if (s.chan c).chc.target = some .delayed then .delayed
            else if (s.chan c).cfg.kind = .burner ∧ 0 < (s.chan c).pgu.level then .igniting
            else .running }) := by
  obtain ⟨⟨⟨uchc, upgu, -⟩, -⟩, -⟩ := id hu
  by_cases hp : (s.chan c).chc.state = .paused
  swap
  · rw [resumeChannel_refused (by rwa [uchc]) (by rwa [uchc])] at hrep ht
    have kept := ht.keepsChannel hu
    obtain ⟨⟨tchc, tpgu, -⟩, -⟩ := id kept
    exact ⟨tpgu, fun hs hrun => absurd (tchc ▸ hrun) hs, fun _ => ⟨hrep, kept⟩, fun hs => absurd hs hp,
      fun hs => absurd hs hp⟩
  rw [resumeChannel_paused (by rwa [uchc]), uchc] at hrep ht
  cases hmains : (s.chan c).chc.causes.mains with
  | true =>
    rw [hmains, if_pos rfl] at ht
    obtain ⟨⟨⟨tchc, tpgu, -⟩, -⟩, -⟩ := ht
    rw [State.chan_mapChan_self] at tchc tpgu
    rw [uchc] at tchc
    refine ⟨tpgu.trans upgu, fun _ hrun => ?_, fun hs => absurd hp hs, fun _ _ => ⟨hrep, tchc⟩,
      fun _ hs => Bool.noConfusion hs⟩
    simp [tchc, hp] at hrun
  | false =>
    rw [hmains, if_neg (by decide)] at ht
    obtain ⟨hpgu, hchc, hafresh⟩ := resume_leaves hu hp ht
    exact ⟨hpgu, fun _ => hafresh, fun hs => absurd hp hs, fun _ hs => Bool.noConfusion hs, fun _ _ => ⟨hrep, hchc⟩⟩

/-- Settles O50: the channel's own turn gives the answer and the controller, and the line of the ignition unit the burners
that join it on a RESUME. -/
theorem pauseAndResume : Obligations.PauseAndResume := by
  intro s h mask c ha hm hb
  have hlock : (s.chan c).chc.state ≠ .lockout := fun hl => by simp [notBarred, hl] at hb
  constructor
  · obtain ⟨hclock, hrpu, hcfg⟩ :=
      afterCommand_keeps (h := h) (code := 6) (mask := mask) pauseChannel_turns id_notesOnly s
    obtain ⟨u, hu, hrep, ht⟩ := afterCommand_unbarred (h := h) (code := 6) pauseChannel_turns id_notesOnly s c hm hb
    have hpgu : ((afterCommand h 6 mask pauseChannel id s).chan c).pgu = (s.chan c).pgu := by
      obtain ⟨⟨⟨-, upgu, -⟩, -⟩, -⟩ := hu
      obtain ⟨⟨⟨-, tpgu, -⟩, -⟩, -⟩ := ht
      rw [tpgu, (pauseChannel_chan c u).1, upgu]
    exact ⟨_, live_acceptCommand ha 6 mask _ id, hpgu, hcfg c, hclock, hrpu,
      afterCommand_ignitionFollows pauseChannel_ignites id_notesOnly h 6 mask s, fun hf => afterPause_igu hf h 6 mask,
      pause_outcome hlock hu hrep ht⟩
  · obtain ⟨hclock, hrpu, hcfg⟩ :=
      afterCommand_keeps (h := h) (code := 7) (mask := mask) resumeChannel_turns id_notesOnly s
    obtain ⟨u, hu, hrep, ht⟩ := afterCommand_unbarred (h := h) (code := 7) resumeChannel_turns id_notesOnly s c hm hb
    obtain ⟨hpgu, hrest⟩ := resume_outcome hlock hu hrep ht
    exact ⟨_, live_acceptCommand ha 7 mask _ id, hpgu, hcfg c, hclock, hrpu,
      afterCommand_ignitionFollows resumeChannel_ignites id_notesOnly h 7 mask s, hrest⟩

end Sys2Proof.Machine
end

section
/-! Settles O16: the share of a CYCLE channel (05). -/

namespace Sys2Proof.Machine

/-! ### One cycle-start -/

@[simp] theorem cycleCommand_level (rising : Bool) (d : Driver) : (cycleCommand rising d).level = d.level := by
  unfold cycleCommand
  split_ifs <;> rfl

/-- A cycle that conducts takes 100 from the accumulator, one that does not takes nothing (R102). -/
theorem cycleStart_balance (d : Driver) :
    (cycleCommand true d).accumulator + 100 * (cycleCommand true d).conducting.toNat = d.accumulator + d.level := by
  unfold cycleCommand
  rw [if_pos rfl]
  split
  next h => exact Nat.sub_add_cancel h
  next => rfl

theorem cycleStart_accumulator_le {d : Driver} (ha : d.accumulator ≤ 99) (hl : d.level ≤ 100) :
    (cycleCommand true d).accumulator ≤ 99 := by
  unfold cycleCommand
  rw [if_pos rfl]
  split <;> dsimp only <;> omega

/-! ### A run of cycle-starts -/

theorem cycleStarts_level (d : Driver) (n : Nat) : ((cycleCommand true)^[n] d).level = d.level := by
  induction n with
  | zero => rfl
  | succ n ih => rw [Function.iterate_succ_apply', cycleCommand_level, ih]

theorem cycleStarts_accumulator_le {d : Driver} (ha : d.accumulator ≤ 99) (hl : d.level ≤ 100) (n : Nat) :
    ((cycleCommand true)^[n] d).accumulator ≤ 99 := by
  induction n with
  | zero => exact ha
  | succ n ih =>
    rw [Function.iterate_succ_apply']
    exact cycleStart_accumulator_le ih (by rwa [cycleStarts_level])

/-- The cycles among the next `n` that conduct. -/
def conductingCycles (d : Driver) (n : Nat) : Nat :=
  ((List.range n).filter fun k => ((cycleCommand true)^[k + 1] d).conducting).length

theorem conductingCycles_succ (d : Driver) (n : Nat) :
    conductingCycles d (n + 1) = conductingCycles d n + ((cycleCommand true)^[n + 1] d).conducting.toNat := by
  unfold conductingCycles
  rw [List.range_succ, List.filter_append, List.length_append, List.filter_singleton]
  cases ((cycleCommand true)^[n + 1] d).conducting <;> rfl

/-- Over `n` cycles at a constant level, what the accumulator was given is what the conducting cycles took and what it
still holds (R102). -/
theorem cycleStarts_balance (d : Driver) (n : Nat) :
    ((cycleCommand true)^[n] d).accumulator + 100 * conductingCycles d n = d.accumulator + n * d.level := by
  induction n with
  | zero => simp [conductingCycles]
  | succ n ih =>
    have step := cycleStart_balance ((cycleCommand true)^[n] d)
    rw [cycleStarts_level] at step
    rw [conductingCycles_succ, Function.iterate_succ_apply', Nat.add_one_mul n]
    omega

/-- The accumulator lies in 0..99 before and after, so that its balance over 100 cycles leaves one quotient and one
remainder by 100 (R102). -/
theorem hundredCycles {d : Driver} (ha : d.accumulator ≤ 99) (hl : d.level ≤ 100) :
    conductingCycles d 100 = d.level ∧ ((cycleCommand true)^[100] d).accumulator = d.accumulator := by
  have balance := cycleStarts_balance d 100
  have bound := cycleStarts_accumulator_le ha hl 100
  omega

/-! ### The second half, and the entry to RUNNING -/

/-- The second half follows the decision of the first, unless the level has fallen to 0 (R103). -/
theorem cycleCommand_secondHalf (d : Driver) :
    cycleCommand false d =
      if d.conducting = true ∧ 0 < d.level then { d with output := true }
      else { d with conducting := false, output := false } := rfl

theorem driveCommand_cycle {ch : Channel} (h : ch.cfg.kind = .cycle) (f : Option Frequency) (rising : Bool) :
    driveCommand f rising ch = cycleCommand rising ch.driver := by
  unfold driveCommand
  rw [h]

theorem afresh_eq (kind : ChanKind) (d : Driver) :
    d.afresh kind =
      if kind = .cycle then { d with accumulator := 0, conducting := false }
      else if kind = .slow then { d with inPeriod := false, position := 0, onTime := 0 }
      else d := by
  cases kind <;> rfl

/-- Settles O16: the 100 cycles by the balance of the accumulator over a run of cycle-starts. -/
theorem cycleDriveConductsItsShare : Obligations.CycleDriveConductsItsShare := by
  intro d ch f rising ha hl
  obtain ⟨share, back⟩ := hundredCycles ha hl
  refine ⟨rfl, cycleCommand_secondHalf d, cycleStarts_accumulator_le ha hl, share, back,
    fun hk => driveCommand_cycle (ch := { ch with driver := d }) hk f rising, rfl, ?_⟩
  rw [← afresh_eq]
  rfl

end Sys2Proof.Machine
end

section
/-! SUPPORT. The frame of the station's own under way, what the checks on a received frame come to (R165, R169, R170), and
what a recomputation makes of the claims and the request (R73, R74, R80, R86 to R91). -/

namespace Sys2Proof.Machine

/-! ### The frame under way -/

theorem frameUnderWay_sending {s : State} {fr : TxFrame} (h : s.lif.line = .sending fr) :
    frameUnderWay s = some fr := by
  simp [frameUnderWay, h]

theorem isSending_sending {s : State} {fr : TxFrame} (h : s.lif.line = .sending fr) : isSending fr.kind s = true := by
  simp [isSending, frameUnderWay_sending h]

theorem canAbort_sending {s : State} {fr : TxFrame} (h : s.lif.line = .sending fr) :
    canAbort .framingError s = true := by
  simp [canAbort, frameUnderWay_sending h]

theorem lineAfterMismatch_eq (pos : Fin 10) :
    lineAfterMismatch pos = if pos = 9 then .closed else .receiving := rfl

theorem lineAfterDiscard_eq (cause : AbortCause) :
    lineAfterDiscard cause = if cause = .cutShort then .idle else .closed := by
  cases cause <;> rfl

/-! ### The checks on a received frame -/

/-- R171: a bit of the masked difference of two addresses is set where the mask selects it and they differ there. -/
theorem addressMatches_iff (own : Address) (h : CmdHeader) :
    addressMatches own h = true ↔
      ∀ b : Fin 4, h.mask.getLsbD b.val = true → own.getLsbD b.val = h.target.getLsbD b.val := by
  have bitZero (b : Nat) : ((own ^^^ h.target) &&& h.mask).getLsbD b = false ↔
      (h.mask.getLsbD b = true → own.getLsbD b = h.target.getLsbD b) := by
    rw [BitVec.getLsbD_and, BitVec.getLsbD_xor]
    cases own.getLsbD b <;> cases h.target.getLsbD b <;> simp
  calc addressMatches own h = true
      ↔ (own ^^^ h.target) &&& h.mask = 0#4 := by simp [addressMatches]
    _ ↔ ∀ b : Fin 4, ((own ^^^ h.target) &&& h.mask).getLsbD b.val = false := by
        refine ⟨fun hz b => by rw [hz]; simp, fun hb => BitVec.eq_of_getLsbD_eq fun i hi => ?_⟩
        rw [hb ⟨i, hi⟩, BitVec.getLsbD_zero]
    _ ↔ _ := forall_congr' fun b => bitZero b.val

theorem frameLength_eq_octet (frame : List Byte) : frameLength frame = octet frame 1 := rfl

theorem frameKind_eq_octet (frame : List Byte) : frameKind frame = octet frame 0 / 16 := by
  cases frame <;> rfl

theorem frameComplete_iff (frame : List Byte) :
    frameComplete frame = true ↔
      2 ≤ frame.length ∧ octet frame 1 ≤ 12 ∧ frame.length = octet frame 1 + 3 := by
  rw [← frameLength_eq_octet]
  simp [frameComplete, and_assoc]

/-- The running sum of a frame's bytes, from any byte on. -/
theorem foldl_add_toNat (bs : List Byte) (a : Byte) :
    (bs.foldl (· + ·) a).toNat = (a.toNat + (bs.map BitVec.toNat).sum) % 256 := by
  induction bs generalizing a with
  | nil => simp [Nat.mod_eq_of_lt a.isLt]
  | cons b bs ih =>
    rw [List.foldl_cons, ih, BitVec.toNat_add, List.map_cons, List.sum_cons]
    omega

theorem byteSum_toNat (bs : List Byte) : (byteSum bs).toNat = (bs.map BitVec.toNat).sum % 256 := by
  rw [byteSum, foldl_add_toNat]
  simp

/-- The table of lengths of R165, kind by kind. -/
theorem lengthAllowed_iff (k n : Nat) :
    lengthAllowed k n = true ↔
      k = 0 ∧ n = 0 ∨ k = 1 ∧ 2 ≤ n ∨ k = 2 ∧ n = 4 ∨ k = 3 ∧ n = 9 ∨
        k = 4 ∧ (n = 3 ∨ n = 6 ∨ n = 9 ∨ n = 12) ∨ k = 5 ∧ n = 12 := by
  match k with
  | 0 | 1 | 2 | 3 | 4 | 5 => simp [lengthAllowed, or_assoc]
  | k + 6 => simp [lengthAllowed]

theorem frameValid_iff (frame : List Byte) :
    frameValid frame = true ↔
      frameComplete frame = true ∧ (frame.map BitVec.toNat).sum % 256 = 255 ∧
        lengthAllowed (octet frame 0 / 16) (octet frame 1) = true := by
  have sumsTo : byteSum frame = 0xFF ↔ (frame.map BitVec.toNat).sum % 256 = 255 := by
    rw [← byteSum_toNat, ← BitVec.toNat_inj]
    rfl
  simp only [frameValid, frameKind_eq_octet, frameLength_eq_octet, Bool.and_eq_true, beq_iff_eq, sumsTo, and_assoc]

/-! ### What a channel declares -/

/-- A needed demand above the announced one is a raise, announced in full, that waits for its DEMAND (R74). -/
theorem declareDemand_raise {station : StationState} {ch : Channel}
    (h : ch.claim.announced < neededDemand station ch) :
    declareDemand station ch =
      ({ ch with claim := { ch.claim with
          target := targetLevel station ch, needed := neededDemand station ch, announced := neededDemand station ch
          stage := .pendingSend, carried := false, count := 0 } }, true) := by
  simp [declareDemand, demandChange, h, Nat.lt_asymm h]

/-- A needed demand that is not above the announced one is announced at once and leaves the hold as it is (R73). -/
theorem declareDemand_lowering {station : StationState} {ch : Channel}
    (h : neededDemand station ch ≤ ch.claim.announced) :
    ∃ settled, declareDemand station ch =
      ({ ch with claim := { ch.claim with
          target := targetLevel station ch, needed := neededDemand station ch, announced := neededDemand station ch
          settled := settled } }, false) := by
  obtain hlt | heq := Nat.lt_or_eq_of_le h
  · exact ⟨min ch.claim.settled (neededDemand station ch), by simp [declareDemand, demandChange, hlt]⟩
  · exact ⟨ch.claim.settled, by simp [declareDemand, demandChange, heq]⟩

theorem declareDemand_raises_iff (station : StationState) (ch : Channel) :
    (declareDemand station ch).2 = true ↔ ch.claim.announced < neededDemand station ch := by
  by_cases h : ch.claim.announced < neededDemand station ch
  · simp [declareDemand_raise h, h]
  · obtain ⟨settled, hd⟩ := declareDemand_lowering (Nat.le_of_not_lt h)
    simp [hd, h]

/-! ### The claims and the request after a recomputation -/

theorem declareDemands_chan (s : State) (c : Chan) :
    (declareDemands s).chan c = (declareDemand s.ssv.station (s.chan c)).1 := by
  unfold declareDemands
  dsimp only
  split <;> simp [State.chan]

theorem ceilingsBarred_declareDemands (s : State) : ceilingsBarred (declareDemands s) = ceilingsBarred s := by
  simp [ceilingsBarred, starved, declareDemands_apu_ownSendAge]

/-- The claim after a recomputation: the demand declared, and a grant that is settled with the ceiling (R91). -/
theorem recompute_claim (s : State) (c : Chan) :
    ∃ grant, ((recompute s).chan c).claim =
      settleClaim (ceilingsBarred s) grant (declareDemand s.ssv.station (s.chan c)).1 := by
  refine ⟨channelGrant (declareDemands s).apu (declareDemands s).chans ((declareDemands s).chan c), ?_⟩
  rw [← declareDemands_chan, ← ceilingsBarred_declareDemands]
  simp [recompute, State.chan, settleChannel]

/-- R89: where ceilings are barred, a recomputation leaves none above 0. -/
theorem recompute_ceiling_barred {s : State} (h : ceilingsBarred s = true) (c : Chan) :
    ((recompute s).chan c).claim.ceiling = 0 := by
  obtain ⟨grant, hclaim⟩ := recompute_claim s c
  simp [hclaim, settleClaim, h]

theorem makeRequest_request_iff (s : State) :
    (makeRequest s).apu.request = true ↔ s.apu.request = true ∨ s.ssv.station ≠ .mainsWait := by
  unfold makeRequest
  split
  next h => simp [h]
  next h => simp [h]

/-- A request stands after a recomputation where it stood, or where a demand was raised outside MAINS_WAIT (R74, R80). -/
theorem recompute_request_iff (s : State) :
    (recompute s).apu.request = true ↔
      s.apu.request = true ∨
        (s.ssv.station ≠ .mainsWait ∧
          ∃ d : Chan, (s.chan d).claim.announced < neededDemand s.ssv.station (s.chan d)) := by
  have raised : (allChans.any fun c => (declareDemand s.ssv.station (s.chan c)).2) = true ↔
      ∃ d : Chan, (s.chan d).claim.announced < neededDemand s.ssv.station (s.chan d) := by
    simp [allChans, declareDemand_raises_iff, Fin.exists_fin_succ]
  show (declareDemands s).apu.request = true ↔ _
  rw [← raised]
  unfold declareDemands
  dsimp only
  split
  next hr => simp [makeRequest_request_iff, hr]
  next hr => simp [hr]

/-- The claim after a recomputation: its demand, its hold after a raise and after a lowering, its ceiling (R73, R74, R88,
R89). -/
theorem recompute_claim_cases (s : State) (c : Chan) :
    ((recompute s).chan c).claim.announced = neededDemand s.ssv.station (s.chan c) ∧
    ((s.chan c).claim.announced < neededDemand s.ssv.station (s.chan c) →
      ((recompute s).chan c).claim.stage = .pendingSend ∧ ((recompute s).chan c).claim.carried = false ∧
      ((recompute s).chan c).claim.count = 0) ∧
    (neededDemand s.ssv.station (s.chan c) ≤ (s.chan c).claim.announced →
      ((recompute s).chan c).claim.stage = (s.chan c).claim.stage ∧
      ((recompute s).chan c).claim.carried = (s.chan c).claim.carried ∧
      ((recompute s).chan c).claim.count = (s.chan c).claim.count) ∧
    ((recompute s).chan c).claim.ceiling =
      if ceilingsBarred s then 0
      else min ((recompute s).chan c).claim.paid
        (((recompute s).chan c).claim.settled * 100 / (s.chan c).cfg.load) := by
  obtain ⟨grant, hclaim⟩ := recompute_claim s c
  rw [hclaim]
  by_cases h : (s.chan c).claim.announced < neededDemand s.ssv.station (s.chan c)
  · simp [declareDemand_raise h, settleClaim, levelPaidBy, h]
  · obtain ⟨e, he⟩ := declareDemand_lowering (Nat.le_of_not_lt h)
    simp [he, settleClaim, levelPaidBy, h]

end Sys2Proof.Machine
end

section
/-! Settles O45: frames that are lost, abandoned, discarded or not matched (08). -/

namespace Sys2Proof.Machine

/-- A row of the line that moves the line to `l`, once its event has arisen. -/
theorem live_setLine {s : State} (hs : s.held = false) {p : Bool} (hp : p = true) (l : LineState) :
    live (onlyIf p (setLine l)) s =
      .next { s with lif := { s.lif with line := l }, eventsNew := s.rpu.events.isEmpty } := by
  rw [hp, live_powered _ _ hs]
  rfl

/-! ### A frame of the station's own that does not complete -/

theorem exec_arbitrationLost {s : State} {fr : TxFrame} {pos : Fin 10} (hs : s.held = false)
    (hl : s.lif.line = .sending fr) (hb : sentRecessive fr.bytes 0 pos = true) :
    exec (.arbitrationLost pos) s = .next
      { s with
        lif := { s.lif with line := if pos = 9 then .closed else .receiving }
        eventsNew := s.rpu.events.isEmpty } := by
  rw [← lineAfterMismatch_eq]
  exact live_setLine hs (by simp [frameUnderWay_sending hl, hb]) _

theorem exec_frameAbandoned {s : State} {fr : TxFrame} {byte : Nat} {pos : Fin 10} (hs : s.held = false)
    (hl : s.lif.line = .sending fr) (hlen : byte < fr.bytes.length)
    (hb : 0 < byte ∨ sentRecessive fr.bytes 0 pos = false) :
    exec (.frameAbandoned byte pos) s = .next
      { s with
        lif := { s.lif with line := if pos = 9 then .closed else .receiving }
        eventsNew := s.rpu.events.isEmpty } := by
  rw [← lineAfterMismatch_eq]
  exact live_setLine hs (by simpa [frameUnderWay_sending hl, hlen] using hb) _

/-! ### A received frame that is discarded -/

theorem exec_receiveAborted {s : State} (hs : s.held = false) {cause : AbortCause} (ha : canAbort cause s = true) :
    exec (.receiveAborted cause) s = .next
      { s with
        lif := { s.lif with line := if cause = .cutShort then .idle else .closed }
        eventsNew := s.rpu.events.isEmpty } := by
  rw [← lineAfterDiscard_eq]
  exact live_setLine hs ha _

theorem canAbort_receptive {s : State} (hr : receptive s = true) (cause : AbortCause) : canAbort cause s = true := by
  simp [canAbort, hr]

theorem exec_frameRejected {s : State} {frame : List Byte} (hs : s.held = false) (hr : receptive s = true)
    (hc : frameComplete frame = true) (hv : frameValid frame = false) :
    exec (.frameRejected frame) s = .next
      { s with lif := { s.lif with line := .closed }, eventsNew := s.rpu.events.isEmpty } :=
  live_setLine hs (by simp [hr, hc, hv]) _

/-! ### A COMMAND that does not match -/

theorem exec_commandNotMatched {s : State} (hs : s.held = false) (hr : receptive s = true) {h : CmdHeader}
    (hm : addressMatches s.ssv.address h = false) :
    exec (.commandNotMatched h) s = .next { atCommand h s with eventsNew := s.rpu.events.isEmpty } := by
  show live (onlyIf (!addressMatches s.ssv.address h) (takeFrame h.source id)) s = _
  rw [live_powered _ _ hs, hm, Bool.not_false, onlyIf_true, takeFrame_receptive _ _ _ hr]
  rfl

/-- A frame of another station is no clash (R17). -/
theorem atCommand_other {h : CmdHeader} {s : State} (hsrc : h.source ≠ s.ssv.address) :
    atCommand h s = setLine .closed s := if_neg hsrc

/-- A frame with the own address as source: the clash flag is set, and every ceiling falls where it was not (R17, R89). -/
theorem atCommand_own {h : CmdHeader} {s : State} (hsrc : h.source = s.ssv.address) :
    (atCommand h s).ssv = { s.ssv with clash := true, clashQuiet := 0 } ∧
    (atCommand h s).lif = { s.lif with line := .closed } ∧
    (s.ssv.clash = false → ∀ c, ((atCommand h s).chan c).claim.ceiling = 0) := by
  have hclash : atCommand h s =
      if s.ssv.clash then { setLine .closed s with ssv := { s.ssv with clash := true, clashQuiet := 0 } }
      else recompute { setLine .closed s with ssv := { s.ssv with clash := true, clashQuiet := 0 } } := if_pos hsrc
  rw [hclash]
  split
  next hset => exact ⟨rfl, rfl, fun hclear => absurd hset (by simp [hclear])⟩
  next =>
    refine ⟨recompute_ssv _, recompute_lif _, fun _ => recompute_ceiling_barred ?_⟩
    simp [ceilingsBarred]

/-- Settles O45: no row of a frame that comes to nothing moves more than the line, but for the clash flag. -/
theorem framesWithoutEffectKeepEverythingPending : Obligations.FramesWithoutEffectKeepEverythingPending := by
  intro s fr byte pos cause frame h c hs
  refine ⟨fun own => addressMatches_iff own h, exec_arbitrationLost hs, exec_frameAbandoned hs,
    fun hl => exec_receiveAborted hs (canAbort_sending hl), fun hl => by simp [receptive, hl],
    fun hl => by simp [receptive, hl], fun hr => exec_receiveAborted hs (canAbort_receptive hr cause),
    fun hr => ⟨_, exec_receiveAborted hs (canAbort_receptive hr .cutShort), rfl⟩, frameComplete_iff frame, ?_,
    exec_frameRejected hs, ?_, ?_⟩
  · rw [frameValid_iff, lengthAllowed_iff]
  · intro hr hm hsrc
    rw [exec_commandNotMatched hs hr hm, atCommand_other hsrc]
    rfl
  · intro hr hm hsrc
    obtain ⟨hssv, hlif, hceiling⟩ := atCommand_own hsrc
    have settles := settles_atCommand h s
    exact ⟨_, exec_commandNotMatched hs hr hm, hssv, hlif, fun hclear => hceiling hclear c,
      fun d => (settles.channel d).1, settles.rpu⟩

end Sys2Proof.Machine
end

section
/-! Settles O46: frames of the station's own that complete (08, R168), and what a completed DEMAND calls for (04). -/

namespace Sys2Proof.Machine

/-! ### A completed DEMAND -/

/-- The station with the request satisfied and the carried holds COUNTING, before the recomputation that the end of
starvation calls for (R76, R80, R81). -/
def demandSatisfied (s : State) : State :=
  { s with
    chans := .ofFn fun c => { s.chan c with claim := completedHold s.mtb.frequency (s.chan c).claim }
    apu := { s.apu with ownSendAge := 0, request := s.apu.requestAfterBuild } }

theorem demandCompleted_eq (s : State) :
    demandCompleted s = if starved s then recompute (demandSatisfied s) else demandSatisfied s := rfl

@[simp] theorem demandSatisfied_chan (s : State) (c : Chan) :
    (demandSatisfied s).chan c = { s.chan c with claim := completedHold s.mtb.frequency (s.chan c).claim } := by
  simp [demandSatisfied, State.chan]

/-- A completed DEMAND leaves the announced demand and the carried mark as they are (R76). -/
theorem completedHold_keeps (f : Option Frequency) (k : Claim) :
    (completedHold f k).announced = k.announced ∧ (completedHold f k).carried = k.carried := by
  unfold completedHold
  split <;> exact ⟨rfl, rfl⟩

/-- A carried PENDING_SEND hold goes to COUNTING with count 2f, and any other hold stays (R76). -/
theorem completedHold_hold (f : Option Frequency) (k : Claim) :
    if k.stage = .pendingSend ∧ k.carried = true then
      (completedHold f k).stage = .counting ∧ (completedHold f k).count = perSecond f
    else (completedHold f k).stage = k.stage ∧ (completedHold f k).count = k.count := by
  unfold completedHold
  split <;> exact ⟨rfl, rfl⟩

/-- The demand a channel needs is not read from its claim (R70, R71). -/
theorem neededDemand_demandSatisfied (s : State) (station : StationState) (c : Chan) :
    neededDemand station ((demandSatisfied s).chan c) = neededDemand station (s.chan c) := by
  rw [demandSatisfied_chan]
  rfl

theorem demandCompleted_frame (s : State) :
    (demandCompleted s).lif = s.lif ∧ (demandCompleted s).apu.ownSendAge = 0 ∧ (demandCompleted s).rpu = s.rpu ∧
    (demandCompleted s).ssv = s.ssv ∧ (demandCompleted s).mtb = s.mtb ∧ KeepsPrograms s (demandCompleted s) := by
  rw [demandCompleted_eq]
  split
  · exact ⟨recompute_lif _, recompute_apu_ownSendAge _, recompute_rpu _, recompute_ssv _, recompute_mtb _,
      fun d => by simp [KeepsProgram]⟩
  · exact ⟨rfl, rfl, rfl, rfl, rfl, fun d => by simp [KeepsProgram]⟩

/-- Starvation has ended, so only the station state and the clash flag can still bar the ceilings (R89). -/
theorem ceilingsBarred_demandSatisfied (s : State) :
    ceilingsBarred (demandSatisfied s) = true ↔ s.ssv.station ≠ .active ∨ s.ssv.clash = true := by
  simp [ceilingsBarred, starved, demandSatisfied]

/-- R76, R80: in a station that was not starved the request is satisfied and the carried holds begin to count. -/
theorem demandCompleted_unstarved {s : State} (h : starved s = false) (c : Chan) :
    (demandCompleted s).apu.request = s.apu.requestAfterBuild ∧
    ((demandCompleted s).chan c).claim = completedHold s.mtb.frequency (s.chan c).claim := by
  rw [demandCompleted_eq, h]
  exact ⟨rfl, by simp⟩

/-- R81: in a starved station a recomputation follows, which reads the holds as the completed DEMAND has left them. -/
theorem demandCompleted_starved {s : State} (h : starved s = true) (c : Chan) :
    ((demandCompleted s).apu.request = true ↔
      s.apu.requestAfterBuild = true ∨
        (s.ssv.station ≠ .mainsWait ∧
          ∃ d : Chan, (s.chan d).claim.announced < neededDemand s.ssv.station (s.chan d))) ∧
    ((demandCompleted s).chan c).claim.announced = neededDemand s.ssv.station (s.chan c) ∧
    ((s.chan c).claim.announced < neededDemand s.ssv.station (s.chan c) →
      ((demandCompleted s).chan c).claim.stage = .pendingSend ∧
      ((demandCompleted s).chan c).claim.carried = false ∧ ((demandCompleted s).chan c).claim.count = 0) ∧
    (neededDemand s.ssv.station (s.chan c) ≤ (s.chan c).claim.announced →
      ((demandCompleted s).chan c).claim.carried = (s.chan c).claim.carried ∧
      if (s.chan c).claim.stage = .pendingSend ∧ (s.chan c).claim.carried = true then
        ((demandCompleted s).chan c).claim.stage = .counting ∧
        ((demandCompleted s).chan c).claim.count = perSecond s.mtb.frequency
      else
        ((demandCompleted s).chan c).claim.stage = (s.chan c).claim.stage ∧
        ((demandCompleted s).chan c).claim.count = (s.chan c).claim.count) ∧
    ((demandCompleted s).chan c).claim.ceiling =
      if s.ssv.station ≠ .active ∨ s.ssv.clash = true then 0
      else min ((demandCompleted s).chan c).claim.paid
        (((demandCompleted s).chan c).claim.settled * 100 / (s.chan c).cfg.load) := by
  have request := recompute_request_iff (demandSatisfied s)
  obtain ⟨now, raised, lowered, ceiling⟩ := recompute_claim_cases (demandSatisfied s) c
  have announced (d : Chan) : ((demandSatisfied s).chan d).claim.announced = (s.chan d).claim.announced := by
    rw [demandSatisfied_chan]
    exact (completedHold_keeps _ _).1
  have carried : ((demandSatisfied s).chan c).claim.carried = (s.chan c).claim.carried := by
    rw [demandSatisfied_chan]
    exact (completedHold_keeps _ _).2
  have cfg : ((demandSatisfied s).chan c).cfg = (s.chan c).cfg := by rw [demandSatisfied_chan]
  have station : (demandSatisfied s).ssv = s.ssv := rfl
  simp only [announced, carried, cfg, station, neededDemand_demandSatisfied,
    ceilingsBarred_demandSatisfied] at request now raised lowered ceiling
  rw [demandCompleted_eq, if_pos h]
  refine ⟨request, now, raised, fun hn => ?_, ceiling⟩
  obtain ⟨hstage, hcarried, hcount⟩ := lowered hn
  rw [hstage, hcount, demandSatisfied_chan]
  exact ⟨hcarried, completedHold_hold _ _⟩

/-! ### The rows -/

/-- A row of a completed frame of kind `fr.kind`, with the effect `f`. -/
theorem live_isSending {s : State} {fr : TxFrame} (hs : s.held = false) (hl : s.lif.line = .sending fr)
    (f : State → State) :
    live (onlyIf (isSending fr.kind s) f) s = .next { f s with eventsNew := s.rpu.events.isEmpty } := by
  rw [isSending_sending hl, live_powered _ _ hs, onlyIf_true]

/-- EVENT_FRAME_SENT removes as many records as the frame took when it was built (R168, R176). -/
theorem exec_eventFrameSent {s : State} {bytes : List Byte} {carried : Nat} (hs : s.held = false)
    (hl : s.lif.line = .sending ⟨.event, bytes, carried⟩) :
    exec .eventFrameSent s = .next
      { s with
        lif := { s.lif with line := .closed }
        rpu := { s.rpu with events := s.rpu.events.drop carried }
        eventsNew := s.rpu.events.isEmpty } := by
  refine (live_isSending hs hl _).trans ?_
  rw [frameUnderWay_sending hl]
  rfl

/-- Settles O46: the rows of the four kinds, the DEMAND in a station that was starved and in one that was not. -/
theorem completedFramesLeaveThePendingSet : Obligations.CompletedFramesLeaveThePendingSet := by
  intro s bytes carried c e hs
  refine ⟨rfl, fun hl => live_isSending hs hl _, exec_eventFrameSent hs, fun hl => live_isSending hs hl _,
    fun hl => ?_⟩
  obtain ⟨hlif, hage, hrpu, hssv, hmtb, hprograms⟩ := demandCompleted_frame (setLine .closed s)
  refine ⟨_, live_isSending hs hl _, hlif, hage, ?_, fun hfed => ?_, fun hstarved => ?_, hprograms, hrpu, hssv, hmtb⟩
  · simp [starved, hage]
  · exact demandCompleted_unstarved (s := setLine .closed s) hfed c
  · exact demandCompleted_starved (s := setLine .closed s) hstarved c

end Sys2Proof.Machine
end

section
/-! SUPPORT. A command that the station answers as a whole (R171, R172, R183), and what working out the gated conditions
anew leaves alone (R156, R159). -/

namespace Sys2Proof.Machine

/-! ### A command that `run` carries out -/

/-- The state after the command of code `code` has been carried out by `run` and answered. -/
def answered (h : CmdHeader) (code : Byte) (run : State → State × Quad Result) (s : State) : State :=
  { pushReply ⟨h.source, code, (run (atCommand h s)).2⟩ (run (atCommand h s)).1 with
    eventsNew := s.rpu.events.isEmpty }

/-- A COMMAND that finds the station powered, the line open and room for its entry is carried out (R170 to R172). -/
theorem live_acceptCommand_answered {h : CmdHeader} {s : State} (ha : Accepts h s) (code : Byte)
    (run : State → State × Quad Result) :
    live (acceptCommand h code run) s = .next (answered h code run s) := by
  obtain ⟨hheld, hmatch, hline, hroom⟩ := ha
  rw [live_powered _ _ hheld, acceptCommand_accepted h code run s hmatch hline hroom]
  rfl

section
variable {h : CmdHeader} {code : Byte} {run : State → State × Quad Result} {s v : State} {q : Quad Result}

/-- The REPLY and the mark on the event queue leave alone what `run` has done. -/
theorem answered_eq (hrun : run (atCommand h s) = (v, q)) :
    answered h code run s =
      { v with
        lif := { v.lif with replies := v.lif.replies ++ [⟨h.source, code, q⟩] }
        eventsNew := s.rpu.events.isEmpty } := by
  rw [answered, hrun]
  rfl

theorem settles_answered (hrun : run (atCommand h s) = (v, q)) : Settles v (answered h code run s) := by
  rw [answered_eq hrun]
  exact settles_of_eq v v.lif.line _ v.ssv.clash v.ssv.clashQuiet v.lastStarted v.configOpen _

/-- The four answers stand in the entry that has joined the REPLY queue (R172, R190). -/
theorem answered_replies (hrun : run (atCommand h s) = (v, q)) (hlif : v.lif = (atCommand h s).lif) {d : Chan}
    {r : Result} (hr : q.get d = r) : Replies h code d r s (answered h code run s) := by
  refine ⟨q, ?_, hr⟩
  rw [answered_eq hrun, hlif, (atCommand_record h s).1]

/-- A command without effect moves nothing but the line, the clash check's items and the REPLY queue. -/
theorem answered_refused (hrun : run (atCommand h s) = (atCommand h s, q)) :
    Settles s (answered h code run s) ∧ (answered h code run s).configOpen = s.configOpen := by
  refine ⟨(settles_atCommand h s).trans (settles_answered hrun), ?_⟩
  rw [answered_eq hrun, ← (atCommand_record h s).2.2]

end

theorem atCommand_gib (h : CmdHeader) (s : State) : (atCommand h s).gib = s.gib := by
  obtain hn | hn | hn := noteClash_cases h.source (setLine .closed s) <;> rw [atCommand, hn] <;> simp [setLine]

theorem KeepsProgram.trans {c : Chan} {s t u : State} (h : KeepsProgram c s t) (k : KeepsProgram c t u) :
    KeepsProgram c s u := by
  obtain ⟨hchc, hpgu, hcfg⟩ := h
  obtain ⟨kchc, kpgu, kcfg⟩ := k
  exact ⟨kchc.trans hchc, kpgu.trans hpgu, kcfg.trans hcfg⟩

/-- A change of channel `c` that keeps its lockout bit leaves the clockwork alone. -/
theorem keepsClockwork_mapChan (s : State) (c : Chan) {f : Channel → Channel}
    (hf : ∀ ch, (f ch).lockoutBit = ch.lockoutBit) : KeepsClockwork s (s.mapChan c f) := by
  have bits : lockoutBits (s.mapChan c f) = lockoutBits s := Quad.ext_get _ _ fun d => by
    by_cases hd : d = c
    · subst hd; simp [lockoutBits, hf]
    · simp [lockoutBits, hd]
  simp [KeepsClockwork, bits]

/-! ### The gated conditions worked out anew -/

/-- R156: a channel is gated by an active gate of its mask that is a thermostat or a door, if it drives an element. -/
theorem gatedBy_iff (gates : Quad Gate) (cfg : ChanConfig) :
    gatedBy gates cfg = true ↔
      cfg.kind.isElement = true ∧
      ∃ k : Fin 4, cfg.gateMask.getLsbD k.val = true ∧ (gates.get k).active = true ∧ (gates.get k).kind ≠ .unused := by
  simp [gatedBy, gateInMask, Gate.gating, allChans, Fin.exists_fin_succ]

@[simp] theorem regated_chan (s : State) (c : Chan) :
    (regated s).chan c = { s.chan c with gated := gatedBy s.gib.gates (s.chan c).cfg } := chan_mapChans _ s c

theorem keepsClockwork_regated (s : State) : KeepsClockwork s (regated s) := by
  have bits : lockoutBits (regated s) = lockoutBits s := by simp [lockoutBits]
  rw [KeepsClockwork, bits]
  simp [regated]

theorem regate_cases (s : State) : regate s = regated s ∨ regate s = recompute (regated s) := by
  unfold regate
  split
  · exact .inr rfl
  · exact .inl rfl

/-- R157, R159: past the gated conditions themselves, a recomputation is all that follows. -/
theorem settles_recompute_regate (s : State) : Settles (regated s) (recompute (regate s)) := by
  obtain hr | hr := regate_cases s <;> rw [hr]
  · exact settles_recompute _
  · exact (settles_recompute _).trans (settles_recompute _)

theorem recompute_regate_record (s : State) :
    (recompute (regate s)).lif = s.lif ∧ (recompute (regate s)).gib = s.gib ∧
    (recompute (regate s)).configOpen = s.configOpen ∧ (recompute (regate s)).rpu = s.rpu := by
  obtain hr | hr := regate_cases s <;> simp [hr, regated]

/-- A driver at level 0 whose channel is not RUNNING keeps every item through a recomputation (R100). -/
theorem recompute_driver_atRest {s : State} {c : Chan} (hst : (s.chan c).chc.state ≠ .running)
    (hl : (s.chan c).driver.level = 0) : ((recompute s).chan c).driver = (s.chan c).driver := by
  obtain ⟨heq, hlevel⟩ := followCeiling_levelOnly s.mtb.frequency
    { (recompute s).chan c with driver := (s.chan c).driver } (by rwa [recompute_chan_chc])
  rw [recompute_driver, heq, hlevel hl, ← hl]

theorem recompute_regate_driver_atRest {s : State} {c : Chan} (hst : (s.chan c).chc.state ≠ .running)
    (hl : (s.chan c).driver.level = 0) : ((recompute (regate s)).chan c).driver = (s.chan c).driver := by
  have once : ((recompute (regated s)).chan c).driver = (s.chan c).driver := by
    rw [recompute_driver_atRest] <;> simp [hst, hl]
  obtain hr | hr := regate_cases s <;> rw [hr]
  · exact once
  · rw [recompute_driver_atRest (by simpa using hst) (by rw [once, hl]), once]

end Sys2Proof.Machine
end

section
/-! Settles O58 and O59: CONFIGURE_CHANNEL and CONFIGURE_BURNER (09). -/

namespace Sys2Proof.Machine

/-! ### The fields -/

theorem chanOfByte_eq {b : Byte} {c : Chan} (hc : b.toNat < 4 → b.toNat = c.val) :
    chanOfByte b = if 4 ≤ b.toNat then none else some c := by
  unfold chanOfByte
  split
  next hb => rw [if_neg (Nat.not_le.2 hb)]; exact congrArg some (Fin.ext (hc hb))
  next hb => rw [if_pos (Nat.le_of_not_lt hb)]

/-- The kind that a kind code below 4 stands for (08, Codes). -/
def storedKind (b : Byte) : ChanKind :=
  if b.toNat = 0 then .unused else if b.toNat = 1 then .cycle else if b.toNat = 2 then .slow else .burner

theorem kindOfByte_eq (b : Byte) : kindOfByte b = if 4 ≤ b.toNat then none else some (storedKind b) := by
  unfold kindOfByte storedKind
  match b.toNat with
  | 0 | 1 | 2 | 3 => rfl
  | n + 4 => simp

theorem storedKind_eq_burner_iff {b : Byte} (hb : ¬ 4 ≤ b.toNat) : storedKind b = .burner ↔ b.toNat = 3 := by
  unfold storedKind
  split_ifs <;> simp <;> omega

theorem storedKind_isElement (b : Byte) : (storedKind b).isElement = true ↔ b.toNat = 1 ∨ b.toNat = 2 := by
  unfold storedKind
  split_ifs <;> simp [ChanKind.isElement] <;> omega

/-- R185: only an element channel keeps the gate mask, bits 3..0 of the packed byte. -/
theorem channelConfigOf_gateMask (cfg : ChanConfig) (b : ChannelBytes) :
    (channelConfigOf cfg (storedKind b.kind) b).gateMask.toNat =
      if b.kind.toNat = 1 ∨ b.kind.toNat = 2 then b.packed.toNat % 16 else 0 := by
  simp only [channelConfigOf, storedKind_isElement]
  split <;> simp

/-- R21: the step levels are clamped for a burner alone, and the load pointer stays. -/
theorem storedSlots_eq (p : Pgu) {b : Byte} (hb : ¬ 4 ≤ b.toNat) :
    (if storedKind b = .burner then p.clampLevels else p).slots =
      (if b.toNat = 3 then p.slots.map fun x => x.map fun r => { r with level := min 9 r.level } else p.slots) ∧
    (if storedKind b = .burner then p.clampLevels else p).pointer = p.pointer := by
  simp only [storedKind_eq_burner_iff hb]
  split <;> exact ⟨rfl, rfl⟩

theorem stateConfigurable_eq_false_iff (st : ChanState) :
    stateConfigurable st = false ↔ st ≠ .idle ∧ st ≠ .lockout := by
  cases st <;> simp [stateConfigurable]

theorem resultOn_get (c d : Chan) (r : Result) : (resultOn c r).get d = if d = c then r else .done := by
  by_cases hd : d = c
  · subst hd; simp [resultOn]
  · simp [resultOn, hd]

/-! ### CONFIGURE_CHANNEL -/

/-- The station with CONFIGURE_CHANNEL taken on channel `c` (R185, R186). -/
def storeChannel (b : ChannelBytes) (c : Chan) (s : State) : State :=
  recompute (regate (s.mapChan c (Channel.configure (storedKind b.kind) b)))

/-- The judging order of R183, as a station that holds `s` goes through it. -/
theorem runConfigureChannel_atCommand (h : CmdHeader) (s : State) {b : ChannelBytes} {c : Chan}
    (hc : b.channel.toNat < 4 → b.channel.toNat = c.val) :
    runConfigureChannel b (atCommand h s) =
      if s.configOpen = false then (atCommand h s, .fill .configClosed)
      else if s.ssv.station = .safe then (atCommand h s, .fill .refusedState)
      else if 4 ≤ b.channel.toNat then (atCommand h s, .fill .badValue)
      else if (s.chan c).chc.state ≠ .idle ∧ (s.chan c).chc.state ≠ .lockout then
        (atCommand h s, resultOn c .refusedState)
      else if 4 ≤ b.kind.toNat then (atCommand h s, resultOn c .badValue)
      else (storeChannel b c (atCommand h s), .fill .done) := by
  have hopen : (atCommand h s).configOpen = s.configOpen := (atCommand_record h s).2.2
  have hstation : (atCommand h s).ssv.station = s.ssv.station := by
    obtain ⟨-, -, -, -, -, -, -, -, hst, -⟩ := (settles_atCommand h s).clockwork
    exact hst
  have hchc : ((atCommand h s).chan c).chc = (s.chan c).chc := ((settles_atCommand h s).channel c).1.1
  simp only [runConfigureChannel, whereConfigurable, hopen, hstation, Bool.not_eq_true', chanOfByte_eq hc]
  split_ifs with _ _ _ hst hk
  · rfl
  · rfl
  · rfl
  · simp [hchc, (stateConfigurable_eq_false_iff _).2 hst]
  all_goals
    have hready : stateConfigurable (s.chan c).chc.state = true := by
      simpa using mt (stateConfigurable_eq_false_iff _).1 hst
    simp [hchc, hready, kindOfByte_eq, hk, storeChannel]

/-- CONFIGURE_CHANNEL that is refused, with the answer `r` on channel `d`. -/
theorem configureChannel_refused {h : CmdHeader} {b : ChannelBytes} {s : State} {q : Quad Result}
    (hrun : runConfigureChannel b (atCommand h s) = (atCommand h s, q)) (c d : Chan) {r : Result}
    (hr : q.get d = r) :
    let t := answered h 2 (runConfigureChannel b) s
    KeepsClockwork s t ∧ t.rpu = s.rpu ∧ (t.chan c).chc = (s.chan c).chc ∧ (d ≠ c → KeepsProgram d s t) ∧
    t.configOpen = s.configOpen ∧ Replies h 2 d r s t ∧ KeepsPrograms s t ∧ (t.chan d).gated = (s.chan d).gated := by
  obtain ⟨settles, hopen⟩ := answered_refused (code := 2) hrun
  have programs : KeepsPrograms s _ := fun e => (settles.channel e).1
  obtain ⟨-, -, hgated, -⟩ := settles.channel d
  exact ⟨settles.clockwork, settles.rpu, (programs c).1, fun _ => programs d, hopen,
    answered_replies hrun rfl hr, programs, hgated⟩

section
variable (b : ChannelBytes) (c : Chan) (u : State)

/-- The channels as CONFIGURE_CHANNEL leaves them, before the recomputation (R185, R186). -/
theorem settles_storeChannel :
    Settles (regated (u.mapChan c (Channel.configure (storedKind b.kind) b))) (storeChannel b c u) :=
  settles_recompute_regate _

theorem storeChannel_clockwork : KeepsClockwork u (storeChannel b c u) :=
  (keepsClockwork_mapChan u c (f := Channel.configure (storedKind b.kind) b) fun _ => rfl).trans <|
    (keepsClockwork_regated _).trans (settles_storeChannel b c u).clockwork

theorem storeChannel_record :
    (storeChannel b c u).lif = u.lif ∧ (storeChannel b c u).gib = u.gib ∧
    (storeChannel b c u).configOpen = u.configOpen ∧ (storeChannel b c u).rpu = u.rpu := recompute_regate_record _

/-- The channel configured: its fields and its step table as R185 and R21 have them, its controller as it was. -/
theorem storeChannel_self :
    ((storeChannel b c u).chan c).chc = (u.chan c).chc ∧
    ((storeChannel b c u).chan c).pgu =
      (if storedKind b.kind = .burner then (u.chan c).pgu.clampLevels else (u.chan c).pgu) ∧
    ((storeChannel b c u).chan c).cfg = channelConfigOf (u.chan c).cfg (storedKind b.kind) b := by
  obtain ⟨⟨hchc, hpgu, hcfg⟩, -⟩ := (settles_storeChannel b c u).channel c
  rw [hchc, hpgu, hcfg, regated_chan, State.chan_mapChan_self]
  exact ⟨rfl, rfl, rfl⟩

theorem storeChannel_other {d : Chan} (hd : d ≠ c) : KeepsProgram d u (storeChannel b c u) := by
  obtain ⟨⟨hchc, hpgu, hcfg⟩, -⟩ := (settles_storeChannel b c u).channel d
  rw [KeepsProgram, hchc, hpgu, hcfg, regated_chan, State.chan_mapChan_ne _ _ _ _ hd]
  exact ⟨rfl, rfl, rfl⟩

/-- R186: nothing drives a channel that is not RUNNING, so the driver stays at its reset values. -/
theorem storeChannel_driver (hst : (u.chan c).chc.state ≠ .running) :
    ((storeChannel b c u).chan c).driver = Driver.reset := by
  rw [storeChannel, recompute_regate_driver_atRest] <;> rw [State.chan_mapChan_self]
  · rfl
  · exact hst
  · rfl

/-- R156, R159: every channel is gated by what is stored now. -/
theorem storeChannel_gated (d : Chan) : GatedAsConfigured (storeChannel b c u) d := by
  obtain ⟨⟨-, -, hcfg⟩, -, hgated, -⟩ := (settles_storeChannel b c u).channel d
  rw [GatedAsConfigured, ← gatedBy_iff, hgated, hcfg, (storeChannel_record b c u).2.1]
  simp

end

/-- CONFIGURE_CHANNEL that is taken, on a channel that is not RUNNING: what it stores there and what it keeps. -/
theorem configureChannel_taken {h : CmdHeader} {b : ChannelBytes} {s : State} {c : Chan}
    (hrun : runConfigureChannel b (atCommand h s) = (storeChannel b c (atCommand h s), .fill .done))
    (hst : (s.chan c).chc.state ≠ .running) (d : Chan) :
    let t := answered h 2 (runConfigureChannel b) s
    KeepsClockwork s t ∧ t.rpu = s.rpu ∧ (t.chan c).chc = (s.chan c).chc ∧ (d ≠ c → KeepsProgram d s t) ∧
    t.configOpen = s.configOpen ∧ Replies h 2 d .done s t ∧
    (t.chan c).cfg = channelConfigOf (s.chan c).cfg (storedKind b.kind) b ∧
    (t.chan c).pgu =
      (if storedKind b.kind = .burner then (s.chan c).pgu.clampLevels else (s.chan c).pgu) ∧
    (t.chan c).driver = Driver.reset ∧ t.gib = s.gib ∧ GatedAsConfigured t d := by
  have before := settles_atCommand h s
  have after := settles_answered (code := 2) hrun
  obtain ⟨hchc, hpgu, hcfg⟩ := (before.channel c).1
  obtain ⟨vchc, vpgu, vcfg⟩ := storeChannel_self b c (atCommand h s)
  obtain ⟨vlif, vgib, vopen, vrpu⟩ := storeChannel_record b c (atCommand h s)
  rw [hchc] at vchc
  rw [hpgu] at vpgu
  rw [hcfg] at vcfg
  have clockwork := before.clockwork.trans ((storeChannel_clockwork b c (atCommand h s)).trans after.clockwork)
  have replies := answered_replies (code := 2) hrun vlif (Quad.get_fill Result.done d)
  have driver := storeChannel_driver b c (atCommand h s) (by rwa [hchc])
  rw [answered_eq hrun] at clockwork replies ⊢
  exact ⟨clockwork, vrpu.trans before.rpu, vchc,
    fun hd => (before.channel d).1.trans (storeChannel_other b c (atCommand h s) hd),
    vopen.trans (atCommand_record h s).2.2, replies, vcfg, vpgu, driver, vgib.trans (atCommand_gib h s),
    storeChannel_gated b c (atCommand h s) d⟩

/-- Settles O58, branch by branch of the judging order of R183. -/
theorem configureChannelStoresItsFields : Obligations.ConfigureChannelStoresItsFields := by
  intro s h b c d ha hc
  refine ⟨_, live_acceptCommand_answered ha 2 (runConfigureChannel b), ?_⟩
  have run := runConfigureChannel_atCommand h s hc
  by_cases hopen : s.configOpen = false
  · rw [if_pos hopen] at run ⊢
    exact configureChannel_refused run c d (Quad.get_fill _ _)
  rw [if_neg hopen] at run ⊢
  by_cases hsafe : s.ssv.station = .safe
  · rw [if_pos hsafe] at run ⊢
    exact configureChannel_refused run c d (Quad.get_fill _ _)
  rw [if_neg hsafe] at run ⊢
  by_cases hchan : 4 ≤ b.channel.toNat
  · rw [if_pos hchan] at run ⊢
    exact configureChannel_refused run c d (Quad.get_fill _ _)
  rw [if_neg hchan] at run ⊢
  by_cases hstate : (s.chan c).chc.state ≠ .idle ∧ (s.chan c).chc.state ≠ .lockout
  · rw [if_pos hstate] at run ⊢
    exact configureChannel_refused run c d (resultOn_get _ _ _)
  rw [if_neg hstate] at run ⊢
  by_cases hkind : 4 ≤ b.kind.toNat
  · rw [if_pos hkind] at run ⊢
    exact configureChannel_refused run c d (resultOn_get _ _ _)
  rw [if_neg hkind] at run ⊢
  have hst : (s.chan c).chc.state ≠ .running := fun hr => hstate (by simp [hr])
  obtain ⟨clockwork, rpu, chc, others, stays, replies, cfg, pgu, driver, gib, gated⟩ :=
    configureChannel_taken run hst d
  obtain ⟨slots, pointer⟩ := storedSlots_eq (s.chan c).pgu hkind
  simp only [cfg, pgu]
  exact ⟨clockwork, rpu, chc, others, stays, replies, rfl, rfl, rfl, rfl, channelConfigOf_gateMask _ b, rfl, rfl, rfl,
    rfl, slots, pointer, driver, gib, gated⟩

/-! ### CONFIGURE_BURNER -/

theorem runConfigureBurner_eq (u : State) {channel : Byte} (b : BurnerBytes) {c : Chan}
    (hc : channel.toNat < 4 → channel.toNat = c.val) :
    runConfigureBurner channel b u =
      if 4 ≤ channel.toNat then (u, .fill .badValue) else (u.mapChan c (storeBurner b), .fill .done) := by
  rw [runConfigureBurner, chanOfByte_eq hc]
  by_cases hchan : 4 ≤ channel.toNat
  · rw [if_pos hchan, if_pos hchan]
  · rw [if_neg hchan, if_neg hchan]

/-- What the parameters are stored in: every other channel as it was, and of this one all but its configuration. -/
theorem mapChan_storeBurner_keeps (b : BurnerBytes) (c d : Chan) (u : State) :
    ∃ cfg, (u.mapChan c (storeBurner b)).chan d = { u.chan d with cfg := cfg } ∧ (d ≠ c → cfg = (u.chan d).cfg) := by
  by_cases hd : d = c
  · subst hd
    exact ⟨_, State.chan_mapChan_self _ _ _, fun h => absurd rfl h⟩
  · exact ⟨_, State.chan_mapChan_ne _ _ _ _ hd, fun _ => rfl⟩

/-- Settles O59: BAD_VALUE moves nothing, and the parameters are stored on the channel named with nothing recomputed. -/
theorem configureBurnerStoresItsParameters : Obligations.ConfigureBurnerStoresItsParameters := by
  intro s h channel b c d ha hc
  refine ⟨_, live_acceptCommand_answered ha 3 (runConfigureBurner channel b), ?_⟩
  have run := runConfigureBurner_eq (atCommand h s) b hc
  by_cases hchan : 4 ≤ channel.toNat
  · rw [if_pos hchan] at run ⊢
    obtain ⟨settles, -⟩ := answered_refused (code := 3) run
    obtain ⟨⟨hchc, hpgu, hcfg⟩, hvalve, -⟩ := settles.channel d
    exact ⟨settles.clockwork, settles.rpu, hchc, hpgu, settles.burner d, hvalve, settles.igu, fun _ => hcfg,
      answered_replies run rfl (Quad.get_fill _ _), (settles.channel c).1.2.2⟩
  rw [if_neg hchan] at run ⊢
  have before := settles_atCommand h s
  have after := settles_answered (code := 3) run
  obtain ⟨⟨hchc, hpgu, hcfg⟩, hvalve, -⟩ := before.channel d
  obtain ⟨⟨tchc, tpgu, tcfg⟩, tvalve, -⟩ := after.channel d
  obtain ⟨cfg, hstore, hother⟩ := mapChan_storeBurner_keeps b c d (atCommand h s)
  rw [hstore] at tchc tpgu tcfg tvalve
  have tburner := after.burner d
  rw [hstore] at tburner
  refine ⟨before.clockwork.trans ((keepsClockwork_mapChan _ c (f := storeBurner b) fun _ => rfl).trans after.clockwork),
    after.rpu.trans before.rpu, tchc.trans hchc, tpgu.trans hpgu, tburner.trans (before.burner d),
    tvalve.trans hvalve, after.igu.trans before.igu, fun hd => tcfg.trans ((hother hd).trans hcfg),
    answered_replies run rfl (Quad.get_fill _ _), ?_⟩
  rw [(after.channel c).1.2.2, State.chan_mapChan_self, ← (before.channel c).1.2.2]
  rfl

end Sys2Proof.Machine
end

section
/-! Settles O60: QUERY and CLEAR_FLAGS (08, 10). -/

namespace Sys2Proof.Machine

/-- The clash check moves nothing of the line interface but the line (R17, R169). -/
theorem atCommand_lif (h : CmdHeader) (s : State) : (atCommand h s).lif = { s.lif with line := .closed } := by
  obtain hn | hn | hn := noteClash_cases h.source (setLine .closed s) <;> rw [atCommand, hn] <;> simp [setLine]

/-! ### QUERY -/

/-- R191: the channels of `cs` that join a set are those the mask names that were not in it, in the order of `cs`. -/
theorem foldl_joinStateSet (mask : Byte) {cs : List Chan} (hcs : cs.Nodup) (set : List Chan) :
    cs.foldl (joinStateSet mask) set = set ++ cs.filter fun x => maskNames mask x && !set.contains x := by
  induction cs generalizing set with
  | nil => simp
  | cons c cs ih =>
    obtain ⟨hc, hrest⟩ := List.nodup_cons.mp hcs
    rw [List.foldl_cons, ih hrest, joinStateSet, List.filter_cons]
    split
    next =>
      have untouched : ∀ x ∈ cs, (maskNames mask x && !(set ++ [c]).contains x) =
          (maskNames mask x && !set.contains x) := fun x hx => by
        have hne : x ≠ c := fun he => hc (he ▸ hx)
        simp [hne]
      rw [List.filter_congr untouched, List.append_assoc, List.singleton_append]
    next => rfl

/-- The STATE set after a QUERY of `mask` (R191). -/
def queriedSet (mask : Byte) (set : List Chan) : List Chan :=
  set ++ allChans.filter fun x => maskNames mask x && !set.contains x

theorem mem_queriedSet {mask : Byte} {set : List Chan} {d : Chan} :
    d ∈ queriedSet mask set ↔ d ∈ set ∨ maskNames mask d = true := by
  have hall : d ∈ allChans := by fin_cases d <;> decide
  by_cases hd : d ∈ set <;> simp [queriedSet, hd, hall]

theorem queriedSet_nodup {mask : Byte} {set : List Chan} (hset : set.Nodup) : (queriedSet mask set).Nodup := by
  have hall : allChans.Nodup := by decide
  refine hset.append (hall.filter _) fun x hx hjoined => ?_
  simp [hx] at hjoined

theorem runQuery_eq (mask : Byte) (s : State) :
    runQuery mask s =
      ({ s with lif := { s.lif with stateSet := queriedSet mask s.lif.stateSet } }, .fill .done) := by
  rw [runQuery, foldl_joinStateSet mask (by decide), queriedSet]

/-- The STATE set is no item of the programs, the event queue or the clockwork. -/
theorem settles_stateSet (s : State) (set : List Chan) :
    Settles s { s with lif := { s.lif with stateSet := set } } where
  clockwork := by simp [KeepsClockwork, lockoutBits, State.chan]
  configured := rfl
  rpu := rfl
  igu := rfl
  channel _ := ⟨⟨rfl, rfl, rfl⟩, rfl, rfl, rfl, rfl⟩
  burner _ := rfl

/-! ### CLEAR_FLAGS -/

/-- The station with the three flags cleared that CLEAR_FLAGS may clear, before a recomputation (R18, R196). -/
def flagsCleared (s : State) : State :=
  { s with
    rpu := { s.rpu with lost := false }
    ssv := { s.ssv with powerFail := false, clash := clashAfterClear s } }

theorem Settles.refl (s : State) : Settles s s :=
  settles_of_eq s s.lif.line s.lif.replies s.ssv.clash s.ssv.clashQuiet s.lastStarted s.configOpen s.eventsNew

/-- R91: past the flags themselves, CLEAR_FLAGS does at most a recomputation. -/
theorem runClearFlags_cases (s : State) :
    runClearFlags s = (flagsCleared s, .fill .done) ∨ runClearFlags s = (recompute (flagsCleared s), .fill .done) := by
  unfold runClearFlags flagsCleared
  dsimp only
  split
  · exact .inl rfl
  · exact .inr rfl

/-- What CLEAR_FLAGS leaves settles after `flagsCleared`, with the line interface as it was and the flags as cleared. -/
theorem runClearFlags_settles (s : State) :
    ∃ v, runClearFlags s = (v, .fill .done) ∧ Settles (flagsCleared s) v ∧ v.lif = s.lif ∧
      v.ssv = (flagsCleared s).ssv := by
  obtain hrun | hrun := runClearFlags_cases s
  · exact ⟨_, hrun, Settles.refl _, rfl, rfl⟩
  · exact ⟨_, hrun, settles_recompute _, recompute_lif _, recompute_ssv _⟩

theorem flagsCleared_clockwork (s : State) : KeepsClockwork s (flagsCleared s) := by
  simp [KeepsClockwork, flagsCleared, lockoutBits, State.chan]

/-- R17, R18: the own address as source has just set the flag and emptied the quiet count; from any other source the
command finds both as they were. -/
theorem clashAfterClear_atCommand (h : CmdHeader) (s : State) :
    clashAfterClear (atCommand h s) =
      if h.source = s.ssv.address then true else if s.ssv.clashQuiet = 4 then false else s.ssv.clash := by
  by_cases hsrc : h.source = s.ssv.address
  · obtain ⟨hssv, -⟩ := atCommand_own hsrc
    simp [clashAfterClear, hssv, hsrc]
  · rw [if_neg hsrc, atCommand_other hsrc]
    by_cases hquiet : s.ssv.clashQuiet = 4 <;> simp [clashAfterClear, setLine, hquiet]

/-! ### The rows -/

/-- A QUERY that is carried out (R172, R191). -/
theorem query_outcome {s : State} {h : CmdHeader} (mask : Byte) (c : Chan) (ha : Accepts h s) :
    ∃ t, exec (.query h mask) s = .next t ∧ Replies h 11 c .done s t ∧
      t.lif.stateSet = queriedSet mask s.lif.stateSet ∧ t.configOpen = s.configOpen ∧ Settles s t := by
  have run := runQuery_eq mask (atCommand h s)
  have settles := (settles_atCommand h s).trans ((settles_stateSet _ _).trans (settles_answered (code := 11) run))
  refine ⟨_, live_acceptCommand_answered ha 11 (runQuery mask), ⟨.fill .done, ?_, Quad.get_fill _ _⟩, ?_, ?_, settles⟩
  · rw [answered_eq run, atCommand_lif]
  · rw [answered_eq run, atCommand_lif]
  · rw [answered_eq run, ← (atCommand_record h s).2.2]

/-- A CLEAR_FLAGS that is carried out (R18, R172, R196). -/
theorem clearFlags_outcome {s : State} {h : CmdHeader} (c : Chan) (ha : Accepts h s) :
    ∃ t, exec (.clearFlags h) s = .next t ∧ Replies h 12 c .done s t ∧
      t.ssv = (flagsCleared (atCommand h s)).ssv ∧ t.lif.stateSet = s.lif.stateSet ∧
      Settles (flagsCleared (atCommand h s)) t := by
  obtain ⟨v, run, settles, hlif, hssv⟩ := runClearFlags_settles (atCommand h s)
  refine ⟨_, live_acceptCommand_answered ha 12 runClearFlags, answered_replies run hlif (Quad.get_fill _ _), ?_, ?_,
    settles.trans (settles_answered run)⟩
  · rw [answered_eq run, hssv]
  · rw [answered_eq run, hlif, atCommand_lif]

/-- Settles O60: QUERY adds `queriedSet` and CLEAR_FLAGS `flagsCleared` to what every command does to the line, the clash
flag and the REPLY queue. -/
theorem queryAndClearFlags : Obligations.QueryAndClearFlags := by
  intro s h mask c d ha
  constructor
  · obtain ⟨t, hexec, replies, hset, hopen, settles⟩ := query_outcome mask c ha
    refine ⟨t, hexec, replies, hset, ?_, fun hnodup => ?_, fun x => (settles.channel x).1, settles.rpu, hopen,
      settles.clockwork⟩
    · rw [hset]
      exact mem_queriedSet
    · rw [hset]
      exact queriedSet_nodup hnodup
  · obtain ⟨t, hexec, replies, hssv, hset, settles⟩ := clearFlags_outcome c ha
    have before := settles_atCommand h s
    have clockwork := (before.clockwork.trans (flagsCleared_clockwork _)).trans settles.clockwork
    have hage : t.apu.ownSendAge = s.apu.ownSendAge := by
      obtain ⟨-, -, -, -, -, -, -, -, -, -, -, -, hage, -⟩ := clockwork
      exact hage
    refine ⟨t, hexec, replies, ?_, ?_, ?_, hset, fun x => (before.channel x).1.trans (settles.channel x).1, hage,
      clockwork⟩
    · rw [hssv]
      rfl
    · rw [hssv]
      exact clashAfterClear_atCommand h s
    · rw [settles.rpu, ← before.rpu]
      rfl

end Sys2Proof.Machine
end

section
/-! SUPPORT. What the shared operations on channels can do, as far as a sound station is concerned: to the station nothing
but ignition and events, and to a channel nothing that endangers its levels, its drive, its attempt or SAFE. -/

namespace Sys2Proof.Machine

/-! ### One channel -/

/-- What PowerSound says of one channel's driver. -/
abbrev DriveSound (ch : Channel) : Prop :=
  ch.driver.level ≤ ch.claim.ceiling ∧ ch.claim.ceiling ≤ 100 ∧ ch.driver.accumulator ≤ 99 ∧
  (ch.cfg.kind.isElement = false ∨ ch.chc.state = .lockout → ch.driver.level = 0)

/-- What LevelsInRange says of one channel. -/
abbrev LevelsOf (ch : Channel) : Prop :=
  ∀ r ∈ ch.pgu.slots, (r.map StepRecord.level).getD 0 ≤ levelMax ch.cfg.kind

/-- What AttemptBounded says of one channel. -/
abbrev AttemptOf (ch : Channel) : Prop :=
  5 ≤ ch.cfg.params.sparkTime ∧ ch.cfg.params.sparkTime + 10 ≤ ch.cfg.params.safetyTime ∧
  (ch.burner.phase = .spark → ch.burner.safety < ch.burner.sparkTime ∧ ch.burner.sparkTime < ch.burner.safetyTime) ∧
  (ch.burner.phase = .prove → ch.burner.safety < ch.burner.safetyTime)

/-- In TRACKING a frequency is measured (R2). -/
abbrev Timed (s : State) : Prop := s.mtb.mode = .tracking → s.mtb.frequency.isSome = true

/-- A channel of the station `s` has acted: it keeps its configuration and its claim, stays sound if it was, and no element
begins a program in SAFE. -/
structure ChanActs (s : State) (ch ch' : Channel) : Prop where
  claim : ch'.claim = ch.claim
  cfg : ch'.cfg = ch.cfg
  lockoutBit : ch.lockoutBit = true → ch'.lockoutBit = true
  slots : ch'.pgu.slots.length = ch.pgu.slots.length
  levels : LevelsOf ch → LevelsOf ch'
  drive : DriveSound ch → DriveSound ch'
  program : s.ssv.station = .safe → ch.cfg.kind.isElement = true → ch'.chc.state.hasProgram = true →
    ch.chc.state.hasProgram = true
  lockout : ch.cfg.kind.isElement = true → ch'.chc.state = .lockout → ch.chc.state = .lockout
  attempt : Timed s → AttemptOf ch → AttemptOf ch'

theorem ChanActs.refl (s : State) (ch : Channel) : ChanActs s ch ch :=
  ⟨rfl, rfl, id, rfl, id, id, fun _ _ h => h, fun _ h => h, fun _ h => h⟩

theorem ChanActs.trans {s : State} {a b c : Channel} (h : ChanActs s a b) (k : ChanActs s b c) : ChanActs s a c where
  claim := k.claim.trans h.claim
  cfg := k.cfg.trans h.cfg
  lockoutBit hb := k.lockoutBit (h.lockoutBit hb)
  slots := k.slots.trans h.slots
  levels hl := k.levels (h.levels hl)
  drive hd := k.drive (h.drive hd)
  program hs he hp := h.program hs he (k.program hs (by rw [h.cfg]; exact he) hp)
  lockout he hl := h.lockout he (k.lockout (by rw [h.cfg]; exact he) hl)
  attempt ht ha := k.attempt ht (h.attempt ht ha)

/-- A change that leaves the step table, the controller's state, the drive and the attempt alone. -/
theorem chanActs_of_eq {s : State} {ch ch' : Channel} (hclaim : ch'.claim = ch.claim := by rfl)
    (hcfg : ch'.cfg = ch.cfg := by rfl) (hbit : ch'.lockoutBit = ch.lockoutBit := by rfl)
    (hslots : ch'.pgu.slots = ch.pgu.slots := by rfl) (hstate : ch'.chc.state = ch.chc.state := by rfl)
    (hdriver : ch'.driver = ch.driver := by rfl) (hburner : ch'.burner = ch.burner := by rfl) : ChanActs s ch ch' where
  claim := hclaim
  cfg := hcfg
  lockoutBit h := by rw [hbit]; exact h
  slots := by rw [hslots]
  levels h := by rw [LevelsOf, hslots, hcfg]; exact h
  drive h := by rw [DriveSound, hclaim, hdriver, hcfg, hstate]; exact h
  program _ _ h := by rw [hstate] at h; exact h
  lockout _ h := by rw [hstate] at h; exact h
  attempt _ h := by rw [AttemptOf, hcfg, hburner]; exact h

/-- A change of the controller alone that enters no LOCKOUT, and begins no element's program in SAFE. -/
theorem chanActs_chc {s : State} {ch : Channel} (k : Chc) (hlock : k.state = .lockout → ch.cfg.kind.isElement = false)
    (hprog : s.ssv.station = .safe → ch.cfg.kind.isElement = true → k.state.hasProgram = true →
      ch.chc.state.hasProgram = true) : ChanActs s ch { ch with chc := k } where
  claim := rfl
  cfg := rfl
  lockoutBit h := h
  slots := rfl
  levels h := h
  drive := by
    rintro ⟨hlevel, hceiling, hacc, hrest⟩
    exact ⟨hlevel, hceiling, hacc, fun h => hrest (h.elim .inl fun h => .inl (hlock h))⟩
  program := hprog
  lockout he h := absurd (hlock h) (by simp [he])
  attempt _ h := h

/-- A change of the burner's record that begins no SPARK and no PROVE and moves none, with any valve. -/
theorem chanActs_burner {s : State} {ch : Channel} (b : Burner) (v : Nat)
    (hphase : b.phase = .spark ∨ b.phase = .prove →
      b.phase = ch.burner.phase ∧ b.safety = ch.burner.safety ∧ b.sparkTime = ch.burner.sparkTime ∧
      b.safetyTime = ch.burner.safetyTime) :
    ChanActs s ch { ch with burner := b, valve := v } where
  claim := rfl
  cfg := rfl
  lockoutBit h := h
  slots := rfl
  levels h := h
  drive h := h
  program _ _ h := h
  lockout _ h := h
  attempt := by
    rintro - ⟨hspark, hsafety, hs, hp⟩
    refine ⟨hspark, hsafety, fun h => ?_, fun h => ?_⟩
    · obtain ⟨e1, e2, e3, e4⟩ := hphase (.inl h)
      simpa only [e2, e3, e4] using hs (e1.symm.trans h)
    · obtain ⟨e1, e2, e3, e4⟩ := hphase (.inr h)
      simpa only [e2, e3, e4] using hp (e1.symm.trans h)

/-- A change of the driver alone that stays within the ceiling. -/
theorem chanActs_driver {s : State} {ch : Channel} (d : Driver)
    (hd : DriveSound ch → DriveSound { ch with driver := d }) : ChanActs s ch { ch with driver := d } where
  claim := rfl
  cfg := rfl
  lockoutBit h := h
  slots := rfl
  levels h := h
  drive := hd
  program _ _ h := h
  lockout _ h := h
  attempt _ h := h

/-- A driver whose level and accumulator stand is as sound as it was. -/
theorem driveSound_of_level {ch : Channel} {d : Driver} (hl : d.level = ch.driver.level)
    (ha : d.accumulator = ch.driver.accumulator ∨ d.accumulator ≤ 99) (h : DriveSound ch) :
    DriveSound { ch with driver := d } := by
  obtain ⟨hlevel, hceiling, hacc, hrest⟩ := h
  refine ⟨by simpa [hl] using hlevel, hceiling, ?_, by simpa [hl] using hrest⟩
  obtain ha | ha := ha
  · simpa [ha] using hacc
  · exact ha

/-! ### The station -/

/-- Between `s` and `t` channels have acted, and nothing else has but the ignition unit and the report unit. -/
structure Acts (s t : State) : Prop where
  station : t = { s with chans := t.chans, igu := t.igu, rpu := t.rpu }
  events : s.rpu.events.length ≤ 8 → t.rpu.events.length ≤ 8
  channel : ∀ d, ChanActs s (s.chan d) (t.chan d)

theorem Acts.refl (s : State) : Acts s s := ⟨rfl, id, fun _ => .refl s _⟩

theorem Acts.mtb {s t : State} (h : Acts s t) : t.mtb = s.mtb := by rw [h.station]
theorem Acts.ssv {s t : State} (h : Acts s t) : t.ssv = s.ssv := by rw [h.station]

theorem Acts.trans {s t u : State} (h : Acts s t) (k : Acts t u) : Acts s u where
  station := by
    have hs := h.station
    have ks := k.station
    generalize u.chans = cs at ks
    generalize u.igu = g at ks
    generalize u.rpu = r at ks
    subst ks
    rw [hs]
  events he := k.events (h.events he)
  channel d := by
    have hk : ChanActs s (t.chan d) (u.chan d) := by
      obtain ⟨claim, cfg, bit, slots, levels, drive, program, lockout, attempt⟩ := k.channel d
      rw [h.ssv] at program
      rw [Timed, h.mtb] at attempt
      exact ⟨claim, cfg, bit, slots, levels, drive, program, lockout, attempt⟩
    exact (h.channel d).trans hk

theorem acts_mapChan {c : Chan} {f : Channel → Channel} {s : State} (h : ChanActs s (s.chan c) (f (s.chan c))) :
    Acts s (s.mapChan c f) where
  station := rfl
  events := id
  channel d := by
    by_cases hd : d = c
    · subst hd; rw [State.chan_mapChan_self]; exact h
    · rw [State.chan_mapChan_ne _ _ _ _ hd]; exact .refl s _

theorem acts_igu (g : Igu) (s : State) : Acts s { s with igu := g } := ⟨rfl, id, fun _ => .refl s _⟩

theorem acts_raise (e : EventRecord) (s : State) : Acts s (raise e s) where
  station := by unfold raise; split <;> rfl
  events := raise_events_length e s
  channel d := by rw [raise_chan]; exact .refl s _

theorem acts_raiseFor (c : Chan) (k : EventKind) (n : Nat) (s : State) : Acts s (raiseFor c k n s) := acts_raise _ s

theorem acts_forChans {f : Chan → State → State} (h : ∀ c s, Acts s (f c s)) (s : State) : Acts s (forChans f s) :=
  (h 0 s).trans <| (h 1 _).trans <| (h 2 _).trans (h 3 _)

/-! ### Ignition -/

theorem acts_promote (s : State) : Acts s (promote s) := by
  unfold promote
  split
  · exact (acts_igu _ s).trans (acts_mapChan (chanActs_burner _ _ (by simp [Burner.atLineWait])))
  · exact .refl s

theorem acts_joinQueue (c : Chan) (s : State) : Acts s (joinQueue c s) :=
  (acts_igu _ s).trans <| (acts_mapChan (chanActs_burner _ _ (by simp))).trans (acts_promote _)

/-- In SAFE the channel is no element, or its program stands already. -/
abbrev MayRun (c : Chan) (s : State) : Prop :=
  s.ssv.station = .safe → (s.chan c).cfg.kind.isElement = true → (s.chan c).chc.state.hasProgram = true

theorem acts_enterIgnition {c : Chan} (n : Nat) {s : State} (h : MayRun c s) : Acts s (enterIgnition c n s) := by
  refine (acts_mapChan ?_).trans (acts_joinQueue c _)
  exact (chanActs_chc { (s.chan c).chc with state := .igniting } (by simp) fun hs he _ => h hs he).trans
    (chanActs_burner _ _ fun _ => ⟨rfl, rfl, rfl, rfl⟩)

theorem acts_releaseUnit (s : State) : Acts s (releaseUnit s) := (acts_igu _ s).trans (acts_promote _)

theorem acts_leaveIgnition (c : Chan) (s : State) : Acts s (leaveIgnition c s) := by
  have cleared (u : State) :
      Acts u (u.mapChan c fun ch => { ch with burner := ch.burner.outOfIgnition, valve := 0 }) :=
    acts_mapChan (chanActs_burner _ _ (by simp [Burner.outOfIgnition, Burner.reset]))
  unfold leaveIgnition
  dsimp only
  split
  · exact .refl s
  · exact (acts_igu _ s).trans (cleared _)
  · exact (cleared s).trans (acts_releaseUnit _)
  · exact (cleared s).trans (acts_releaseUnit _)
  · exact (cleared s).trans (acts_releaseUnit _)
  · exact cleared s

theorem chanActs_extinguished (s : State) (ch : Channel) : ChanActs s ch ch.extinguished :=
  chanActs_burner _ _ fun _ => ⟨rfl, rfl, rfl, rfl⟩

theorem acts_quench (c : Chan) (s : State) : Acts s (quench c s) :=
  (acts_leaveIgnition c s).trans (acts_mapChan (chanActs_extinguished _ _))

/-! ### Programs -/

theorem acts_endProgram {c : Chan} (cause : EndCause) {into : ChanState} {s : State} (hinto : into.hasProgram = false)
    (hlock : into = .lockout → (s.chan c).cfg.kind.isElement = false) : Acts s (endProgram c cause into s) := by
  have hcfg := (quench_chan c c (raiseFor c .programEnd cause.code s)).2.2
  rw [raiseFor_chan] at hcfg
  refine (acts_raiseFor c _ _ s).trans <| (acts_quench c _).trans <| acts_mapChan ?_
  refine (chanActs_chc { state := into, causes := ⟨false, false⟩, target := none, endCause := cause } (fun h => ?_)
    (by simp [hinto])).trans chanActs_of_eq
  rw [hcfg, hlock h]

theorem acts_endIfProgram (c : Chan) (cause : EndCause) (s : State) : Acts s (endIfProgram c cause s) := by
  unfold endIfProgram
  split
  · exact acts_endProgram cause rfl (by simp)
  · exact .refl s

theorem driveSound_afresh (ch : Channel) (h : DriveSound ch) :
    DriveSound { ch with driver := ch.driver.afresh ch.cfg.kind } := by
  refine driveSound_of_level ?_ ?_ h <;> unfold Driver.afresh <;> split <;> simp

theorem chanActs_enterRunning {s : State} {ch : Channel}
    (h : s.ssv.station = .safe → ch.cfg.kind.isElement = true → ch.chc.state.hasProgram = true) :
    ChanActs s ch ch.enterRunning := by
  refine (chanActs_driver (if ch.chc.state = .running then ch.driver else ch.driver.afresh ch.cfg.kind) ?_).trans
    (chanActs_chc { ch.chc with state := .running } (by simp) fun hs he _ => h hs he)
  split
  · exact id
  · exact driveSound_afresh ch

theorem acts_startSlot {c : Chan} (n : Slot) {s : State} (h : MayRun c s) : Acts s (startSlot c n s) := by
  have started : Acts s (s.mapChan c fun ch => { ch with pgu := ch.pgu.started n }) := acts_mapChan chanActs_of_eq
  unfold startSlot
  dsimp only
  refine started.trans ?_
  split_ifs
  · exact acts_mapChan chanActs_of_eq
  · exact acts_mapChan (chanActs_enterRunning (by simpa using h))
  · exact acts_mapChan ((chanActs_extinguished _ _).trans (chanActs_enterRunning (by simpa [Channel.extinguished] using h)))
  · exact acts_mapChan (chanActs_burner _ _ fun _ => ⟨rfl, rfl, rfl, rfl⟩)
  · exact acts_enterIgnition _ (by simpa [MayRun] using h)

theorem acts_expireStep {c : Chan} (a : EndAction) {s : State} (h : (s.chan c).chc.state.hasProgram = true) :
    Acts s (expireStep c a s) := by
  unfold expireStep
  refine (acts_raiseFor c .stepEnd a.code s).trans ?_
  cases a with
  | hold => exact acts_mapChan (f := fun ch => { ch with pgu := ch.pgu.held }) chanActs_of_eq
  | finish => exact acts_endProgram _ rfl (by simp)
  | next =>
    dsimp only
    split
    · exact acts_startSlot _ fun _ _ => by simpa using h
    · exact acts_endProgram _ rfl (by simp)

theorem acts_endDelay {c : Chan} {s : State} (h : (s.chan c).chc.state.hasProgram = true) : Acts s (endDelay c s) := by
  refine (acts_raiseFor c .delayEnd 0 s).trans ?_
  unfold endDelay
  dsimp only
  split
  · exact acts_startSlot _ fun _ _ => by simpa using h
  · exact .refl _

theorem acts_enterPaused {c : Chan} (causes : PauseCauses) {s : State} (h : (s.chan c).chc.state.hasProgram = true) :
    Acts s (enterPaused c causes s) := by
  refine (acts_quench c s).trans <| acts_mapChan <| chanActs_chc _ (by simp) fun _ _ _ => ?_
  rw [(quench_chan c c s).1]
  exact h

theorem acts_leavePaused {c : Chan} {s : State} (h : (s.chan c).chc.state.hasProgram = true) :
    Acts s (leavePaused c s) := by
  unfold leavePaused
  dsimp only
  refine (acts_mapChan (c := c) (f := fun ch => { ch with chc := { ch.chc with target := none } })
    chanActs_of_eq).trans ?_
  split_ifs
  · exact acts_mapChan (chanActs_chc _ (by simp) fun _ _ _ => by simpa using h)
  · exact acts_enterIgnition _ fun _ _ => by simpa using h
  · exact acts_mapChan (chanActs_enterRunning fun _ _ => by simpa using h)

end Sys2Proof.Machine
end

section
/-! SUPPORT. What a half-cycle and a second event can do on a burner: the outcome by its phase, and the share before the
recomputation that some outcomes call for (R128 to R141). -/

namespace Sys2Proof.Machine

/-! ### The outcome on a burner -/

theorem sampled_phase (b : Burner) (x : Sample) :
    (b.sampled x).phase = b.phase ∧ (b.sampled x).safety = b.safety ∧ (b.sampled x).sparkTime = b.sparkTime ∧
    (b.sampled x).safetyTime = b.safetyTime ∧ (b.sampled x).supervising = b.supervising := by
  cases x <;> exact ⟨rfl, rfl, rfl, rfl, rfl⟩

theorem falseFlameStep_phase (b : Burner) (x : Sample) (p : BurnerParams) :
    (b.falseFlameStep x p).phase = b.phase ∧ (b.falseFlameStep x p).supervising = b.supervising := by
  unfold Burner.falseFlameStep
  split_ifs <;> exact ⟨rfl, rfl⟩

section
variable {s : State} {c : Chan} (hk : (s.chan c).cfg.kind = .burner)
include hk

theorem ignitionStep_lineWait (hp : (s.chan c).burner.phase = .lineWait) :
    ignitionStep s c =
      lineWaitStep (hertz s.mtb.frequency) s.pins.inputs.spark (flameSample s c) (s.chan c).cfg.params
        (s.chan c).burner := by
  simp [ignitionStep, hk, hp]

theorem ignitionStep_spark (hp : (s.chan c).burner.phase = .spark) :
    ignitionStep s c = sparkStep (s.chan c).burner := by
  simp [ignitionStep, hk, hp]

theorem ignitionStep_prove (hp : (s.chan c).burner.phase = .prove) :
    ignitionStep s c = proveStep (flameSample s c) (s.chan c).cfg.params (s.chan c).burner := by
  simp [ignitionStep, hk, hp]

theorem ignitionStep_apart (hp : (s.chan c).burner.phase.holdsUnit = false) :
    ignitionStep s c =
      if (s.chan c).burner.supervising then
        superviseStep (hertz s.mtb.frequency) (flameSample s c) (s.chan c).cfg.params (s.chan c).burner
      else ((s.chan c).burner, .stays) := by
  unfold ignitionStep
  cases h : (s.chan c).burner.phase <;> simp_all [IgnitionPhase.holdsUnit]

end

theorem ignitionStep_other {s : State} {c : Chan} (hk : (s.chan c).cfg.kind ≠ .burner) :
    ignitionStep s c = ((s.chan c).burner, .stays) := by
  simp [ignitionStep, hk]

/-- What a half-cycle can bring about on a burner, by the phase it stands in (R128 to R134, R140). -/
theorem ignitionStep_cases (s : State) (c : Chan) :
    ignitionStep s c = ((s.chan c).burner, .stays) ∨
    ((s.chan c).cfg.kind = .burner ∧
      (((s.chan c).burner.phase = .lineWait ∧
          ((ignitionStep s c).2 = .stays ∨ (ignitionStep s c).2 = .sparkStart ∨
            (ignitionStep s c).2 = .falseFlameLockout) ∧ (ignitionStep s c).1.phase = .lineWait ∧
          (ignitionStep s c).1.supervising = (s.chan c).burner.supervising) ∨
        ((s.chan c).burner.phase = .spark ∧
          ignitionStep s c =
            ({ (s.chan c).burner with safety := (s.chan c).burner.safety + 1 },
              if (s.chan c).burner.sparkTime ≤ (s.chan c).burner.safety + 1 then .sparkEnd else .stays)) ∨
        ((s.chan c).burner.phase = .prove ∧ (ignitionStep s c).1.phase = .prove ∧
          (ignitionStep s c).1.supervising = (s.chan c).burner.supervising ∧
          ((ignitionStep s c).2 = .proven ∨ (ignitionStep s c).2 = .failed ∨
            ((ignitionStep s c).2 = .stays ∧ (ignitionStep s c).1.safety < (ignitionStep s c).1.safetyTime))) ∨
        ((s.chan c).burner.phase.holdsUnit = false ∧ (s.chan c).burner.supervising = true ∧
          ((ignitionStep s c).2 = .stays ∨ (ignitionStep s c).2 = .lostSense ∨ (ignitionStep s c).2 = .lostBlanking) ∧
          (ignitionStep s c).1.phase = (s.chan c).burner.phase ∧
          (ignitionStep s c).1.supervising = true))) := by
  by_cases hk : (s.chan c).cfg.kind = .burner
  swap
  · exact .inl (ignitionStep_other hk)
  have sampled (b : Burner) := sampled_phase b (flameSample s c)
  cases hh : (s.chan c).burner.phase.holdsUnit
  · rw [ignitionStep_apart hk hh]
    split
    case isFalse => exact .inl rfl
    case isTrue hs =>
      refine .inr ⟨hk, .inr (.inr (.inr ⟨rfl, hs, ?_, (sampled _).1, (sampled _).2.2.2.2.trans hs⟩))⟩
      unfold superviseStep
      dsimp only
      split_ifs <;> simp
  have held : (s.chan c).burner.phase = .lineWait ∨ (s.chan c).burner.phase = .spark ∨
      (s.chan c).burner.phase = .prove := by
    cases hp : (s.chan c).burner.phase <;> simp_all [IgnitionPhase.holdsUnit]
  obtain hp | hp | hp := held
  · rw [ignitionStep_lineWait hk hp]
    obtain ⟨h1, -, -, -, h5⟩ := sampled (s.chan c).burner
    obtain ⟨k1, k5⟩ := falseFlameStep_phase ((s.chan c).burner.sampled (flameSample s c)) (flameSample s c)
      (s.chan c).cfg.params
    refine .inr ⟨hk, .inl ⟨hp, ?_, ?_⟩⟩ <;> unfold lineWaitStep <;> dsimp only
    · split_ifs <;> simp
    · split_ifs <;> exact ⟨k1.trans (h1.trans hp), k5.trans h5⟩
  · rw [ignitionStep_spark hk hp]
    exact .inr ⟨hk, .inr (.inl ⟨hp, rfl⟩)⟩
  · rw [ignitionStep_prove hk hp]
    obtain ⟨h1, -, -, -, h5⟩ := sampled { (s.chan c).burner with safety := (s.chan c).burner.safety + 1 }
    refine .inr ⟨hk, .inr (.inr (.inl ⟨hp, h1.trans hp, h5, ?_⟩))⟩
    unfold proveStep
    dsimp only
    split_ifs <;> simp
    omega

/-- The share of burner `c` before the recomputation that some of its outcomes call for. -/
def burnerShare (c : Chan) (s : State) : State :=
  let t := s.mapChan c fun ch => { ch with burner := (ignitionStep s c).1 }
  match (ignitionStep s c).2 with
  | .stays => t
  | .sparkStart => startSpark c t
  | .falseFlameLockout => lockOut c .falseFlame t
  | .sparkEnd => endSpark c t
  | .proven => proveFlame c t
  | .failed => failAttempt c t
  | .lostSense => loseFlame c 0 t
  | .lostBlanking => loseFlame c 1 t

/-- A burner's share is that of its outcome, with a recomputation after it or without (R91). -/
theorem ignitionShare_cases (c : Chan) (s : State) :
    ignitionShare c s = burnerShare c s ∨ ignitionShare c s = recompute (burnerShare c s) := by
  unfold ignitionShare burnerShare applyIgnition
  cases (ignitionStep s c).2
  case stays | sparkStart | sparkEnd => exact .inl rfl
  all_goals exact .inr rfl

/-! ### What it does to a sound station -/

theorem acts_lockOut {c : Chan} (cause : EndCause) {s : State} (h : (s.chan c).cfg.kind = .burner) :
    Acts s (lockOut c cause s) := by
  have locked : ChanActs s (s.chan c) { s.chan c with lockoutBit := true, valve := 0 } :=
    ⟨rfl, rfl, fun _ => rfl, rfl, id, id, fun _ _ h => h, fun _ h => h, fun _ h => h⟩
  unfold lockOut
  refine (acts_mapChan (c := c) (f := fun ch => { ch with lockoutBit := true, valve := 0 }) locked).trans <|
    (acts_raiseFor c .lockout cause.code _).trans <| (acts_endProgram cause rfl fun _ => ?_).trans <|
    acts_mapChan (chanActs_burner .reset _ (by simp [Burner.reset]))
  simp [h, ChanKind.isElement]

theorem acts_failAttempt {c : Chan} {s : State} (h : (s.chan c).cfg.kind = .burner) : Acts s (failAttempt c s) := by
  unfold failAttempt
  refine (acts_mapChan (c := c) (f := fun ch => { ch with valve := 0 }) chanActs_of_eq).trans <|
    (acts_raiseFor c .ignitionFail (s.chan c).burner.attempt _).trans ?_
  split
  · exact (acts_mapChan (chanActs_burner _ _ (by simp [Burner.atPurge]))).trans (acts_releaseUnit _)
  · exact acts_lockOut _ (by simpa using h)

theorem mayRun_burner {c : Chan} {s : State} (h : (s.chan c).cfg.kind = .burner) : MayRun c s := by
  intro _ he
  simp [h, ChanKind.isElement] at he

theorem acts_loseFlame {c : Chan} (n : Nat) {s : State} (h : (s.chan c).cfg.kind = .burner) :
    Acts s (loseFlame c n s) := by
  unfold loseFlame
  exact (acts_mapChan (chanActs_extinguished s _)).trans <|
    (acts_raiseFor c .flameLoss n _).trans <| acts_enterIgnition 1 <| mayRun_burner (by simpa [Channel.extinguished] using h)

theorem acts_proveFlame {c : Chan} {s : State} (h : (s.chan c).cfg.kind = .burner) : Acts s (proveFlame c s) := by
  unfold proveFlame
  refine (acts_mapChan ?_).trans (acts_releaseUnit _)
  exact (chanActs_chc { (s.chan c).chc with state := .running } (by simp) fun hs he _ => mayRun_burner h hs he).trans
    (chanActs_burner _ _ (by simp [Burner.atProof]))

/-- S is below T, both of at least one half-cycle, where the parameters are within their ranges (R122, R136, R187). -/
theorem spark_below_safety {f : Option Frequency} (hf : f.isSome = true) {p : BurnerParams} (h5 : 5 ≤ p.sparkTime)
    (h10 : p.sparkTime + 10 ≤ p.safetyTime) :
    0 < sparkHalfCycles f p ∧ sparkHalfCycles f p < safetyHalfCycles f p := by
  obtain ⟨f, rfl⟩ := Option.isSome_iff_exists.1 hf
  cases f <;> simp only [sparkHalfCycles, safetyHalfCycles, hertz] <;> omega

/-- A change of a burner's record that keeps an attempt within its safety time. -/
theorem chanActs_attempt {s : State} {ch : Channel} (b : Burner) (v : Nat)
    (h : Timed s → AttemptOf ch → AttemptOf { ch with burner := b, valve := v }) :
    ChanActs s ch { ch with burner := b, valve := v } :=
  ⟨rfl, rfl, id, rfl, id, id, fun _ _ h => h, fun _ h => h, h⟩

/-- A share that leaves the burner in neither SPARK nor PROVE is sound whatever the half-cycle made of its record. -/
theorem acts_of_record {c : Chan} {b : Burner} {s t : State}
    (h : Acts (s.mapChan c fun ch => { ch with burner := b }) t)
    (hs : (t.chan c).burner.phase ≠ .spark) (hp : (t.chan c).burner.phase ≠ .prove) : Acts s t where
  station := h.station
  events := h.events
  channel d := by
    obtain ⟨claim, cfg, bit, slots, levels, drive, program, lockout, attempt⟩ := h.channel d
    by_cases hd : d = c
    · subst hd
      rw [State.chan_mapChan_self] at claim cfg bit slots levels drive program lockout
      refine ⟨claim, cfg, bit, slots, levels, drive, program, lockout, fun _ ⟨h5, h10, _⟩ => ?_⟩
      exact ⟨by rw [cfg]; exact h5, by rw [cfg]; exact h10, fun h => absurd h hs, fun h => absurd h hp⟩
    · rw [State.chan_mapChan_ne _ _ _ _ hd] at *
      exact ⟨claim, cfg, bit, slots, levels, drive, program, lockout, attempt⟩

/-- A promotion takes a burner's phase to LINE_WAIT or leaves it. -/
theorem promote_phase (s : State) (c : Chan) :
    ((promote s).chan c).burner.phase = (s.chan c).burner.phase ∨ ((promote s).chan c).burner.phase = .lineWait := by
  unfold promote
  split
  · rename_i d rest _ _
    by_cases hd : c = d
    · subst hd; rw [State.chan_mapChan_self]; exact .inr rfl
    · rw [State.chan_mapChan_ne _ _ _ _ hd]; exact .inl rfl
  · exact .inl rfl

theorem releaseUnit_phase (s : State) (c : Chan) :
    ((releaseUnit s).chan c).burner.phase = (s.chan c).burner.phase ∨
    ((releaseUnit s).chan c).burner.phase = .lineWait := promote_phase _ c

theorem proveFlame_phase (c : Chan) (s : State) :
    ((proveFlame c s).chan c).burner.phase = .none ∨ ((proveFlame c s).chan c).burner.phase = .lineWait := by
  unfold proveFlame
  refine (releaseUnit_phase _ c).imp (fun h => h.trans ?_) id
  rw [State.chan_mapChan_self]
  rfl

theorem failAttempt_phase (c : Chan) (s : State) :
    ((failAttempt c s).chan c).burner.phase = .none ∨ ((failAttempt c s).chan c).burner.phase = .purge ∨
    ((failAttempt c s).chan c).burner.phase = .lineWait := by
  unfold failAttempt
  dsimp only
  split
  · refine .inr ((releaseUnit_phase _ c).imp (fun h => h.trans ?_) id)
    rw [State.chan_mapChan_self]
    rfl
  · unfold lockOut
    rw [State.chan_mapChan_self]
    exact .inl rfl

/-- The entry to PROVE with the record that the half-cycle made. -/
theorem endSpark_record (c : Chan) (b : Burner) (s : State) :
    endSpark c (s.mapChan c fun ch => { ch with burner := b }) =
      { s with igu := { s.igu with spark := false } }.mapChan c fun ch =>
        { ch with burner := { b with phase := .prove } } :=
  mapChan_mapChan c (fun ch => { ch with burner := b })
    (fun ch => { ch with burner := { ch.burner with phase := .prove } }) { s with igu := { s.igu with spark := false } }

/-- The outcomes that the station sees keep a sound station sound, and an attempt within its safety time (R133, R134,
R136). -/
theorem acts_burnerShare (c : Chan) {s : State} (ht : s.mtb.mode = .tracking) : Acts s (burnerShare c s) := by
  have record (h : (ignitionStep s c).1.phase = .spark ∨ (ignitionStep s c).1.phase = .prove → False) :
      Acts s (s.mapChan c fun ch => { ch with burner := (ignitionStep s c).1 }) :=
    acts_mapChan (chanActs_burner _ _ fun hp => (h hp).elim)
  unfold burnerShare
  dsimp only
  obtain hst | ⟨hk, ⟨-, ho, hphase, -⟩ | ⟨hphase, hst⟩ | ⟨-, hphase, -, ho⟩ | ⟨hphase, -, ho, hb, -⟩⟩ :=
    ignitionStep_cases s c
  · rw [hst]
    exact acts_mapChan (chanActs_burner _ _ fun _ => ⟨rfl, rfl, rfl, rfl⟩)
  · have moved := record (by simp [hphase])
    obtain ho | ho | ho := ho <;> rw [ho] <;> dsimp only
    · exact moved
    · refine moved.trans ?_
      unfold startSpark
      refine (acts_igu _ _).trans (acts_mapChan (chanActs_attempt _ _ fun hf ⟨h5, h10, _, _⟩ => ?_))
      obtain ⟨hpos, hlt⟩ := spark_below_safety (hf ht) h5 h10
      exact ⟨h5, h10, fun _ => ⟨hpos, hlt⟩, by simp [Burner.atSpark]⟩
    · exact moved.trans (acts_lockOut _ (by simpa using hk))
  · rw [hst]
    by_cases hend : (s.chan c).burner.sparkTime ≤ (s.chan c).burner.safety + 1
    · simp only [hend, if_true]
      rw [endSpark_record]
      refine (acts_igu _ s).trans (acts_mapChan (chanActs_attempt _ _ ?_))
      refine fun _ ⟨h5, h10, hs, _⟩ => ⟨h5, h10, by simp, fun _ => ?_⟩
      obtain ⟨h1, h2⟩ := hs hphase
      exact Nat.lt_of_le_of_lt h1 h2
    · simp only [hend, if_false]
      refine acts_mapChan (chanActs_attempt _ _ fun _ ⟨h5, h10, hs, hp⟩ => ⟨h5, h10, fun h => ?_, fun h => ?_⟩)
      · exact ⟨by simpa using hend, (hs h).2⟩
      · exact absurd (hphase.symm.trans h) (by simp)
  · obtain ho | ho | ⟨ho, hlt⟩ := ho <;> rw [ho] <;> dsimp only
    · have hend := proveFlame_phase c (s.mapChan c fun ch => { ch with burner := (ignitionStep s c).1 })
      refine acts_of_record (acts_proveFlame (by simpa using hk)) ?_ ?_ <;> obtain hend | hend := hend <;> simp [hend]
    · have hend := failAttempt_phase c (s.mapChan c fun ch => { ch with burner := (ignitionStep s c).1 })
      refine acts_of_record (acts_failAttempt (by simpa using hk)) ?_ ?_ <;>
        obtain hend | hend | hend := hend <;> simp [hend]
    · refine acts_mapChan (chanActs_attempt _ _ fun _ ⟨h5, h10, _⟩ => ⟨h5, h10, ?_, fun _ => hlt⟩)
      simp [hphase]
  · have moved := record (by rw [hb]; cases h : (s.chan c).burner.phase <;> simp_all [IgnitionPhase.holdsUnit])
    obtain ho | ho | ho := ho <;> rw [ho] <;> dsimp only
    · exact moved
    all_goals exact moved.trans (acts_loseFlame _ (by simpa using hk))

/-- Whatever the mode, a burner's share leaves the time base alone. -/
theorem burnerShare_mtb (c : Chan) (s : State) : (burnerShare c s).mtb = s.mtb := by
  have burning (h : (ignitionStep s c).2 ≠ .stays) :
      ((s.mapChan c fun ch => { ch with burner := (ignitionStep s c).1 }).chan c).cfg.kind = .burner := by
    by_contra hk
    exact h (by rw [ignitionStep_other (by simpa using hk)])
  unfold burnerShare
  dsimp only
  cases ho : (ignitionStep s c).2 <;> rw [ho] at burning <;> dsimp only
  case stays | sparkStart | sparkEnd => rfl
  case falseFlameLockout => exact (acts_lockOut _ (burning (by simp))).mtb
  case proven => exact (acts_proveFlame (burning (by simp))).mtb
  case failed => exact (acts_failAttempt (burning (by simp))).mtb
  all_goals exact (acts_loseFlame _ (burning (by simp))).mtb

theorem acts_purgeSecond (c : Chan) (s : State) : Acts s (purgeSecond c s) := by
  unfold purgeSecond
  split_ifs with hp
  · exact acts_mapChan (chanActs_burner _ _ (by simp [hp]))
  · exact (acts_mapChan (chanActs_burner _ _ (by simp [hp]))).trans (acts_joinQueue c _)
  · exact .refl s

theorem acts_purgeShare (c : Chan) (s : State) : Acts s (purgeShare c s) := by
  unfold purgeShare
  split
  · exact .refl s
  · exact acts_purgeSecond c s

end Sys2Proof.Machine
end

section
/-! SUPPORT. The operations of which the meaning of every command is made, and what it takes that a condition on the station
is kept by all of them. -/

namespace Sys2Proof.Machine

/-! ### Operations on one channel -/

/-- Everything that `f` does to all four channels, it can do to one after another. -/
theorem mapChans_eq_forChans (f : Channel → Channel) (s : State) :
    mapChans f s = forChans (fun c s => s.mapChan c f) s := rfl

/-- Nothing changed but what no condition of Safety.lean on a whole state speaks of: pins, notes, the line, the last-started
record, the DEMAND request and the budgets. -/
structure Unseen (s t : State) : Prop where
  mtb : t.mtb = s.mtb := by rfl
  ssv : t.ssv = s.ssv := by rfl
  chans : t.chans = s.chans := by rfl
  igu : t.igu = s.igu := by rfl
  gib : t.gib = s.gib := by rfl
  rpu : t.rpu = s.rpu := by rfl
  peers : t.apu.peers = s.apu.peers := by rfl
  interval : t.apu.interval = s.apu.interval := by rfl
  ownSendAge : t.apu.ownSendAge = s.apu.ownSendAge := by rfl
  replies : t.lif.replies = s.lif.replies := by rfl
  stateSet : t.lif.stateSet = s.lif.stateSet := by rfl
  configOpen : t.configOpen = s.configOpen := by rfl
  taken : t.taken = s.taken := by rfl
  pending : t.pending = s.pending := by rfl
  held : t.held = s.held := by rfl

theorem unseen_makeRequest (s : State) : Unseen s (makeRequest s) := by
  unfold makeRequest
  split <;> exact {}

/-- The claim of a channel after an event of its hold: the announced demand and the ceiling stand, and the settled demand
stays sound. -/
structure ClaimMoves (k k' : Claim) : Prop where
  announced : k'.announced = k.announced
  ceiling : k'.ceiling = k.ceiling
  settled : k.settled ≤ k.announced ∧ (k.stage = .clear → k.settled = k.announced) →
    k'.settled ≤ k'.announced ∧ (k'.stage = .clear → k'.settled = k'.announced)

/-- A step table with one slot written. -/
abbrev Fits (kind : ChanKind) (content : Option StepRecord) : Prop :=
  (content.map StepRecord.level).getD 0 ≤ levelMax kind

/-- The condition `P` is kept by every operation on the channels' programs, drivers and burners. -/
structure KeptByChannels (P : State → Prop) : Prop where
  startSlot : ∀ (c : Chan) (n : Slot) (s : State), P s → (s.chan c).chc.state ≠ .igniting → MayRun c s →
    P (startSlot c n s)
  endProgram : ∀ (c : Chan) (cause : EndCause) (into : ChanState) (s : State), P s → into.hasProgram = false →
    into ≠ .lockout → P (endProgram c cause into s)
  enterPaused : ∀ (c : Chan) (causes : PauseCauses) (s : State), P s → (s.chan c).chc.state.hasProgram = true →
    P (enterPaused c causes s)
  leavePaused : ∀ (c : Chan) (s : State), P s → (s.chan c).chc.state = .paused → P (leavePaused c s)
  controller : ∀ (c : Chan) (k : Chc) (s : State), P s → k.state = (s.chan c).chc.state →
    P (s.setChan c { s.chan c with chc := k })
  delayed : ∀ (c : Chan) (p : Pgu) (s : State), P s → p.slots = (s.chan c).pgu.slots → (s.chan c).chc.state = .idle →
    MayRun c s →
    P (s.setChan c { s.chan c with pgu := p, chc := { (s.chan c).chc with state := .delayed } })
  timers : ∀ (c : Chan) (p : Pgu) (s : State), P s → p.slots = (s.chan c).pgu.slots →
    p.current = (s.chan c).pgu.current → P (s.setChan c { s.chan c with pgu := p })
  adjustLevel : ∀ (op : AdjustOperation) (v : Nat) (c : Chan) (s : State), P s →
    (s.chan c).chc.state.hasProgram = true → (s.chan c).chc.state ≠ .igniting → P (adjustLevel op v c s)
  load : ∀ (c : Chan) (n : Slot) (content : Option StepRecord) (s : State), P s →
    ¬ ((s.chan c).chc.state.hasProgram = true ∧ (s.chan c).pgu.current = some n) → Fits (s.chan c).cfg.kind content →
    P (s.setChan c { s.chan c with pgu := (s.chan c).pgu.load n content })
  disabled : ∀ (c : Chan) (cause : EndCause) (s : State), P s → (s.chan c).chc.state.hasProgram = false →
    P (s.setChan c { s.chan c with chc := { (s.chan c).chc with state := .disabled, endCause := cause } })
  driver : ∀ (c : Chan) (d : Driver) (s : State), P s →
    (DriveSound (s.chan c) → DriveSound { s.chan c with driver := d }) →
    P (s.setChan c { s.chan c with driver := d })
  burnerShare : ∀ (c : Chan) (s : State), P s → s.mtb.mode = .tracking → P (burnerShare c s)
  purgeSecond : ∀ (c : Chan) (s : State), P s → P (purgeSecond c s)

theorem adjustedLevel_le (kind : ChanKind) (op : AdjustOperation) {old : Nat} (v : Nat) (h : old ≤ levelMax kind) :
    adjustedLevel kind op old v ≤ levelMax kind := by
  cases op <;> simp only [adjustedLevel] <;> omega

/-- The level of the current step is one of the step table's. -/
theorem level_le {ch : Channel} (h : LevelsOf ch) : ch.pgu.level ≤ levelMax ch.cfg.kind := by
  unfold Pgu.level Pgu.currentRecord
  cases ch.pgu.current with
  | none => simp
  | some n =>
    simp only [Option.bind_some, Pgu.slotAt]
    cases hn : ch.pgu.slots[n.val]? with
    | none => simp
    | some r => simpa using h r (List.mem_of_getElem? hn)

theorem levelsOf_set {ch : Channel} {n : Nat} {r : Option StepRecord} (hr : Fits ch.cfg.kind r) (h : LevelsOf ch) :
    ∀ x ∈ ch.pgu.slots.set n r, (x.map StepRecord.level).getD 0 ≤ levelMax ch.cfg.kind := by
  intro x hx
  obtain hx | rfl := List.mem_or_eq_of_mem_set hx
  · exact h x hx
  · exact hr

/-- What a change of the level of the current record does to the step table (R37). -/
theorem withLevel_cases (p : Pgu) (v : Nat) :
    p.withLevel v = p ∨ ∃ n r, p.current = some n ∧ p.slotAt n = some r ∧
      p.withLevel v = { p with slots := p.slots.set n.val (some { r with level := v }) } := by
  unfold Pgu.withLevel
  cases hc : p.current with
  | none => exact .inl rfl
  | some n =>
    cases hr : p.slotAt n with
    | none => simp [hr]
    | some r => exact .inr ⟨n, r, rfl, hr, by simp [hr]⟩

/-- A change of the step table alone that keeps it within the maximum. -/
theorem chanActs_slots {s : State} {ch : Channel} (p : Pgu) (hlen : p.slots.length = ch.pgu.slots.length)
    (hlev : LevelsOf ch → LevelsOf { ch with pgu := p }) : ChanActs s ch { ch with pgu := p } :=
  ⟨rfl, rfl, id, hlen, hlev, id, fun _ _ h => h, fun _ h => h, fun _ h => h⟩

theorem acts_adjustLevel (op : AdjustOperation) (v : Nat) {c : Chan} {s : State}
    (h : (s.chan c).chc.state.hasProgram = true) : Acts s (adjustLevel op v c s) := by
  have written : Acts s (s.mapChan c fun ch =>
      { ch with pgu := ch.pgu.withLevel (adjustedLevel ch.cfg.kind op (s.chan c).pgu.level v) }) := by
    refine acts_mapChan (chanActs_slots _ ?_ fun hl => ?_) <;>
      obtain hw | ⟨n, r, -, -, hw⟩ := withLevel_cases (s.chan c).pgu
        (adjustedLevel (s.chan c).cfg.kind op (s.chan c).pgu.level v)
    · rw [hw]
    · rw [hw]; exact List.length_set
    · rw [hw]; exact hl
    · rw [hw]; exact levelsOf_set (by simpa [Fits] using adjustedLevel_le _ op v (level_le hl)) hl
  have mayRun : MayRun c (s.mapChan c fun ch =>
      { ch with pgu := ch.pgu.withLevel (adjustedLevel ch.cfg.kind op (s.chan c).pgu.level v) }) := fun _ _ => by
    simpa using h
  unfold adjustLevel moveValve
  dsimp only
  split_ifs
  · exact written.trans (acts_mapChan (chanActs_burner _ _ fun _ => ⟨rfl, rfl, rfl, rfl⟩))
  · exact written.trans (acts_mapChan (chanActs_extinguished _ _))
  · exact written.trans (acts_enterIgnition _ mayRun)
  · exact written
  · exact written

/-- A condition that no act of a channel endangers is kept by every operation on channels. -/
theorem keptByChannels_of_acts {P : State → Prop} (h : ∀ s t, Acts s t → P s → P t) : KeptByChannels P where
  startSlot c n s hs _ hr := h _ _ (acts_startSlot n hr) hs
  endProgram c cause into s hs hi hl := h _ _ (acts_endProgram cause hi fun hlock => absurd hlock hl) hs
  enterPaused c causes s hs hp := h _ _ (acts_enterPaused causes hp) hs
  leavePaused c s hs hp := h _ _ (acts_leavePaused (by simp [hp, ChanState.hasProgram])) hs
  controller c k s hs hk := h _ _ (acts_mapChan (f := fun ch => { ch with chc := k }) (chanActs_of_eq (hstate := hk))) hs
  delayed c p s hs hslots hidle hrun := by
    refine h _ _ (acts_mapChan
      (f := fun ch => { ch with pgu := p, chc := { ch.chc with state := .delayed } }) ?_) hs
    exact (chanActs_of_eq (ch' := { s.chan c with pgu := p }) (hslots := hslots)).trans
      (chanActs_chc { (s.chan c).chc with state := .delayed } (by simp) fun ha he _ => hrun ha he)
  timers c p s hs hslots _ :=
    h _ _ (acts_mapChan (f := fun ch => { ch with pgu := p }) (chanActs_of_eq (hslots := hslots))) hs
  adjustLevel op v c s hs hp _ := h _ _ (acts_adjustLevel op v hp) hs
  load c n content s hs _ hf :=
    h _ _ (acts_mapChan (f := fun ch => { ch with pgu := ch.pgu.load n content })
      (chanActs_slots _ List.length_set (levelsOf_set hf))) hs
  disabled c cause s hs hp := by
    refine h _ _ (acts_mapChan
      (f := fun ch => { ch with chc := { ch.chc with state := .disabled, endCause := cause } })
      (chanActs_chc _ (by simp) ?_)) hs
    simp [ChanState.hasProgram]
  driver c d s hs hd := h _ _ (acts_mapChan (f := fun ch => { ch with driver := d }) (chanActs_driver d hd)) hs
  burnerShare c s hs ht := h _ _ (acts_burnerShare c ht) hs
  purgeSecond c s hs := h _ _ (acts_purgeSecond c s) hs

/-- The condition `P` is kept by what every command and every half-cycle can do. -/
structure Kept (P : State → Prop) : Prop extends KeptByChannels P where
  recompute : ∀ s, P s → P (recompute s)
  unseen : ∀ s t, Unseen s t → P s → P t
  rpu : ∀ (r : Rpu) (s : State), P s → (s.rpu.events.length ≤ 8 → r.events.length ≤ 8) → P { s with rpu := r }
  restore : ∀ s t : State, P s → P t → P { t with rpu := s.rpu }
  claim : ∀ (c : Chan) (k : Claim) (s : State), P s → ClaimMoves (s.chan c).claim k →
    P (s.setChan c { s.chan c with claim := k })
  gated : ∀ (c : Chan) (b : Bool) (s : State), P s → P (s.setChan c { s.chan c with gated := b })

/-- The gate input block after samples, or after new kinds. -/
structure GibMoves (g g' : Gib) : Prop where
  run : ∀ k, (g.gates.get k).run ≤ 7 → (g'.gates.get k).run ≤ 7
  mrOff : g.mrOff ≤ 7 → g'.mrOff ≤ 7

/-- The peer table after an interval event, a DEMAND or a mains failure. -/
structure PeersMove (ps ps' : List (Option PeerRow)) : Prop where
  length : ps.length = 16 → ps'.length = 16
  age : (∀ row ∈ ps, (row.map PeerRow.age).getD 0 ≤ 3) → ∀ row ∈ ps', (row.map PeerRow.age).getD 0 ≤ 3

/-- The condition `P` is kept by what a half-cycle does on every unit but the two counters of half-cycles, the prescaler
and the demand interval. -/
structure KeptByBlocks (P : State → Prop) : Prop extends Kept P where
  gib : ∀ (g : Gib) (s : State), P s → GibMoves s.gib g → P { s with gib := g }
  clearLockout : ∀ (c : Chan) (s : State), P s → P (clearLockout c s)
  enterSafe : ∀ s, P s → P (Machine.recompute (makeRequest (Machine.enterSafe s)))

/-- The condition `P` is kept by what a half-cycle does on every unit. -/
structure KeptByUnits (P : State → Prop) : Prop extends KeptByBlocks P where
  interval : ∀ (n : Nat) (s : State), P s → n < 50 → P { s with apu := { s.apu with interval := n } }
  peers : ∀ (ps : List (Option PeerRow)) (s : State), P s → PeersMove s.apu.peers ps →
    P { s with apu := { s.apu with peers := ps } }
  ageOwnSend : ∀ s, P s → P (ageOwnSend s)
  countListen : ∀ s, P s → s.mtb.mode = .tracking → P (countListen s)
  clashQuiet : ∀ (n : Nat) (s : State), P s → n ≤ 4 → P { s with ssv := { s.ssv with clashQuiet := n } }
  prescaler : ∀ (n : Nat) (s : State), P s → s.mtb.mode = .tracking →
    (s.mtb.frequency.isSome = true → n < perSecond s.mtb.frequency) →
    P { s with mtb := { s.mtb with prescaler := n } }

/-- The condition `P` is kept by every share of a half-cycle, with the mark that says it is taken. -/
structure KeptByShares (P : State → Prop) : Prop extends KeptByUnits P where
  taken : ∀ (l : List HalfCycleUnit) (s : State), P s → P { s with taken := l }

/-- The condition `P` is kept by what a command of the zone line carries out, but for the resets. -/
structure KeptByCommands (P : State → Prop) : Prop extends Kept P where
  stateSet : ∀ (set : List Chan) (s : State), P s → (s.lif.stateSet.Nodup → set.Nodup) →
    P { s with lif := { s.lif with stateSet := set } }
  gib : ∀ (g : Gib) (s : State), P s → GibMoves s.gib g → P { s with gib := g }
  peers : ∀ (ps : List (Option PeerRow)) (s : State), P s → PeersMove s.apu.peers ps →
    P { s with apu := { s.apu with peers := ps } }
  sent : ∀ s : State, P s → P { s with apu := { s.apu with ownSendAge := 0 } }
  noteClash : ∀ (a : Address) (s : State), P s → P (noteClash a s)
  flags : ∀ (powerFail clash : Bool) (s : State), P s → (clash = true → s.ssv.clash = true) →
    P { s with ssv := { s.ssv with powerFail := powerFail, clash := clash } }
  close : ∀ s : State, P s → P { s with configOpen := false }
  configure : ∀ (c : Chan) (k : ChanKind) (b : ChannelBytes) (s : State), P s → s.ssv.station ≠ .safe →
    ((s.chan c).chc.state = .idle ∨ (s.chan c).chc.state = .lockout) →
    P (s.setChan c (Channel.configure k b (s.chan c)))
  storeBurner : ∀ (c : Chan) (b : BurnerBytes) (s : State), P s → P (s.setChan c (storeBurner b (s.chan c)))

/-- The condition `P` is kept by all that the line brings and answers, but for the resets. -/
structure KeptByLine (P : State → Prop) : Prop extends KeptByCommands P where
  replies : ∀ (rs : List ReplyEntry) (s : State), P s → (s.lif.replies.length ≤ 4 → rs.length ≤ 4) →
    P { s with lif := { s.lif with replies := rs } }

/-- The time base after a sample or a window's count: neither mode nor frequency have changed, nor which timers run. -/
structure ClockMoves (m m' : Mtb) : Prop where
  mode : m'.mode = m.mode := by rfl
  frequency : m'.frequency = m.frequency := by rfl
  prescaler : m'.prescaler = m.prescaler := by rfl
  missing : m'.missingTimer.isSome = m.missingTimer.isSome := by rfl
  ride : m'.rideTimer.isSome = m.rideTimer.isSome := by rfl
  run : m.run ≤ 3 → m'.run ≤ 3
  returnRun : m.mode = .missing → m.returnRun ≤ 9 → m'.returnRun ≤ 9

/-- The condition `P` is kept by the time base and the reports it makes. -/
structure KeptByClock (P : State → Prop) : Prop extends KeptByShares P where
  clock : ∀ (m : Mtb) (s : State), P s → ClockMoves s.mtb m → P { s with mtb := m }
  restart : ∀ s : State, P s → s.mtb.mode = .tracking → P { s with mtb := { s.mtb with missingTimer := some 0 } }
  frequencySet : ∀ (f : Frequency) (s : State), P s → s.mtb.mode = .measuring → P (reportFrequencySet f s)
  mainsAbsent : ∀ s, P s → s.mtb.mode = .tracking → P (reportMainsAbsent s)
  mainsRestored : ∀ s, P s → s.mtb.mode = .missing → P (reportMainsRestored s)
  mainsFailed : ∀ (order : List Chan) (s : State), P s → s.mtb.mode = .missing → P (reportMainsFailed order s)

end Sys2Proof.Machine
end

section
/-! SUPPORT. A condition that the operations of Laws keep is kept by every share of a half-cycle. -/

namespace Sys2Proof.Machine

/-- A half-cycle on a timer moves neither the step table nor the current slot. -/
theorem countStep_slots (f : Option Frequency) (p : Pgu) :
    (p.countStep f).slots = p.slots ∧ (p.countStep f).current = p.current := by
  unfold Pgu.countStep
  split <;> exact ⟨rfl, rfl⟩

theorem countDelay_slots (f : Option Frequency) (p : Pgu) :
    (p.countDelay f).slots = p.slots ∧ (p.countDelay f).current = p.current := by
  unfold Pgu.countDelay
  split <;> exact ⟨rfl, rfl⟩

/-- A claim whose hold an event has moved without touching the demand. -/
theorem claimMoves_of_settled {k k' : Claim} (ha : k'.announced = k.announced := by rfl)
    (hc : k'.ceiling = k.ceiling := by rfl) (hs : k'.settled = k.settled := by rfl)
    (hst : k'.stage = .clear → k.stage = .clear) : ClaimMoves k k' :=
  ⟨ha, hc, fun ⟨hle, heq⟩ => ⟨by rw [hs, ha]; exact hle, fun h => by rw [hs, ha]; exact heq (hst h)⟩⟩

/-- The drive check leaves level and accumulator alone (R114, R117). -/
theorem driveSample_level (kind : ChanKind) (conducting : Bool) (d : Driver) :
    (driveSample kind conducting d).1.level = d.level ∧
    (driveSample kind conducting d).1.accumulator = d.accumulator := by
  unfold driveSample judgeUncontrolled judgeControlled
  repeat' first | exact ⟨rfl, rfl⟩ | split

section
variable {P : State → Prop} (hP : Kept P)
include hP

theorem Kept.raise (e : EventRecord) {s : State} (h : P s) : P (raise e s) := by
  have hl := raise_events_length e s
  unfold Machine.raise at hl ⊢
  split
  case isTrue hlt => rw [if_pos hlt] at hl; exact hP.rpu _ s h hl
  case isFalse hlt => exact hP.rpu _ s h id

theorem Kept.raiseFor (c : Chan) (k : EventKind) (n : Nat) {s : State} (h : P s) : P (raiseFor c k n s) := hP.raise _ h

theorem Kept.makeRequest {s : State} (h : P s) : P (makeRequest s) := hP.unseen _ _ (unseen_makeRequest s) h

theorem Kept.endIfProgram (c : Chan) (cause : EndCause) {s : State} (h : P s) : P (endIfProgram c cause s) := by
  unfold Machine.endIfProgram
  split
  · exact hP.endProgram _ _ _ _ h rfl (by simp)
  · exact h

theorem Kept.expireStep (c : Chan) (a : EndAction) {s : State} (h : P s) (hp : (s.chan c).chc.state.hasProgram = true)
    (hi : (s.chan c).chc.state ≠ .igniting) : P (expireStep c a s) := by
  have raised := hP.raiseFor c .stepEnd a.code h
  unfold Machine.expireStep
  cases a with
  | hold => exact hP.timers c _ _ raised rfl rfl
  | finish => exact hP.endProgram _ _ _ _ raised rfl (by simp)
  | next =>
    dsimp only
    split
    · exact hP.startSlot _ _ _ raised (by simpa using hi) fun _ _ => by simpa using hp
    · exact hP.endProgram _ _ _ _ raised rfl (by simp)

theorem Kept.endDelay (c : Chan) {s : State} (h : P s) (hp : (s.chan c).chc.state.hasProgram = true)
    (hi : (s.chan c).chc.state ≠ .igniting) : P (endDelay c s) := by
  have raised := hP.raiseFor c .delayEnd 0 h
  unfold Machine.endDelay
  dsimp only
  split
  · exact hP.startSlot _ _ _ raised (by simpa using hi) fun _ _ => by simpa using hp
  · exact raised

theorem Kept.programShare (c : Chan) {s : State} (h : P s) : P (programShare c s) := by
  have counted (p : Pgu) (hs : p.slots = (s.chan c).pgu.slots ∧ p.current = (s.chan c).pgu.current) :
      P (s.setChan c { s.chan c with pgu := p }) := hP.timers c p s h hs.1 hs.2
  unfold Machine.programShare
  dsimp only
  split_ifs with hr he hd he
  · have hst : (s.chan c).chc.state = .running := by
      simp only [stepTimerRuns, Bool.and_eq_true, beq_iff_eq] at hr
      exact hr.1.1
    refine hP.recompute _ (hP.expireStep _ _ (counted _ (countStep_slots _ _)) ?_ ?_) <;>
      simp [hst, ChanState.hasProgram]
  · exact counted _ (countStep_slots _ _)
  · refine hP.recompute _ (hP.endDelay _ (counted _ (countDelay_slots _ _)) ?_ ?_) <;> simp [hd, ChanState.hasProgram]
  · exact counted _ (countDelay_slots _ _)
  · exact h

theorem Kept.ignitionShare (c : Chan) {s : State} (h : P s) (ht : s.mtb.mode = .tracking) : P (ignitionShare c s) := by
  have acted := hP.burnerShare c s h ht
  obtain hs | hs := ignitionShare_cases c s <;> rw [hs]
  · exact acted
  · exact hP.recompute _ acted

theorem Kept.clearHold (c : Chan) {s : State} (h : P s) : P (clearHold c s) := by
  refine hP.recompute _ (hP.claim c _ s h ⟨rfl, rfl, fun _ => ?_⟩)
  simp

theorem Kept.holdShare (c : Chan) {s : State} (h : P s) : P (holdShare c s) := by
  unfold Machine.holdShare
  split_ifs
  · exact hP.claim c _ s h ⟨rfl, rfl, id⟩
  · exact hP.clearHold c h
  · exact h

theorem Kept.regate {s : State} (h : P s) : P (regate s) := by
  have regated : P (regated s) :=
    forChans_keeps P (fun c u => u.mapChan c fun ch => { ch with gated := gatedBy s.gib.gates ch.cfg })
      (fun c u hu => hP.gated c _ u hu) s h
  unfold Machine.regate
  split
  · exact hP.recompute _ regated
  · exact regated

/-! ### Drivers -/

theorem Kept.disableChannel (c : Chan) {s : State} (h : P s) : P (disableChannel c s) := by
  unfold Machine.disableChannel
  split_ifs with hd hp
  · exact h
  · exact hP.endProgram _ _ _ _ h rfl (by simp)
  · exact hP.disabled _ _ _ h (by simpa using hp)

end

/-- The cycle command keeps the level and an accumulator within 99 (R102, R103). -/
theorem cycleCommand_accumulator_le {rising : Bool} {d : Driver} (ha : d.accumulator ≤ 99) (hl : d.level ≤ 100) :
    (cycleCommand rising d).accumulator ≤ 99 := by
  cases rising
  · unfold cycleCommand
    simp only [Bool.false_eq_true, if_false]
    split <;> exact ha
  · exact cycleStart_accumulator_le ha hl

theorem driveLimit_le (ch : Channel) : driveLimit ch ≤ ch.claim.ceiling := by
  unfold driveLimit
  split
  · exact le_rfl
  · exact Nat.zero_le _

/-- The command of a SLOW channel drives within the ceiling (R107, R109). -/
theorem slowCommand_level (P M : Nat) (ch : Channel) :
    ((slowCommand P M ch).level = ch.driver.level ∨ (slowCommand P M ch).level = driveLimit ch ∨
      (slowCommand P M ch).level = 0) ∧ (slowCommand P M ch).accumulator = ch.driver.accumulator := by
  unfold slowCommand slowAdvance Driver.commandRelay
  dsimp only
  split_ifs <;> simp

/-- The command of a half-cycle keeps a driver that works within its ceiling (R100 to R103, R107). -/
theorem driveSound_driveCommand (f : Option Frequency) (rising : Bool) {ch : Channel} (hw : driverWorks ch = true)
    (h : DriveSound ch) : DriveSound { ch with driver := driveCommand f rising ch } := by
  obtain ⟨hlevel, hceiling, hacc, -⟩ := h
  simp only [driverWorks, Bool.and_eq_true, bne_iff_ne] at hw
  obtain ⟨hel, hlock⟩ := hw
  have rest (n : Nat) : ch.cfg.kind.isElement = false ∨ ch.chc.state = .lockout → n = 0 := by simp [hel, hlock]
  unfold driveCommand
  split
  · exact ⟨by simpa using hlevel, hceiling, cycleCommand_accumulator_le hacc (hlevel.trans hceiling), rest _⟩
  · obtain ⟨hl, ha⟩ := slowCommand_level (slowPeriod f ch.cfg) (slowMinSwitch f ch.cfg) ch
    have hd := driveLimit_le ch
    exact ⟨by dsimp only; omega, hceiling, by dsimp only; omega, rest _⟩
  all_goals exact ⟨hlevel, hceiling, hacc, rest _⟩

/-- A driver goes on working for an element whose channel acts (R99). -/
theorem Acts.works {s t : State} (h : Acts s t) (c : Chan) (hw : driverWorks (s.chan c) = true) :
    driverWorks (t.chan c) = true := by
  simp only [driverWorks, Bool.and_eq_true, bne_iff_ne] at hw ⊢
  obtain ⟨hel, hlock⟩ := hw
  rw [(h.channel c).cfg]
  exact ⟨hel, fun hl => hlock ((h.channel c).lockout hel hl)⟩

theorem acts_disableChannel (c : Chan) (s : State) : Acts s (disableChannel c s) := by
  unfold disableChannel
  split_ifs
  · exact .refl s
  · exact acts_endProgram _ rfl (by simp)
  · exact acts_mapChan (chanActs_chc _ (by simp) (by simp [ChanState.hasProgram]))

theorem acts_safeChannel (c : Chan) (s : State) : Acts s (safeChannel c s) := by
  unfold safeChannel
  split
  · exact acts_endIfProgram c _ s
  · exact .refl s

/-- The entry to SAFE: the station changes, and then channels act (R14). -/
theorem enterSafe_cases (s : State) :
    (s.ssv.station = .safe ∧ enterSafe s = s) ∨
    (s.ssv.station ≠ .safe ∧
      Acts { s with ssv := { s.ssv with station := .safe, prior := none, relay := false } } (enterSafe s)) := by
  unfold enterSafe
  split
  case isTrue h => exact .inl ⟨h, rfl⟩
  case isFalse h => exact .inr ⟨h, acts_forChans acts_safeChannel _⟩

theorem driverWorks_of_eq {s t : State} {c : Chan} (hcfg : (t.chan c).cfg = (s.chan c).cfg)
    (hchc : (t.chan c).chc = (s.chan c).chc) : driverWorks (t.chan c) = driverWorks (s.chan c) := by
  rw [driverWorks, driverWorks, hcfg, hchc]

/-- What a sample reports leaves the driver working (R99, R115, R116). -/
theorem applyVerdict_works (c d : Chan) (v : DriveVerdict) {s : State} (hw : driverWorks (s.chan d) = true) :
    driverWorks ((applyVerdict c v s).chan d) = true := by
  have recomputed (u : State) (hu : driverWorks (u.chan d) = true) : driverWorks ((recompute u).chan d) = true := by
    rw [driverWorks_of_eq (recompute_chan_cfg u d) (recompute_chan_chc u d), hu]
  have reported (n : Nat) : Acts s (disableChannel c (raiseFor c .driveFault n s)) :=
    (acts_raiseFor c _ n s).trans (acts_disableChannel c _)
  cases v with
  | nothing => exact hw
  | stuckOff => exact recomputed _ ((reported 0).works d hw)
  | stuckOn =>
    refine recomputed _ ?_
    rw [makeRequest_chan]
    have marked := ((reported 1).trans (acts_mapChan (c := c)
      (f := fun ch => { ch with driver := { ch.driver with uncontrolled := true, clearCount := 0 } })
      (chanActs_driver _ (driveSound_of_level rfl (.inl rfl))))).works d hw
    obtain ⟨-, hs⟩ | ⟨-, hs⟩ := enterSafe_cases ((disableChannel c (raiseFor c .driveFault 1 s)).mapChan c fun ch =>
      { ch with driver := { ch.driver with uncontrolled := true, clearCount := 0 } })
    · rw [hs]; exact marked
    · exact hs.works d marked
  | cleared => exact recomputed s hw

section
variable {P : State → Prop} (hP : KeptByBlocks P)
include hP

theorem KeptByBlocks.applyVerdict (c : Chan) (v : DriveVerdict) {s : State} (h : P s) : P (applyVerdict c v s) := by
  have hK := hP.toKept
  cases v with
  | nothing => exact h
  | stuckOff => exact hP.recompute _ (hK.disableChannel c (hK.raiseFor c .driveFault 0 h))
  | stuckOn =>
    refine hP.enterSafe _ (hP.driver c _ _ (hK.disableChannel c (hK.raiseFor c .driveFault 1 h)) ?_)
    exact driveSound_of_level rfl (.inl rfl)
  | cleared => exact hP.recompute _ h

theorem KeptByBlocks.driverShare (rising : Bool) (c : Chan) {s : State} (h : P s) : P (driverShare rising c s) := by
  unfold Machine.driverShare
  dsimp only
  split
  case isFalse => exact h
  case isTrue hw =>
    obtain ⟨hl, ha⟩ := driveSample_level (s.chan c).cfg.kind (s.pins.inputs.sense.get c) (s.chan c).driver
    have sampled := hP.driver c (driverSample s c).1 s h (driveSound_of_level hl (.inl ha))
    refine hP.driver c _ _ (hP.applyVerdict c _ sampled) (driveSound_driveCommand _ _ (applyVerdict_works c c _ ?_))
    rw [driverWorks_of_eq (s := s)] <;> simp [hw]

end

end Sys2Proof.Machine
end

section
/-! SUPPORT. A condition that the operations keep is kept by every share of a half-cycle, and by the half-cycle as a whole. -/

namespace Sys2Proof.Machine

/-- A sample leaves a gate's run within 7 (R152). -/
theorem gateStep_run (sample : Bool) (g : Gate) : (gateStep sample g).run ≤ 7 := by
  unfold gateStep Config.filterLength
  split_ifs <;> simp
  omega

/-- A sample of MR moves its filter alone, and keeps the release count within 7 (R153). -/
theorem manualStep_moves (f : Option Frequency) (pressed : Bool) (g : Gib) : GibMoves g (manualStep f pressed g).1 := by
  constructor
  · intro k hk
    unfold manualStep
    repeat' first | exact hk | split
  · intro hm
    unfold manualStep Config.filterLength
    repeat' first | exact hm | exact Nat.zero_le _ | (dsimp only; omega) | split

/-- An interval event removes the rows that reach age 4 and keeps the table's size (R83). -/
theorem peersMove_aged (ps : List (Option PeerRow)) : PeersMove ps (ps.map agedRow) where
  length h := by simpa using h
  age _ row hrow := by
    obtain ⟨r, -, rfl⟩ := List.mem_map.1 hrow
    unfold agedRow
    split
    · simp
    · split <;> simp
      omega

section
variable {P : State → Prop} (hP : KeptByBlocks P)
include hP

theorem KeptByBlocks.doorEvents (samples : Quad Bool) (before : Quad Gate) (g : Fin 4) {s : State} (h : P s) :
    P (doorEvents samples before g s) := by
  unfold Machine.doorEvents
  split
  · refine forChans_keeps P _ (fun c u hu => ?_) s h
    unfold doorEvent
    split
    · exact hP.toKept.raiseFor c _ _ hu
    · exact hu
  · exact h

theorem KeptByBlocks.gatesShare {s : State} (h : P s) : P (gatesShare s) := by
  have doors := forChans_keeps P _ (fun g u hu => hP.doorEvents s.pins.inputs.gates s.gib.gates g hu) s h
  refine hP.toKept.regate (hP.gib _ _ doors ⟨fun k _ => ?_, ?_⟩)
  · simpa using gateStep_run _ _
  · exact id

theorem KeptByBlocks.takeManualReset {s : State} (h : P s) : P (takeManualReset s) := by
  unfold Machine.takeManualReset
  split
  · exact hP.recompute _ (forChans_keeps P _ (fun c u hu => hP.clearLockout c u hu) s h)
  · exact h

theorem KeptByBlocks.manualShare {s : State} (h : P s) : P (manualShare s) := by
  have sampled := hP.gib _ s h (manualStep_moves s.mtb.frequency (!s.pins.inputs.mr) s.gib)
  unfold Machine.manualShare
  dsimp only
  split
  · exact hP.takeManualReset sampled
  · exact sampled

theorem KeptByBlocks.purgeShare (c : Chan) {s : State} (h : P s) : P (purgeShare c s) := by
  unfold Machine.purgeShare
  split
  · exact h
  · exact hP.purgeSecond c s h

/-- Every share but those that count the half-cycles themselves. -/
theorem KeptByBlocks.unitShare (rising : Bool) (u : HalfCycleUnit) (hp : u ≠ .prescaler) (hi : u ≠ .interval) {s : State}
    (h : P s) (ht : s.mtb.mode = .tracking) : P (unitShare rising u s) := by
  cases u with
  | program c => exact hP.toKept.programShare c h
  | driver c => exact hP.driverShare rising c h
  | ignition c => exact hP.toKept.ignitionShare c h ht
  | hold c => exact hP.toKept.holdShare c h
  | prescaler => exact absurd rfl hp
  | interval => exact absurd rfl hi
  | gates => exact hP.gatesShare h
  | manualReset => exact hP.manualShare h
  | purge c => exact onlyIf_keeps P _ _ _ h (hP.purgeSecond c s h)

end

section
variable {P : State → Prop} (hP : KeptByUnits P)
include hP

theorem KeptByUnits.prescalerShare {s : State} (h : P s) (ht : s.mtb.mode = .tracking) : P (prescalerShare s) := by
  unfold Machine.prescalerShare
  split
  case isTrue hlt => exact hP.prescaler _ s h ht fun _ => hlt
  case isFalse =>
    refine forChans_keeps P _ (fun c u hu => hP.purgeShare c hu) _ (hP.prescaler 0 s h ht fun hf => ?_)
    obtain ⟨f, hf⟩ := Option.isSome_iff_exists.1 hf
    cases f <;> simp [hf, perSecond, hertz]

theorem KeptByUnits.agePeers {s : State} (h : P s) : P (agePeers s) := by
  have aged := hP.peers _ s h (peersMove_aged s.apu.peers)
  unfold Machine.agePeers
  dsimp only
  split
  · exact hP.recompute _ aged
  · exact aged

end

/-- The time base is no part of what an interval event moves (R79). -/
theorem takeInterval_mtb (s : State) :
    (agePeers s).mtb = s.mtb ∧ (ageOwnSend s).mtb = s.mtb := by
  constructor
  · unfold agePeers; dsimp only; split <;> simp
  · unfold ageOwnSend; dsimp only; split <;> simp

section
variable {P : State → Prop} (hP : KeptByUnits P)
include hP

theorem KeptByUnits.intervalShare {s : State} (h : P s) (ht : s.mtb.mode = .tracking) : P (intervalShare s) := by
  unfold Machine.intervalShare takeInterval countClashQuiet
  split
  case isTrue hlt => exact hP.interval _ s h hlt
  case isFalse =>
    have restarted := hP.interval 0 s h (by decide)
    refine hP.clashQuiet _ _ (hP.countListen _ (hP.toKept.makeRequest (hP.ageOwnSend _ (hP.agePeers restarted))) ?_)
      (Nat.min_le_left _ _)
    rw [makeRequest_mtb, (takeInterval_mtb _).2, (takeInterval_mtb _).1]
    exact ht

/-- Every share keeps what the operations keep. -/
theorem KeptByUnits.unitShare (rising : Bool) (u : HalfCycleUnit) {s : State} (h : P s)
    (ht : s.mtb.mode = .tracking) : P (unitShare rising u s) := by
  by_cases hp : u = .prescaler
  · subst hp
    exact hP.prescalerShare h ht
  by_cases hi : u = .interval
  · subst hi
    exact hP.intervalShare h ht
  exact hP.toKeptByBlocks.unitShare rising u hp hi h ht

end

/-! ### The time base within a half-cycle -/

theorem acts_clearLockout_station (c : Chan) (s : State) :
    clearLockout c s = { s with chans := (clearLockout c s).chans, rpu := (clearLockout c s).rpu } := by
  unfold clearLockout
  split
  · unfold raise; split <;> rfl
  · rfl

theorem Acts.held {s t : State} (h : Acts s t) : t.held = s.held := by rw [h.station]

/-- No share of a half-cycle moves mode or frequency (R2, R5, R6: a crossing or a timer does). -/
theorem keptByUnits_mode (m : MtbMode) (f : Option Frequency) :
    KeptByUnits fun s => s.mtb.mode = m ∧ s.mtb.frequency = f where
  toKeptByChannels := keptByChannels_of_acts fun s t h hs => by rw [h.mtb]; exact hs
  recompute s h := by simpa using h
  unseen s t h hs := by rw [h.mtb]; exact hs
  rpu _ _ h _ := h
  restore _ _ _ h := h
  claim _ _ _ h _ := h
  gated _ _ _ h := h
  gib _ _ h _ := h
  clearLockout c s h := by rw [acts_clearLockout_station]; exact h
  interval _ _ h _ := h
  peers _ _ h _ := h
  ageOwnSend s h := by rw [(takeInterval_mtb s).2]; exact h
  countListen s h _ := by
    unfold Machine.countListen becomeActive
    split_ifs <;> simpa using h
  clashQuiet _ _ h _ := h
  enterSafe s h := by
    rw [recompute_mtb, makeRequest_mtb]
    obtain ⟨-, hs⟩ | ⟨-, hs⟩ := enterSafe_cases s
    · rw [hs]; exact h
    · rw [hs.mtb]; exact h
  prescaler _ _ h _ _ := h

@[simp] theorem unitShare_mode (rising : Bool) (u : HalfCycleUnit) {s : State} (ht : s.mtb.mode = .tracking) :
    (unitShare rising u s).mtb.mode = .tracking :=
  ((keptByUnits_mode .tracking s.mtb.frequency).unitShare rising u ⟨ht, rfl⟩ ht).1

section
variable {P : State → Prop} (hP : KeptByShares P)
include hP

theorem KeptByShares.deliverOne (rising : Bool) (u : HalfCycleUnit) {s : State} (h : P s ∧ s.mtb.mode = .tracking) :
    P (deliverOne rising u s) ∧ (deliverOne rising u s).mtb.mode = .tracking := by
  obtain ⟨h, ht⟩ := h
  unfold Machine.deliverOne
  split
  · exact ⟨h, ht⟩
  · exact ⟨hP.taken _ _ (hP.unitShare rising u h ht), unitShare_mode rising u ht⟩

theorem KeptByShares.foldl_deliverOne (rising : Bool) (us : List HalfCycleUnit) {s : State}
    (h : P s ∧ s.mtb.mode = .tracking) :
    P (us.foldl (fun s v => Machine.deliverOne rising v s) s) ∧
    (us.foldl (fun s v => Machine.deliverOne rising v s) s).mtb.mode = .tracking := by
  induction us generalizing s with
  | nil => exact h
  | cons u us ih => exact ih (hP.deliverOne rising u h)

theorem KeptByShares.lead (rising : Bool) (u : HalfCycleUnit) {s : State} (h : P s ∧ s.mtb.mode = .tracking) :
    P (lead rising u s) ∧ (lead rising u s).mtb.mode = .tracking := hP.foldl_deliverOne rising _ h

theorem KeptByShares.trail (rising : Bool) (u : HalfCycleUnit) {s : State} (h : P s ∧ s.mtb.mode = .tracking) :
    P (trail rising u s) ∧ (trail rising u s).mtb.mode = .tracking := hP.foldl_deliverOne rising _ h

theorem KeptByShares.deliverEvent (rising : Bool) (u : HalfCycleUnit) {s : State} (h : P s ∧ s.mtb.mode = .tracking) :
    P (deliverEvent rising u s) ∧ (deliverEvent rising u s).mtb.mode = .tracking :=
  hP.trail rising u (hP.deliverOne rising u h)

theorem KeptByShares.deliver (rising : Bool) (u : HalfCycleUnit) {s : State} (h : P s ∧ s.mtb.mode = .tracking) :
    P (deliver rising u s) ∧ (deliver rising u s).mtb.mode = .tracking := by
  unfold Machine.deliver
  split
  · exact h
  · exact hP.deliverEvent rising u (hP.lead rising u h)

theorem KeptByShares.deliverAll (rising : Bool) (us : List HalfCycleUnit) {s : State}
    (h : P s ∧ s.mtb.mode = .tracking) :
    P (deliverAll rising us s) ∧ (deliverAll rising us s).mtb.mode = .tracking := by
  unfold Machine.deliverAll
  induction us generalizing s with
  | nil => exact h
  | cons u us ih => exact ih (hP.deliver rising u h)

end

theorem mayTake_iff {u : HalfCycleUnit} {s : State} :
    mayTake u s = true ↔ s.mtb.mode = .tracking ∧ u ∉ s.taken := by
  simp [mayTake, tracking]

/-- The shares that lead another in the ignition unit leave the time base alone, whatever the mode. -/
theorem lead_mtb (rising : Bool) (u : HalfCycleUnit) (s : State) : (lead rising u s).mtb = s.mtb := by
  have share (v : HalfCycleUnit) (hv : v ∈ earlierShares u) (t : State) : (deliverOne rising v t).mtb = t.mtb := by
    have shared : (unitShare rising v t).mtb = t.mtb := by
      cases u <;> simp only [earlierShares, List.mem_map, List.not_mem_nil] at hv <;> obtain ⟨d, -, rfl⟩ := hv
      · obtain h | h := ignitionShare_cases d t <;> simp only [unitShare, h, recompute_mtb, burnerShare_mtb]
      · exact onlyIf_keeps (fun x => x.mtb = t.mtb) _ _ _ rfl (acts_purgeSecond d t).mtb
    unfold deliverOne
    split
    · rfl
    · exact shared
  unfold lead
  generalize earlierShares u = us at share
  induction us generalizing s with
  | nil => rfl
  | cons v vs ih =>
    rw [List.foldl_cons, ih (s := deliverOne rising v s) fun w hw => share w (by simp [hw]), share v (by simp)]

section
variable {P : State → Prop} (hP : KeptByShares P)
include hP

/-- A row that takes a share ahead of its crossing keeps what the shares keep. -/
theorem KeptByShares.takeShare (u : HalfCycleUnit) (due : State → Bool) {s : State} (h : P s) :
    P (takeShare u due s) := by
  obtain ⟨hm, -, ht⟩ | ⟨-, ht⟩ := takeShare_cases u due s _ rfl <;> rw [ht]
  · have tracks : s.mtb.mode = .tracking := by
      rw [← lead_mtb (comingRising s) u s]
      exact (mayTake_iff.1 hm).1
    exact (hP.deliverEvent _ u (hP.lead _ u ⟨h, tracks⟩)).1
  · exact h

theorem KeptByShares.noteSpark (u : HalfCycleUnit) {s : State} (h : P s) : P (noteSpark u s) := by
  cases u <;> first | exact h | exact hP.unseen s _ {} h

theorem KeptByShares.takeShareWith (pins : InputPins) (u : HalfCycleUnit) (due : State → Bool) {s : State} (h : P s) :
    P (takeShareWith pins u due s) := by
  have read : P (withInputs pins s) := hP.unseen s _ {} h
  obtain ⟨hm, -, ht⟩ | ⟨-, ht⟩ := takeShareWith_cases pins u due s _ rfl <;> rw [ht]
  · have tracks : (withInputs pins s).mtb.mode = .tracking := by
      rw [← lead_mtb (comingRising s) u (withInputs pins s)]
      exact (mayTake_iff.1 hm).1
    exact hP.noteSpark u (hP.deliverEvent _ u (hP.lead _ u ⟨read, tracks⟩)).1
  · exact h

/-- A half-cycle in TRACKING (R3), but for the timer that it restarts. -/
theorem KeptByShares.halfCycle (order : List HalfCycleUnit) {s : State}
    (hm : P { s with mtb := { s.mtb with missingTimer := some 0 } }) (ht : s.mtb.mode = .tracking) :
    P (halfCycle order s) ∧ (halfCycle order s).mtb.mode = .tracking := by
  obtain ⟨hd, hmode⟩ := hP.deliverAll (s.mtb.sign = some .positive) (order ++ allUnits) ⟨hm, ht⟩
  exact ⟨hP.unseen _ _ {} (hP.taken [] _ hd), hmode⟩

end

end Sys2Proof.Machine
end

section
/-! SUPPORT. A condition that the operations keep is kept by every sample of the mains, by every command of the zone line,
and so by every command but the resets. -/

namespace Sys2Proof.Machine

/-! ### The mains -/

/-- The time base after a tick (R1, R5, R7). -/
theorem clockMoves_tick (m : Mtb) : ClockMoves m m.tick where
  missing := Option.isSome_map
  ride := Option.isSome_map
  run := id
  returnRun _ := id

/-- The time base after the filter has taken a sample (R1). -/
theorem clockMoves_filterStep (level : Bool) (m : Mtb) : ClockMoves m (filterStep level m).1 := by
  have moved (m' : Mtb) (h : m' = { m with sign := m'.sign, candidate := m'.candidate, run := m'.run })
      (hr : m'.run ≤ 3) : ClockMoves m m' := by
    rw [h]
    exact { run := fun _ => hr, returnRun := fun _ h => h }
  unfold filterStep
  split
  · split_ifs
    · exact moved _ rfl (by dsimp only; omega)
    · exact moved _ rfl (by simp)
    · exact moved _ rfl (by simp)
  · split_ifs
    · exact moved _ rfl (by simp)
    · exact moved _ rfl (by dsimp only; omega)
    · exact moved _ rfl (by simp)

theorem ClockMoves.trans {a b c : Mtb} (h : ClockMoves a b) (k : ClockMoves b c) : ClockMoves a c where
  mode := k.mode.trans h.mode
  frequency := k.frequency.trans h.frequency
  prescaler := k.prescaler.trans h.prescaler
  missing := k.missing.trans h.missing
  ride := k.ride.trans h.ride
  run hr := k.run (h.run hr)
  returnRun hm hr := k.returnRun (h.mode.trans hm) (h.returnRun hm hr)

section
variable {P : State → Prop} (hP : KeptByClock P)
include hP

theorem KeptByClock.measureCrossing {s : State} (h : P s) (hm : s.mtb.mode = .measuring) :
    P (measureCrossing s) := by
  have window (m : Mtb) (hc : ClockMoves s.mtb m) : P { s with mtb := m } := hP.clock m s h hc
  unfold Machine.measureCrossing
  dsimp only
  split_ifs
  · exact window _ { run := id, returnRun := fun _ => id }
  · exact window _ { run := id, returnRun := fun _ => id }
  · split
    · exact hP.frequencySet _ _ (window _ { run := id, returnRun := fun _ => id }) hm
    · exact window _ { run := id, returnRun := fun _ => id }

theorem KeptByClock.returnCrossing {s : State} (h : P s) (hm : s.mtb.mode = .missing) : P (returnCrossing s) := by
  unfold Machine.returnCrossing
  split_ifs
  · exact hP.clock _ s h { run := id, returnRun := fun _ _ => by simp }
  · exact hP.clock _ s h { run := id, returnRun := fun _ _ => by dsimp only; omega }
  · exact hP.mainsRestored s h hm

theorem KeptByClock.takeCrossing (order : List HalfCycleUnit) {s : State} (h : P s) : P (takeCrossing order s) := by
  unfold Machine.takeCrossing
  refine hP.clock _ _ ?_ { run := id, returnRun := fun _ => id }
  split
  case h_1 hm => exact hP.measureCrossing h hm
  case h_2 hm => exact (hP.toKeptByShares.halfCycle order (hP.restart s h hm) hm).1
  case h_3 hm => exact hP.returnCrossing h hm

theorem KeptByClock.expireTimers (turns : List Chan) {s : State} (h : P s) : P (expireTimers turns s) := by
  unfold Machine.expireTimers
  split_ifs with ha hf
  · refine hP.mainsAbsent s h ?_
    simp only [missingExpired, Bool.and_eq_true, beq_iff_eq] at ha
    exact ha.1
  · refine hP.mainsFailed turns s h ?_
    simp only [rideExpired, Bool.and_eq_true, beq_iff_eq] at hf
    exact hf.1
  · exact h

theorem KeptByClock.takeSample (level : Bool) (order : List HalfCycleUnit) (turns : List Chan) {s : State} (h : P s) :
    P (takeSample level order turns s) := by
  have clocked : ClockMoves s.mtb (clocked s) := by
    unfold Machine.clocked
    split
    · exact { run := id, returnRun := fun _ => id }
    · exact clockMoves_tick s.mtb
  have sampled : P { s with
      mtb := (filterStep level (Machine.clocked s)).1, pins := { s.pins with zx := level }, clockTaken := false } :=
    hP.unseen _ _ {} (hP.clock _ s h (clocked.trans (clockMoves_filterStep level _)))
  unfold Machine.takeSample
  refine hP.expireTimers turns ?_
  split
  · exact hP.takeCrossing order sampled
  · exact sampled

theorem KeptByClock.ticked {s : State} (h : P s) : P { s with mtb := s.mtb.tick } :=
  hP.clock _ s h (clockMoves_tick s.mtb)

end

/-! ### Commands -/

section
variable {P : State → Prop} (hP : KeptByCommands P)
include hP

omit hP in
/-- What a channel's act keeps past steps 1 and 2 of the judging order, the command keeps (R46, R47). -/
theorem actOnMask_keeps (mask : Byte) (act : ChannelAct) (hact : ∀ c s, P s → P (act c s).1) {s : State} (h : P s) :
    P (actOnMask mask act s).1 := by
  have named (c : Chan) (u : State) (hu : P u) : P (actIfNamed mask act c u).1 := by
    unfold actIfNamed
    split
    · exact hact c u hu
    · exact hu
  exact named 3 _ (named 2 _ (named 1 _ (named 0 s h)))

omit hP in
theorem unlessBarred_keeps (act : ChannelAct)
    (hact : ∀ c s, P s → (s.chan c).chc.state ≠ .lockout → P (act c s).1) (c : Chan) (s : State) (h : P s) :
    P (unlessBarred act c s).1 := by
  unfold unlessBarred
  split_ifs with hl
  · exact h
  · exact h
  · exact hact c s h hl

theorem KeptByCommands.startChannel (slot : Byte) (delay : BitVec 24) (c : Chan) (s : State) (h : P s) :
    P (startChannel slot delay c s).1 := by
  obtain ⟨-, hs⟩ | ⟨hdone, hidle, n, -, hs⟩ := startChannel_cases slot delay c s <;> rw [hs]
  · exact h
  have mayRun : MayRun c s := by
    intro hsafe hel
    have hk : (s.chan c).cfg.kind ≠ .burner := by
      intro hk
      simp [hk, ChanKind.isElement] at hel
    unfold startResult at hdone
    split_ifs at hdone with _ _ _ hready
    exact absurd (.inr (.inr ⟨hsafe, .inl hk⟩)) hready
  unfold beginProgram
  dsimp only
  split
  · exact hP.startSlot c n s h (by simp [hidle]) mayRun
  · exact hP.delayed c _ s h rfl hidle mayRun

theorem KeptByCommands.pauseChannel (c : Chan) (s : State) (h : P s) : P (pauseChannel c s).1 := by
  unfold Machine.pauseChannel
  split
  case h_1 hs | h_2 hs => exact hP.enterPaused c _ s h (by simp [hs, ChanState.hasProgram])
  case h_3 => exact hP.controller c _ s h rfl
  all_goals exact h

omit hP in
theorem Kept.removeCause {P : State → Prop} (hP : Kept P) (c : Chan) (causes : PauseCauses) {s : State} (h : P s)
    (hp : (s.chan c).chc.state = .paused) : P (removeCause c causes s) := by
  have removed : P (s.mapChan c fun ch => { ch with chc := { ch.chc with causes := causes } }) :=
    hP.controller c _ s h rfl
  unfold Machine.removeCause
  dsimp only
  split
  · exact removed
  · exact hP.leavePaused c _ removed (by simpa using hp)

theorem KeptByCommands.resumeChannel (c : Chan) (s : State) (h : P s) : P (resumeChannel c s).1 := by
  unfold Machine.resumeChannel
  split
  case h_1 hs => exact hP.toKept.removeCause c _ h hs
  all_goals exact h

theorem KeptByCommands.skipChannel (c : Chan) (s : State) (h : P s) : P (skipChannel c s).1 := by
  unfold Machine.skipChannel
  split
  case h_1 hs =>
    dsimp only
    split <;> exact hP.toKept.expireStep c _ h (by simp [hs, ChanState.hasProgram]) (by simp [hs])
  case h_2 hs => exact hP.toKept.endDelay c h (by simp [hs, ChanState.hasProgram]) (by simp [hs])
  all_goals exact h

theorem KeptByCommands.adjustStepTime (op : AdjustOperation) (v : Nat) (c : Chan) (s : State) (h : P s)
    (hp : (s.chan c).chc.state.hasProgram = true) (hi : (s.chan c).chc.state ≠ .igniting) :
    P (adjustStepTime op v c s).1 := by
  have expired := hP.toKept.expireStep c (s.chan c).pgu.endAction h hp hi
  unfold Machine.adjustStepTime
  dsimp only
  cases op <;> dsimp only <;> split_ifs <;>
    first | exact h | exact expired | exact hP.timers c _ s h rfl rfl

theorem KeptByCommands.adjustDelay (op : AdjustOperation) (v : Nat) (c : Chan) (s : State) (h : P s)
    (hp : (s.chan c).chc.state.hasProgram = true) (hi : (s.chan c).chc.state ≠ .igniting) :
    P (adjustDelay op v c s).1 := by
  have ended := hP.toKept.endDelay c h hp hi
  unfold Machine.adjustDelay
  dsimp only
  cases op <;> dsimp only <;> split_ifs <;>
    first | exact h | exact ended | exact hP.timers c _ s h rfl rfl

theorem KeptByCommands.adjustKnown (t : AdjustTarget) (op : AdjustOperation) (v : Nat) (c : Chan) (s : State) (h : P s)
    (hp : (s.chan c).chc.state.hasProgram = true) (hi : (s.chan c).chc.state ≠ .igniting) :
    P (adjustKnown t op v c s).1 := by
  unfold Machine.adjustKnown
  cases t
  · exact hP.adjustLevel op v c s h hp hi
  · dsimp only
    split
    · exact hP.adjustDelay op v c s h hp hi
    · exact hP.adjustStepTime op v c s h hp hi

omit hP in
/-- The state table of ADJUST lets a channel with a program go on, but for IGNITING (R48). -/
theorem whereAdjustable_keeps (act : ChannelAct)
    (hact : ∀ c s, P s → (s.chan c).chc.state.hasProgram = true → (s.chan c).chc.state ≠ .igniting → P (act c s).1)
    (c : Chan) (s : State) (h : P s) : P (whereAdjustable act c s).1 := by
  unfold whereAdjustable
  split
  case h_1 hs | h_2 hs | h_3 hs => exact hact c s h (by simp [hs, ChanState.hasProgram]) (by simp [hs])
  all_goals exact h

theorem KeptByCommands.loadChannel (slot : Byte) (content : ChanKind → Option (Option StepRecord))
    (hc : ∀ k r, content k = some r → Fits k r) (c : Chan) (s : State) (h : P s) :
    P (loadChannel slot content c s).1 := by
  unfold Machine.loadChannel
  split
  · exact h
  · dsimp only
    split_ifs with hcur
    · exact h
    · split
      · exact h
      case h_2 r hr => exact hP.load c _ r s h hcur (hc _ _ hr)

omit hP in
theorem loadedRecord_fits (level : Byte) (duration : BitVec 24) (endAction : Byte) (k : ChanKind)
    (r : Option StepRecord) (h : loadedRecord level duration endAction k = some r) : Fits k r := by
  unfold loadedRecord at h
  split_ifs at h
  · cases h
    simp [Fits]
  · obtain ⟨a, -, rfl⟩ := Option.map_eq_some_iff.1 h
    simp [Fits]

/-- Records that several channels raise together reach the event queue one by one (R194, R195). -/
theorem KeptByCommands.raiseInTurn (order : List Chan) {s t : State} (hs : P s) (ht : P t) :
    P (raiseInTurn order s t) := by
  have raised (es : List EventRecord) (u : State) (hu : P u) : P (es.foldl (fun u e => Machine.raise e u) u) := by
    induction es generalizing u with
    | nil => exact hu
    | cons e es ih => exact ih _ (hP.toKept.raise e hu)
  exact raised _ _ (hP.restore s t hs ht)

theorem KeptByCommands.raisedInTurn (order : List Chan) (run : State → State × Quad Result)
    (hrun : ∀ s, P s → P (run s).1) {s : State} (h : P s) : P (raisedInTurn order run s).1 :=
  hP.raiseInTurn order h (hrun _ (hP.rpu _ s h fun _ => by simp))


/-! ### What the channels raise, the reports, the configuration -/

theorem KeptByCommands.settled {r : State × Quad Result} (h : P r.1) : P (settled r).1 := hP.recompute _ h

theorem KeptByCommands.runStart (mask slot : Byte) (delay : BitVec 24) {s : State} (h : P s) :
    P (runStart mask slot delay s).1 := by
  refine hP.settled ?_
  have acted := actOnMask_keeps mask _ (unlessBarred_keeps _ fun c s hs _ => hP.startChannel slot delay c s hs) h
  unfold noteStart
  split
  · exact acted
  · exact hP.unseen _ _ {} (hP.close _ acted)

theorem KeptByCommands.runStopMask (order : List Chan) (mask : Byte) {s : State} (h : P s) :
    P (runStopMask order mask s).1 :=
  hP.settled <| hP.raisedInTurn order _
    (fun _ hs => actOnMask_keeps mask _
      (unlessBarred_keeps stopChannel fun c _ hu _ => hP.toKept.endIfProgram c .stopped hu) hs) h

theorem KeptByCommands.runStopLast {s : State} (h : P s) : P (runStopLast s).1 := by
  unfold Machine.runStopLast
  split
  · exact h
  · exact hP.runStopMask _ _ h

theorem KeptByCommands.runStop (order : List Chan) (selector : Byte) {s : State} (h : P s) :
    P (runStop order selector s).1 := by
  unfold Machine.runStop
  split_ifs
  · exact hP.runStopMask _ _ h
  · exact hP.runStopLast h
  · exact h

theorem KeptByCommands.runAdjustCodes (order : List Chan) (mask target operation : Byte) (value : BitVec 24) {s : State}
    (h : P s) : P (runAdjustCodes order mask target operation value s).1 := by
  refine hP.settled <| hP.raisedInTurn order _
    (fun _ hs => actOnMask_keeps mask _ (unlessBarred_keeps _ fun c u hu _ =>
      whereAdjustable_keeps _ (fun c u hu hp hi => ?_) c u hu) hs) h
  split
  · exact hP.adjustKnown _ _ _ c u hu hp hi
  · exact hu

theorem KeptByCommands.runAdjust (t : AdjustTarget) (op : AdjustOperation) (order : List Chan) (mask : Byte)
    (value : BitVec 24) {s : State} (h : P s) : P (runAdjust t op order mask value s).1 :=
  hP.settled <| hP.raisedInTurn order _
    (fun _ hs => actOnMask_keeps mask _ (unlessBarred_keeps _ fun c u hu _ =>
      whereAdjustable_keeps _ (fun c u hu hp hi => hP.adjustKnown t op _ c u hu hp hi) c u hu) hs) h

theorem KeptByCommands.runLoadStep (mask slot level : Byte) (duration : BitVec 24) (endAction : Byte) {s : State}
    (h : P s) : P (runLoadStep mask slot level duration endAction s).1 :=
  actOnMask_keeps mask _ (hP.loadChannel slot _ fun k r hr => loadedRecord_fits level duration endAction k r hr) h

theorem KeptByCommands.runLoadClear (mask slot : Byte) {s : State} (h : P s) : P (runLoadClear mask slot s).1 :=
  actOnMask_keeps mask _ (hP.loadChannel slot _ fun k r hr => by cases hr; simp [Fits]) h

theorem KeptByCommands.runQuery (mask : Byte) {s : State} (h : P s) : P (runQuery mask s).1 := by
  rw [runQuery_eq]
  exact hP.stateSet _ s h queriedSet_nodup

theorem KeptByCommands.runClearFlags {s : State} (h : P s) : P (runClearFlags s).1 := by
  have lost : P { s with rpu := { s.rpu with lost := false } } := hP.rpu _ s h id
  have cleared := hP.flags false (clashAfterClear s) _ lost fun hc => by
    simp only [clashAfterClear, Bool.and_eq_true] at hc
    exact hc.1
  unfold Machine.runClearFlags
  dsimp only
  split
  · exact cleared
  · exact hP.recompute _ cleared

theorem KeptByCommands.runConfigureStation (a b : BitVec 16) (gates : Byte) {s : State} (h : P s) :
    P (runConfigureStation a b gates s).1 := by
  unfold Machine.runConfigureStation whereConfigurable
  split_ifs
  · exact h
  · exact h
  · split
    · exact h
    · refine hP.recompute _ (hP.toKept.regate (hP.unseen _ _ {} (hP.gib (s.gib.withKinds _) s h ⟨fun k hk => ?_, id⟩)))
      simpa [Gib.withKinds] using hk

theorem KeptByCommands.runConfigureChannel (b : ChannelBytes) {s : State} (h : P s) :
    P (runConfigureChannel b s).1 := by
  unfold Machine.runConfigureChannel whereConfigurable
  split_ifs with _ hsafe
  · exact h
  · exact h
  · split
    · exact h
    · dsimp only
      split_ifs with hst
      · exact h
      · split
        · exact h
        · refine hP.recompute _ (hP.toKept.regate (hP.configure _ _ b s h hsafe ?_))
          by_contra hn
          exact hst (by simpa [stateConfigurable_eq_false_iff, not_or] using hn)

theorem KeptByCommands.runConfigureBurner (channel : Byte) (b : BurnerBytes) {s : State} (h : P s) :
    P (runConfigureBurner channel b s).1 := by
  unfold Machine.runConfigureBurner
  split
  · exact h
  · exact hP.storeBurner _ b s h

end

/-! ### Frames -/

/-- No command moves the entries of the REPLY queue while it is carried out (R172). -/
theorem keptByCommands_replies (rs : List ReplyEntry) : KeptByCommands fun s => s.lif.replies = rs where
  toKeptByChannels := keptByChannels_of_acts fun s t h hs => by rw [h.station]; exact hs
  recompute s h := by simpa using h
  unseen s t h hs := h.replies.trans hs
  rpu _ _ h _ := h
  restore _ _ _ h := h
  claim _ _ _ h _ := h
  gated _ _ _ h := h
  stateSet _ _ h _ := h
  gib _ _ h _ := h
  peers _ _ h _ := h
  sent _ h := h
  noteClash a s h := by
    obtain hn | hn | hn := noteClash_cases a s <;> rw [hn]
    · exact h
    · exact h
    · simpa using h
  flags _ _ _ h _ := h
  close _ h := h
  configure _ _ _ _ h _ _ := h
  storeBurner _ _ _ h := h

section
variable {P : State → Prop} (hP : KeptByLine P)
include hP


theorem KeptByLine.setLine (l : LineState) {s : State} (h : P s) : P (setLine l s) := hP.unseen _ _ {} h

theorem KeptByLine.takeFrame (source : Address) (f : State → State) (hf : ∀ u, P u → P (f u)) {s : State} (h : P s) :
    P (takeFrame source f s) :=
  onlyIf_keeps P _ _ _ h (hf _ (hP.noteClash source _ (hP.setLine .closed h)))

theorem KeptByLine.takeCommand (hd : CmdHeader) (f : State → State) (hf : ∀ u, P u → P (f u)) {s : State} (h : P s) :
    P (takeCommand hd f s) := onlyIf_keeps P _ _ _ h (hP.takeFrame _ f hf h)

theorem KeptByLine.acceptCommand (hd : CmdHeader) (code : Byte) (run : State → State × Quad Result)
    (hrun : ∀ Q, KeptByCommands Q → ∀ u, Q u → Q (run u).1) {s : State} (h : P s) :
    P (acceptCommand hd code run s) := by
  refine hP.takeCommand hd _ (fun u hu => ?_) h
  unfold carryOut replyRoom
  split
  case isTrue hroom =>
    have kept := hrun _ (keptByCommands_replies u.lif.replies) u rfl
    refine hP.replies _ _ (hrun P hP.toKeptByCommands u hu) fun _ => ?_
    rw [kept]
    simpa [Config.replyCapacity, Nat.lt_succ_iff] using hroom
  case isFalse => exact hu

theorem KeptByLine.haltAll {s : State} (h : P s) : P (haltAll s) :=
  hP.recompute _ (forChans_keeps P _ (fun c _ hu => hP.toKept.endIfProgram c _ hu) s h)

theorem KeptByLine.markCarried {s : State} (h : P s) : P (markCarried s) := by
  have marked : P (mapChans (fun ch =>
      if ch.claim.stage = .pendingSend then { ch with claim := { ch.claim with carried := true } } else ch) s) := by
    rw [mapChans_eq_forChans]
    refine forChans_keeps P _ (fun c u hu => ?_) s h
    by_cases hp : (u.chan c).claim.stage = .pendingSend
    · have marked := hP.claim c { (u.chan c).claim with carried := true } u hu ⟨rfl, rfl, id⟩
      simpa only [State.mapChan, if_pos hp] using marked
    · have same := hP.claim c (u.chan c).claim u hu ⟨rfl, rfl, id⟩
      simpa only [State.mapChan, if_neg hp] using same
  exact hP.unseen _ _ {} marked

theorem KeptByLine.beginAttempt (late : Bool) {s : State} (h : P s) : P (beginAttempt late s) := by
  unfold Machine.beginAttempt
  split
  · exact hP.setLine _ h
  · split
    · exact hP.setLine _ (hP.markCarried h)
    all_goals exact hP.setLine _ h

theorem KeptByLine.demandCompleted {s : State} (h : P s) : P (demandCompleted s) := by
  have counting : P (mapChans (fun ch => { ch with claim := completedHold s.mtb.frequency ch.claim }) s) := by
    rw [mapChans_eq_forChans]
    refine forChans_keeps P _ (fun c u hu => hP.claim c _ u hu ?_) s h
    unfold completedHold
    split
    · exact claimMoves_of_settled (hst := by simp)
    · exact ⟨rfl, rfl, id⟩
  have sent : P (demandSatisfied s) := hP.unseen _ _ {} (hP.sent _ counting)
  rw [demandCompleted_eq]
  split
  · exact hP.recompute _ sent
  · exact sent

omit hP in
/-- The records of a PEER's DEMAND are one row of the table, of age 0 (R82a). -/
theorem peersMove_set (ps : List (Option PeerRow)) (n : Nat) (st : StationState) (q : Quad DemandRecord) :
    PeersMove ps (ps.set n (some ⟨0, st, q⟩)) where
  length h := by simpa using h
  age h row hrow := by
    obtain hrow | rfl := List.mem_or_eq_of_mem_set hrow
    · exact h row hrow
    · simp

theorem KeptByLine.writePeer (p : Address) (code : Nat) (q : Quad DemandRecord) {s : State} (h : P s) :
    P (writePeer p code q s) := by
  unfold Machine.writePeer
  split
  · exact h
  · split
    · exact h
    · exact hP.recompute _ (hP.peers _ s h (peersMove_set _ _ _ _))

end

end Sys2Proof.Machine
end

section
/-! SUPPORT. A condition that the operations keep is kept by every command. -/

namespace Sys2Proof.Machine

/-- The rows that the line brings: what the line interface sees, HALT and the COMMANDs. -/
def isLineRow (i : Instr) : Bool :=
  match i with
  | .lineIdle _ | .arbitrationLost _ | .frameAbandoned _ _ | .replySent | .demandSent | .eventFrameSent | .stateSent
  | .receiveAborted _ | .frameRejected _ | .peerReportReceived _ | .halt _ | .commandUnknown _ _ _
  | .configureStation _ _ _ _ | .configureChannel _ _ | .configureBurner _ _ _ | .loadStep _ _ _ _ _ _
  | .loadStepClear _ _ _ | .start _ _ _ _ | .pause _ _ | .resume _ _ | .stop _ _ _ | .stopLast _ | .skip _ _ _
  | .adjustLevelSet _ _ _ | .adjustLevelAdd _ _ _ | .adjustLevelSubtract _ _ _ | .adjustTimeSet _ _ _ _ _ _
  | .adjustTimeAdd _ _ _ | .adjustTimeSubtract _ _ _ _ | .query _ _ | .clearFlags _ | .resetStation _ _
  | .commandNotMatched _ | .contendingOnIdleLine _ => true
  | _ => false

/-- What a command's effect keeps, the command keeps. -/
theorem live_keeps {P : State → Prop} (hP : Kept P) {f : State → State} {s t : State} (h : live f s = .next t)
    (hs : P s) (hf : P (f s)) : P t := by
  rw [live_next] at h
  subst h
  split
  · exact hs
  · exact hP.unseen _ _ {} hf

section
variable {P : State → Prop} (hP : KeptByLine P)
include hP

theorem KeptByLine.accepted (hd : CmdHeader) (code : Byte) {run : State → State × Quad Result} {s t : State}
    (hs : P s) (ht : live (Machine.acceptCommand hd code run) s = .next t)
    (hrun : ∀ Q, KeptByCommands Q → ∀ u, Q u → Q (run u).1) : P t :=
  live_keeps hP.toKept ht hs (hP.acceptCommand hd code run hrun hs)

/-- What the line brings keeps what the operations keep; RESET_STATION, if the reset does. -/
theorem KeptByLine.exec {i : Instr} (hi : isLineRow i = true) {s t : State} (hs : P s) (ht : Machine.exec i s = .next t)
    (hreset : isReset i = true → ∀ straps u, P u → P (resetAll .lineReset straps u)) : P t := by
  have keeps {f : State → State} (h : live f s = .next t) (hf : P (f s)) : P t := live_keeps hP.toKept h hs hf
  have guarded {p : Bool} {f : State → State} (h : live (onlyIf p f) s = .next t) (hf : P (f s)) : P t :=
    keeps h (onlyIf_keeps P _ _ _ hs hf)
  cases i <;> simp [isLineRow] at hi
  case lineIdle late => exact guarded ht (hP.beginAttempt late hs)
  case contendingOnIdleLine late => exact guarded ht (hP.beginAttempt late hs)
  case arbitrationLost pos => exact guarded ht (hP.setLine _ hs)
  case frameAbandoned byte pos => exact guarded ht (hP.setLine _ hs)
  case replySent =>
    refine guarded ht (hP.unseen _ _ {} (hP.replies s.lif.replies.tail s hs fun h => ?_))
    simp only [List.length_tail]
    omega
  case demandSent => exact guarded ht (hP.demandCompleted (hP.setLine _ hs))
  case eventFrameSent =>
    refine guarded ht (hP.setLine _ (hP.rpu _ s hs fun h => ?_))
    simp only [List.length_drop]
    omega
  case stateSent =>
    exact guarded ht (hP.unseen _ _ {} (hP.stateSet s.lif.stateSet.tail s hs fun h => h.sublist (List.tail_sublist _)))
  case receiveAborted cause => exact guarded ht (hP.setLine _ hs)
  case frameRejected frame => exact guarded ht (hP.setLine _ hs)
  case peerReportReceived frame =>
    refine guarded ht (hP.takeFrame _ _ (fun u hu => ?_) hs)
    split
    · exact hP.writePeer _ _ _ hu
    · exact hu
  case commandNotMatched h => exact guarded ht (hP.takeFrame _ _ (fun _ hu => hu) hs)
  case halt source => exact keeps ht (hP.takeFrame _ _ (fun _ hu => hP.haltAll hu) hs)
  case resetStation h straps =>
    refine keeps ht (hP.takeCommand h _ (fun u hu => ?_) hs)
    unfold resetStation
    split
    · exact hreset rfl straps u hu
    · exact hu
  case commandUnknown h code parameters => exact guarded ht (hP.acceptCommand h code _ (fun _ _ _ hu => hu) hs)
  case configureStation h a b gates => exact hP.accepted h 1 hs ht fun _ hQ _ hu => hQ.runConfigureStation a b gates hu
  case configureChannel h b => exact hP.accepted h 2 hs ht fun _ hQ _ hu => hQ.runConfigureChannel b hu
  case configureBurner h channel b => exact hP.accepted h 3 hs ht fun _ hQ _ hu => hQ.runConfigureBurner channel b hu
  case loadStep h mask slot level duration endAction =>
    exact hP.accepted h 4 hs ht fun _ hQ _ hu => hQ.runLoadStep mask slot level duration endAction hu
  case loadStepClear h mask slot => exact hP.accepted h 4 hs ht fun _ hQ _ hu => hQ.runLoadClear mask slot hu
  case start h mask slot delay => exact hP.accepted h 5 hs ht fun _ hQ _ hu => hQ.runStart mask slot delay hu
  case pause h mask =>
    exact hP.accepted h 6 hs ht fun _ hQ _ hu =>
      hQ.settled (actOnMask_keeps mask _ (unlessBarred_keeps _ fun c u hv _ => hQ.pauseChannel c u hv) hu)
  case resume h mask =>
    exact hP.accepted h 7 hs ht fun _ hQ _ hu =>
      hQ.settled (actOnMask_keeps mask _ (unlessBarred_keeps _ fun c u hv _ => hQ.resumeChannel c u hv) hu)
  case stop h selector order => exact hP.accepted h 8 hs ht fun _ hQ _ hu => hQ.runStop order selector hu
  case stopLast h => exact hP.accepted h 8 hs ht fun _ hQ _ hu => hQ.runStopLast hu
  case skip h mask order =>
    exact hP.accepted h 9 hs ht fun _ hQ _ hu => hQ.settled <| hQ.raisedInTurn order _
      (fun _ hw => actOnMask_keeps mask _ (unlessBarred_keeps _ fun c u hv _ => hQ.skipChannel c u hv) hw) hu
  case adjustLevelSet h mask value =>
    exact hP.accepted h 10 hs ht fun _ hQ _ hu => hQ.runAdjust .level .set [] mask value hu
  case adjustLevelAdd h mask value =>
    exact hP.accepted h 10 hs ht fun _ hQ _ hu => hQ.runAdjust .level .add [] mask value hu
  case adjustLevelSubtract h mask value =>
    exact hP.accepted h 10 hs ht fun _ hQ _ hu => hQ.runAdjust .level .subtract [] mask value hu
  case adjustTimeSet h mask target operation value order =>
    exact hP.accepted h 10 hs ht fun _ hQ _ hu => hQ.runAdjustCodes order mask target operation value hu
  case adjustTimeAdd h mask value =>
    exact hP.accepted h 10 hs ht fun _ hQ _ hu => hQ.runAdjust .time .add [] mask value hu
  case adjustTimeSubtract h mask value order =>
    exact hP.accepted h 10 hs ht fun _ hQ _ hu => hQ.runAdjust .time .subtract order mask value hu
  case query h mask => exact hP.accepted h 11 hs ht fun _ hQ _ hu => hQ.runQuery mask hu
  case clearFlags h => exact hP.accepted h 12 hs ht fun _ hQ _ hu => hQ.runClearFlags hu

end

/-- What the rows of the time base and of the units are made of: a share taken ahead of its crossing, a sample, or the
expiry of a timer. -/
theorem clock_exec_keeps {P : State → Prop} {i : Instr} (hi : isLineRow i = false) (hpow : isPowerRow i = false)
    {s t : State} (hs : P s) (ht : Machine.exec i s = .next t) (hnote : ∀ e u, P u → P { u with eventsNew := e })
    (hshare : ∀ u due, rowUnit s.pins.inputs s i = some u → P (takeShare u due s))
    (hwith : ∀ pins u due, rowUnit pins s i = some u → P (takeShareWith pins u due s))
    (hsample : ∀ level turns, P (takeSample level [] turns s))
    (hcross : ∀ pins order, i = .acceptedCrossing pins order →
      P (takeSample (oppositeLevel s) order (programTurns order) (withInputs pins s)))
    (habsent : s.mtb.mode = .tracking → P (takeExpiry reportMainsAbsent s))
    (hfailed : ∀ order, s.mtb.mode = .missing → P (takeExpiry (reportMainsFailed order) s)) : P t := by
  have keeps {f : State → State} (h : live f s = .next t) (hf : P (f s)) : P t := by
    rw [live_next] at h
    subst h
    split
    · exact hs
    · exact hnote _ _ hf
  have guarded {p : Bool} {f : State → State} (h : live (onlyIf p f) s = .next t) (hf : P (f s)) : P t :=
    keeps h (onlyIf_keeps P _ _ _ hs hf)
  cases i <;> simp [isLineRow, isPowerRow] at hi hpow
  case acceptedCrossing pins order => exact guarded ht (hcross pins order rfl)
  case frequencySet => exact guarded ht (hsample _ _)
  case mainsRestored => exact guarded ht (hsample _ _)
  case zxFilterSample level order => exact guarded ht (hsample _ _)
  case mainsAbsent =>
    refine keeps ht ?_
    unfold onlyIf
    split
    case isTrue h =>
      simp only [missingExpired, Bool.and_eq_true, beq_iff_eq] at h
      exact habsent h.2.1
    case isFalse => exact hs
  case mainsFailed order =>
    refine keeps ht ?_
    unfold onlyIf
    split
    case isTrue h =>
      simp only [rideExpired, Bool.and_eq_true, beq_iff_eq] at h
      exact hfailed order h.2.1
    case isFalse => exact hs
  case secondEvent => exact keeps ht (hshare _ _ rfl)
  case stationActive | intervalEvent | peerRowRemoved | starvationBegin => exact keeps ht (hshare _ _ rfl)
  case stepExpiry c | delayEnd c => exact keeps ht (hshare _ _ rfl)
  case raiseHoldClear c => exact keeps ht (hshare _ _ rfl)
  case purgeEnd c => exact keeps ht (hshare _ _ rfl)
  case slowPeriodStart c _ | slowOnTimeEnd c _ | stuckOff c _ | stuckOn c _ | stuckOnRepeat c _
    | uncontrolledCleared c _ => exact keeps ht (hwith _ _ _ (if_pos rfl))
  case sparkStart c _ | sparkEnd c _ | flameProven c _ | attemptFail c _ | falseFlameSet c _ | falseFlameCleared c _
    | falseFlameLockout c _ | flameLoss c _ => exact keeps ht (hwith _ _ _ (if_pos rfl))
  case gateChangeAccepted => exact keeps ht (hwith _ _ _ (if_pos rfl))
  case manualResetRequest | mrRelease => exact keeps ht (hwith _ _ _ (if_pos ⟨rfl, rfl⟩))

section
variable {P : State → Prop} (hP : KeptByClock P)
include hP

/-- The time base and the units keep what the operations keep. -/
theorem KeptByClock.exec {i : Instr} (hi : isLineRow i = false) (hpow : isPowerRow i = false) {s t : State} (hs : P s)
    (ht : Machine.exec i s = .next t) : P t := by
  have expiry {report : State → State} (hr : P (report { s with mtb := s.mtb.tick })) : P (takeExpiry report s) :=
    hP.unseen _ _ {} hr
  exact clock_exec_keeps hi hpow hs ht (fun _ _ hu => hP.unseen _ _ {} hu) (fun u due _ => hP.takeShare u due hs)
    (fun pins u due _ => hP.takeShareWith pins u due hs) (fun _ _ => hP.takeSample _ _ _ hs)
    (fun _ _ _ => hP.takeSample _ _ _ (hP.unseen _ _ {} hs)) (fun h => expiry (hP.mainsAbsent _ (hP.ticked hs) h))
    fun order h => expiry (hP.mainsFailed order _ (hP.ticked hs) h)

end

/-- What the operations keep, the loss of the supply and the resets, every step keeps. -/
theorem step_keeps {P : State → Prop} (hL : KeptByLine P) (hC : KeptByClock P)
    (hoff : ∀ s, P s → P (inactiveOutputs s)) (hreset : ∀ cause straps s, P s → P (resetAll cause straps s))
    (hpend : ∀ s l, P s → P { s with pending := l }) {s t : State} (hs : P s) (ht : step s = .next t) : P t := by
  have executed (i : Instr) {u : State} (hu : P u) (h : Machine.exec i u = .next t) : P t := by
    by_cases hline : isLineRow i = true
    · exact hL.exec hline hu h fun _ => hreset _
    · by_cases hpow : isPowerRow i = false
      · exact hC.exec (by simpa using hline) hpow hu h
      · cases i <;> simp [isPowerRow] at hpow <;> cases h
        · exact hoff u hu
        · exact hreset _ _ u hu
  unfold step at ht
  split at ht
  · cases ht; exact hs
  · exact executed _ (hpend _ _ hs) ht

end Sys2Proof.Machine
end

section
/-! SUPPORT. What the reports of the time base do, said in terms of the operations, and the conditions that read neither the
time base nor the station state. -/

namespace Sys2Proof.Machine

section
variable {P : State → Prop} (hP : Kept P)
include hP

theorem Kept.absentChannel (c : Chan) {s : State} (h : P s) : P (absentChannel c s) := by
  unfold Machine.absentChannel
  split
  case h_1 hs | h_2 hs | h_3 hs => exact hP.enterPaused c _ s h (by simp [hs, ChanState.hasProgram])
  case h_4 => exact hP.controller c _ s h rfl
  all_goals exact h

theorem Kept.suspendDriver {s : State} (h : P s) : P (mapChans suspendDriver s) := by
  rw [mapChans_eq_forChans]
  refine forChans_keeps P _ (fun c u hu => ?_) s h
  by_cases hw : driverWorks (u.chan c) = true
  · have suspended := hP.driver c ((u.chan c).driver.mainsAbsent (u.chan c).cfg.kind) u hu
      (driveSound_of_level rfl (.inl rfl))
    simpa only [State.mapChan, Machine.suspendDriver, if_pos hw] using suspended
  · have same := hP.driver c (u.chan c).driver u hu id
    simpa only [State.mapChan, Machine.suspendDriver, if_neg hw] using same

theorem Kept.resumeDriver {s : State} (h : P s) : P (mapChans resumeDriver s) := by
  rw [mapChans_eq_forChans]
  exact forChans_keeps P _ (fun c u hu => hP.driver c { (u.chan c).driver with suspended := false } u hu
    (driveSound_of_level rfl (.inl rfl))) s h

theorem Kept.restoredChannel (c : Chan) {s : State} (h : P s) : P (restoredChannel c s) := by
  unfold Machine.restoredChannel
  split
  case isTrue hp => exact hP.removeCause c _ h hp
  case isFalse => exact h

/-- The mains absent report after the station has taken it (R11, R55, R111). -/
theorem Kept.afterAbsent (e : EventRecord) {s : State} (h : P s) :
    P (mapChans Machine.suspendDriver (forChans Machine.absentChannel (Machine.raise e s))) :=
  hP.suspendDriver (forChans_keeps P _ (fun c _ hu => hP.absentChannel c hu) _ (hP.raise e h))

/-- The mains restored report after the station has taken it (R12, R54, R111). -/
theorem Kept.afterRestored (e : EventRecord) {s : State} (h : P s) :
    P (mapChans Machine.resumeDriver (forChans Machine.restoredChannel (Machine.raise e s))) :=
  hP.resumeDriver (forChans_keeps P _ (fun c _ hu => hP.restoredChannel c hu) _ (hP.raise e h))

/-- The programs that a mains failure ends, with their records in turn (R13, R195). -/
theorem Kept.programsFailed (order : List Chan) {s t : State} (hs : P s) (ht : P t) :
    P (raiseInTurn order s (forChans (fun c => Machine.endIfProgram c .mains) (setAside t))) := by
  have raised (es : List EventRecord) (u : State) (hu : P u) : P (es.foldl (fun u e => Machine.raise e u) u) := by
    induction es generalizing u with
    | nil => exact hu
    | cons e es ih => exact ih _ (hP.raise e hu)
  exact raised _ _ (hP.restore s _ hs (forChans_keeps P _ (fun c _ hu => hP.endIfProgram c _ hu) _
    (hP.rpu _ t ht fun _ => by simp)))

theorem Kept.clearHolds {s : State} (h : P s) : P (clearHolds s) :=
  forChans_keeps P
    (fun c u => u.mapChan c fun ch =>
      { ch with claim := { ch.claim with stage := .clear, carried := false, count := 0, settled := ch.claim.announced } })
    (fun c u hu => hP.claim c _ u hu ⟨rfl, rfl, fun _ => ⟨le_rfl, fun _ => rfl⟩⟩) s h

end

/-- An empty peer table is as sound as any. -/
theorem peersMove_empty (ps : List (Option PeerRow)) : PeersMove ps (List.replicate 16 none) where
  length _ := by simp
  age _ row hrow := by simp [List.eq_of_mem_replicate hrow]

theorem gibMoves_cleared (s : State) : GibMoves s.gib (clearFilters s).gib where
  run k _ := by simp [clearFilters]
  mrOff _ := by simp [clearFilters]

theorem Ssv.mainsAbsent_counts (v : Ssv) :
    v.mainsAbsent.listenCount = v.listenCount ∧ v.mainsAbsent.clashQuiet = v.clashQuiet := by
  unfold Ssv.mainsAbsent
  split <;> exact ⟨rfl, rfl⟩

theorem Ssv.mainsRestored_counts (v : Ssv) :
    v.mainsRestored.listenCount = v.listenCount ∧ v.mainsRestored.clashQuiet = v.clashQuiet := by
  unfold Ssv.mainsRestored
  split <;> exact ⟨rfl, rfl⟩

theorem Ssv.frequencySet_counts (v : Ssv) :
    (v.frequencySet.listenCount = v.listenCount ∨ v.frequencySet.listenCount = 0) ∧
    v.frequencySet.clashQuiet = v.clashQuiet := by
  unfold Ssv.frequencySet
  split <;> simp

/-- The condition `P` is kept by the operations, and by every change of the time base and of the station state. -/
structure KeptAnywhere (P : State → Prop) : Prop extends Kept P where
  base : ∀ (m : Mtb) (v : Ssv) (s : State), P s → (s.ssv.listenCount ≤ 3 → v.listenCount ≤ 3) →
    (s.ssv.clashQuiet ≤ 4 → v.clashQuiet ≤ 4) → P { s with mtb := m, ssv := v }
  taken : ∀ (l : List HalfCycleUnit) (s : State), P s → P { s with taken := l }
  gib : ∀ (g : Gib) (s : State), P s → GibMoves s.gib g → P { s with gib := g }
  peers : ∀ (ps : List (Option PeerRow)) (s : State), P s → PeersMove s.apu.peers ps →
    P { s with apu := { s.apu with peers := ps } }
  interval : ∀ (n : Nat) (s : State), P s → n < 50 → P { s with apu := { s.apu with interval := n } }
  ownSendAge : ∀ (n : Nat) (s : State), P s → n ≤ 2 → P { s with apu := { s.apu with ownSendAge := n } }
  stateSet : ∀ (set : List Chan) (s : State), P s → (s.lif.stateSet.Nodup → set.Nodup) →
    P { s with lif := { s.lif with stateSet := set } }
  replies : ∀ (rs : List ReplyEntry) (s : State), P s → (s.lif.replies.length ≤ 4 → rs.length ≤ 4) →
    P { s with lif := { s.lif with replies := rs } }
  close : ∀ s : State, P s → P { s with configOpen := false }
  clearLockout : ∀ (c : Chan) (s : State), P s → P (clearLockout c s)
  configure : ∀ (c : Chan) (k : ChanKind) (b : ChannelBytes) (s : State), P s →
    ((s.chan c).chc.state = .idle ∨ (s.chan c).chc.state = .lockout) →
    P (s.setChan c (Channel.configure k b (s.chan c)))
  storeBurner : ∀ (c : Chan) (b : BurnerBytes) (s : State), P s → P (s.setChan c (storeBurner b (s.chan c)))

section
variable {P : State → Prop} (hP : KeptAnywhere P)
include hP

theorem KeptAnywhere.ssv (v : Ssv) {s : State} (h : P s) (hl : s.ssv.listenCount ≤ 3 → v.listenCount ≤ 3)
    (hq : s.ssv.clashQuiet ≤ 4 → v.clashQuiet ≤ 4) : P { s with ssv := v } := hP.base s.mtb v s h hl hq

theorem KeptAnywhere.mtb (m : Mtb) {s : State} (h : P s) : P { s with mtb := m } := hP.base m s.ssv s h id id

theorem KeptAnywhere.enterSafe {s : State} (h : P s) : P (enterSafe s) := by
  unfold Machine.enterSafe
  split
  · exact h
  · refine forChans_keeps P _ (fun c u hu => ?_) _ (hP.ssv _ h id id)
    unfold safeChannel
    split
    · exact hP.toKept.endIfProgram c _ hu
    · exact hu

theorem KeptAnywhere.toLine : KeptByLine P where
  toKept := hP.toKept
  stateSet := hP.stateSet
  gib := hP.gib
  peers := hP.peers
  sent s h := hP.ownSendAge 0 s h (by decide)
  noteClash a s h := by
    have noted := hP.ssv { s.ssv with clash := true, clashQuiet := 0 } h id fun _ => Nat.zero_le _
    obtain hn | hn | hn := noteClash_cases a s <;> rw [hn]
    · exact h
    · exact noted
    · exact hP.recompute _ noted
  flags powerFail clash s h _ := hP.ssv _ h id id
  close := hP.close
  configure c k b s h _ := hP.configure c k b s h
  storeBurner := hP.storeBurner
  replies := hP.replies

theorem KeptAnywhere.toClock : KeptByClock P where
  toKept := hP.toKept
  taken := hP.taken
  gib := hP.gib
  clearLockout := hP.clearLockout
  interval := hP.interval
  peers := hP.peers
  ageOwnSend s h := by
    have aged := hP.ownSendAge (min 2 (s.apu.ownSendAge + 1)) s h (Nat.min_le_left _ _)
    unfold Machine.ageOwnSend
    dsimp only
    split
    · exact hP.recompute _ aged
    · exact aged
  countListen s h _ := by
    unfold countListen becomeActive
    split_ifs
    · exact hP.ssv _ h (fun _ => by dsimp only; omega) id
    · exact hP.recompute _ (hP.ssv _ h (fun _ => le_rfl) id)
    · exact h
  clashQuiet n s h hn := hP.ssv _ h id fun _ => hn
  enterSafe s h := hP.recompute _ (hP.toKept.makeRequest (hP.enterSafe h))
  prescaler n s h _ _ := hP.mtb _ h
  clock m s h _ := hP.mtb m h
  restart s h _ := hP.mtb _ h
  frequencySet f s h _ := by
    have renewed := hP.ownSendAge 0 _ (hP.interval 0 s h (by decide)) (by decide)
    obtain ⟨hl, hq⟩ := s.ssv.frequencySet_counts
    have set := hP.base (s.mtb.frequencySet f) s.ssv.frequencySet _ renewed
      (fun h => by obtain hl | hl := hl <;> rw [hl]; exacts [h, Nat.zero_le _]) fun h => by rw [hq]; exact h
    exact hP.recompute _ (hP.toKept.resumeDriver (hP.toKept.makeRequest set))
  mainsAbsent s h _ := by
    obtain ⟨hl, hq⟩ := s.ssv.mainsAbsent_counts
    have absent := hP.base s.mtb.mainsAbsent s.ssv.mainsAbsent s h (fun h => by rw [hl]; exact h)
      fun h => by rw [hq]; exact h
    exact hP.recompute _ (hP.toKept.afterAbsent _ (hP.unseen _ _ {} (hP.taken [] _ absent)))
  mainsRestored s h _ := by
    obtain ⟨hl, hq⟩ := s.ssv.mainsRestored_counts
    have restored := hP.base s.mtb.mainsRestored s.ssv.mainsRestored s h (fun h => by rw [hl]; exact h)
      fun h => by rw [hq]; exact h
    exact hP.recompute _ (hP.toKept.afterRestored _ restored)
  mainsFailed order s h _ := by
    have ended := hP.toKept.programsFailed order h (hP.mtb s.mtb.mainsFailed h)
    have latched {u : State} (hu : P u) :
        P (clearHolds (recompute (clearFilters (emptyPeers { u with ssv := { u.ssv with powerFail := true } })))) :=
      hP.toKept.clearHolds <| hP.recompute _ <| hP.gib _ _ (hP.peers _ _ (hP.ssv _ hu id id) (peersMove_empty _))
        (gibMoves_cleared _)
    have waits {u : State} (hu : P u) : P (enterMainsWait u) :=
      hP.unseen _ _ {} (hP.ownSendAge 0 _ (hP.interval 0 _
        (hP.ssv { u.ssv with station := .mainsWait, listenCount := 0, prior := none } hu (fun _ => Nat.zero_le _) id)
        (by decide)) (by decide))
    unfold reportMainsFailed
    dsimp only
    split
    · exact latched ended
    · exact latched (waits ended)

end

/-- Every step keeps such a condition, where the loss of the supply and the resets do. -/
theorem KeptAnywhere.step {P : State → Prop} (hP : KeptAnywhere P) (hoff : ∀ s, P s → P (inactiveOutputs s))
    (hreset : ∀ cause straps s, P s → P (resetAll cause straps s)) (hpend : ∀ s l, P s → P { s with pending := l })
    {s t : State} (hs : P s) (ht : Machine.step s = .next t) : P t :=
  step_keeps hP.toLine hP.toClock hoff hreset hpend hs ht

end Sys2Proof.Machine
end

section
/-! Settles O7 and O9: the bounds of queues and counters, and the raise-holds. -/

namespace Sys2Proof.Machine

/-! ### Bounds -/

/-- A change of the channels alone that keeps the size of every step table keeps the bounds. -/
theorem bounded_of_chans {s : State} (cs : Quad Channel)
    (h : ∀ c : Chan, (cs.get c).pgu.slots.length = (s.chan c).pgu.slots.length) (hs : Bounded s) :
    Bounded { s with chans := cs } := by
  obtain ⟨h1, h2, h3, h4, h5, h6, h7, h8, h9, hslots, h11, h12⟩ := hs
  exact ⟨h1, h2, h3, h4, h5, h6, h7, h8, h9, fun c => (h c).trans (hslots c), h11, h12⟩

theorem bounded_setChan {s : State} {c : Chan} {ch : Channel}
    (h : ch.pgu.slots.length = (s.chan c).pgu.slots.length) (hs : Bounded s) : Bounded (s.setChan c ch) := by
  refine bounded_of_chans _ (fun d => ?_) hs
  by_cases hd : d = c
  · subst hd; simpa using h
  · simp [hd, State.chan]

theorem clearLockout_cases (c : Chan) (s : State) :
    clearLockout c s = s ∨ ((s.chan c).chc.state = .lockout ∧ clearLockout c s =
      raise { kind := .lockoutCleared, channel := some c, slot := none, parameter := 0 }
        (s.setChan c { s.chan c with lockoutBit := false, chc := { (s.chan c).chc with state := .idle } })) := by
  unfold clearLockout
  split
  case isTrue h => exact .inr ⟨h, rfl⟩
  case isFalse => exact .inl rfl

theorem bounded_of_acts {s t : State} (h : Acts s t) (hs : Bounded s) : Bounded t := by
  have hslots (c : Chan) : (t.chan c).pgu.slots.length = (s.chan c).pgu.slots.length := (h.channel c).slots
  have hevents := h.events
  have hst := h.station
  generalize t.chans = cs, t.igu = g, t.rpu = r at hst
  subst hst
  obtain ⟨h1, h2, h3, h4, h5, h6, h7, h8, h9, h10, h11, h12⟩ := hs
  exact ⟨h1, h2, hevents h3, h4, h5, h6, h7, h8, h9, fun c => (hslots c).trans (h10 c), h11, h12⟩

theorem clampLevels_length (p : Pgu) : p.clampLevels.slots.length = p.slots.length := List.length_map _

theorem configure_slots_length (k : ChanKind) (b : ChannelBytes) (ch : Channel) :
    (Channel.configure k b ch).pgu.slots.length = ch.pgu.slots.length := by
  unfold Channel.configure
  dsimp only
  split
  · exact clampLevels_length ch.pgu
  · rfl

theorem keptAnywhere_bounded : KeptAnywhere Bounded where
  toKeptByChannels := keptByChannels_of_acts fun _ _ => bounded_of_acts
  recompute s hs := by simpa [Bounded] using hs
  unseen s t h hs := by
    obtain ⟨-, ssv, chans, -, gib, rpu, peers, interval, own, replies, set, -⟩ := h
    have hc (c : Chan) : t.chan c = s.chan c := by rw [State.chan, chans]; rfl
    simpa only [Bounded, ssv, gib, rpu, peers, interval, own, replies, set, hc] using hs
  rpu r s hs hr := by
    obtain ⟨h1, h2, h3, h4⟩ := hs
    exact ⟨h1, h2, hr h3, h4⟩
  restore s t hs ht := by
    obtain ⟨-, -, h3, -⟩ := hs
    obtain ⟨h1, h2, -, h4⟩ := ht
    exact ⟨h1, h2, h3, h4⟩
  claim c k s hs _ := bounded_setChan rfl hs
  gated c b s hs := bounded_setChan rfl hs
  base m v s hs hl hq := by
    obtain ⟨h1, h2, h3, h4, h5, h6, h7, h8, h9, h10⟩ := hs
    exact ⟨h1, h2, h3, h4, h5, h6, h7, hl h8, hq h9, h10⟩
  taken _ _ hs := hs
  gib g s hs hg := by
    obtain ⟨h1, h2, h3, h4, h5, h6, h7, h8, h9, h10, h11, h12⟩ := hs
    exact ⟨h1, h2, h3, h4, h5, h6, h7, h8, h9, h10, fun k => hg.run k (h11 k), hg.mrOff h12⟩
  peers ps s hs hp := by
    obtain ⟨h1, h2, h3, h4, h5, h6⟩ := hs
    exact ⟨h1, h2, h3, hp.length h4, hp.age h5, h6⟩
  interval n s hs hn := by
    obtain ⟨h1, h2, h3, h4, h5, h6, -, h8⟩ := hs
    exact ⟨h1, h2, h3, h4, h5, h6, hn, h8⟩
  ownSendAge n s hs hn := by
    obtain ⟨h1, h2, h3, h4, h5, -, h7⟩ := hs
    exact ⟨h1, h2, h3, h4, h5, hn, h7⟩
  stateSet set s hs hset := by
    obtain ⟨h1, h2, h3⟩ := hs
    exact ⟨h1, hset h2, h3⟩
  replies rs s hs hr := by
    obtain ⟨h1, h2⟩ := hs
    exact ⟨hr h1, h2⟩
  close _ hs := hs
  clearLockout c s hs := by
    obtain h | ⟨-, h⟩ := clearLockout_cases c s <;> rw [h]
    · exact hs
    · exact bounded_of_acts (acts_raise _ _) (bounded_setChan rfl hs)
  configure c k b s hs _ := bounded_setChan (configure_slots_length k b _) hs
  storeBurner c b s hs := bounded_setChan rfl hs

theorem bounded_afterReset (cause : ResetCause) (pf : Bool) (bits : Quad Bool) (pins : Pins) (l : List Instr) :
    Bounded (.afterReset cause pf bits pins l) := by
  simp [Bounded, State.afterReset, Apu.reset, Gib.reset, State.chan, Channel.reset, Pgu.reset]

/-- Settles O7: every operation of which the commands are made keeps the bounds. -/
theorem stepKeepsBounds : Obligations.StepKeepsBounds := by
  intro s t hs ht
  refine keptAnywhere_bounded.step (fun u hu => ?_) (fun _ _ _ _ => bounded_afterReset ..) (fun _ _ hu => hu) hs ht
  exact bounded_of_chans (.ofFn fun c =>
    { u.chan c with driver := { (u.chan c).driver with output := false }, valve := 0 }) (fun c => by simp) hu

/-! ### Holds -/

/-- What HoldsSound says of one claim. -/
abbrev HoldSound (k : Claim) : Prop := k.settled ≤ k.announced ∧ (k.stage = .clear → k.settled = k.announced)

/-- Holds are sound after a change that leaves every claim sound. -/
theorem holdsSound_of_claims {s t : State} (h : ∀ c, HoldSound (s.chan c).claim → HoldSound (t.chan c).claim)
    (hs : HoldsSound s) : HoldsSound t := fun c => h c (hs c)

theorem holdsSound_setChan {s : State} {c : Chan} {ch : Channel} (h : HoldSound (s.chan c).claim → HoldSound ch.claim)
    (hs : HoldsSound s) : HoldsSound (s.setChan c ch) := by
  refine holdsSound_of_claims (fun d hd => ?_) hs
  by_cases hdc : d = c
  · subst hdc; rw [State.chan_setChan_self]; exact h hd
  · rw [State.chan_setChan_ne _ _ _ _ hdc]; exact hd

/-- A lowering lowers the settled demand with the announced one, and a raise leaves a hold (R73, R74). -/
theorem holdSound_demandChange (n : Nat) {k : Claim} (h : HoldSound k) : HoldSound (demandChange n k).1 := by
  obtain ⟨hle, heq⟩ := h
  unfold demandChange
  split_ifs
  · exact ⟨Nat.min_le_right _ _, fun hc => by have := heq hc; dsimp only; omega⟩
  · exact ⟨by dsimp only; omega, by simp⟩
  · exact ⟨hle, heq⟩

theorem holdsSound_recompute {s : State} (hs : HoldsSound s) : HoldsSound (recompute s) := by
  refine holdsSound_of_claims (fun c hc => ?_) hs
  obtain ⟨grant, hk⟩ := recompute_claim s c
  rw [hk]
  exact holdSound_demandChange (neededDemand s.ssv.station (s.chan c))
    (k := { (s.chan c).claim with
      target := targetLevel s.ssv.station (s.chan c), needed := neededDemand s.ssv.station (s.chan c) }) hc

theorem keptAnywhere_holdsSound : KeptAnywhere HoldsSound where
  toKeptByChannels := keptByChannels_of_acts fun s t h hs =>
    holdsSound_of_claims (fun c hc => by rw [(h.channel c).claim]; exact hc) hs
  recompute _ := holdsSound_recompute
  unseen s t h hs c := by rw [State.chan, h.chans]; exact hs c
  rpu _ _ hs _ := hs
  restore _ _ _ ht := ht
  claim c k s hs hk := holdsSound_setChan hk.settled hs
  gated c b s hs := holdsSound_setChan id hs
  base _ _ _ hs _ _ := hs
  taken _ _ hs := hs
  gib _ _ hs _ := hs
  peers _ _ hs _ := hs
  interval _ _ hs _ := hs
  ownSendAge _ _ hs _ := hs
  stateSet _ _ hs _ := hs
  replies _ _ hs _ := hs
  close _ hs := hs
  clearLockout c s hs := by
    obtain h | ⟨-, h⟩ := clearLockout_cases c s <;> rw [h]
    · exact hs
    · have hk : HoldsSound (s.mapChan c fun ch => { ch with lockoutBit := false, chc.state := .idle }) :=
        holdsSound_setChan id hs
      exact fun d => by rw [raise_chan]; exact hk d
  configure c k b s hs _ := holdsSound_setChan id hs
  storeBurner c b s hs := holdsSound_setChan id hs

theorem holdsSound_afterReset (cause : ResetCause) (pf : Bool) (bits : Quad Bool) (pins : Pins) (l : List Instr) :
    HoldsSound (.afterReset cause pf bits pins l) := fun c => by
  simp [State.afterReset, State.chan, Channel.reset, Claim.reset]

/-- Settles O9: a recomputation and the events of a hold keep each claim sound, and nothing else moves one. -/
theorem stepKeepsHoldsSound : Obligations.StepKeepsHoldsSound := by
  intro s t hs ht
  refine keptAnywhere_holdsSound.step (fun u hu => ?_) (fun _ _ _ _ c => holdsSound_afterReset _ _ _ _ _ c) (fun _ _ hu => hu)
    hs ht
  exact holdsSound_of_claims (fun c hc => by simpa [inactiveOutputs, State.chan] using hc) hu

end Sys2Proof.Machine
end

section
/-! Settles O8, first part: levels and drivers stay within their bounds. -/

namespace Sys2Proof.Machine

/-- A change of one channel, as a condition on every channel sees it. -/
theorem forall_chan_setChan {R : Channel → Prop} {s : State} {c : Chan} {ch : Channel} (h : R (s.chan c) → R ch)
    (hs : ∀ d, R (s.chan d)) (d : Chan) : R ((s.setChan c ch).chan d) := by
  by_cases hd : d = c
  · subst hd; rw [State.chan_setChan_self]; exact h (hs d)
  · rw [State.chan_setChan_ne _ _ _ _ hd]; exact hs d

/-- Levels and drive of one channel are within their bounds. -/
abbrev PoweredWell (ch : Channel) : Prop := LevelsOf ch ∧ DriveSound ch

theorem levelMax_le (kind : ChanKind) : levelMax kind ≤ 100 := by
  unfold levelMax
  split <;> omega

/-- What a recomputation pays a channel for is never above the level of its step (R69, R88). -/
theorem recompute_ceiling_le (s : State) (c : Chan) :
    ((recompute s).chan c).claim.ceiling ≤ (s.chan c).pgu.level := by
  obtain ⟨grant, hk⟩ := recompute_claim s c
  have target : (declareDemand s.ssv.station (s.chan c)).1.claim.target ≤ (s.chan c).pgu.level := by
    have ht : targetLevel s.ssv.station (s.chan c) ≤ (s.chan c).pgu.level := by
      unfold targetLevel
      split
      · exact le_rfl
      · exact Nat.zero_le _
    by_cases h : (s.chan c).claim.announced < neededDemand s.ssv.station (s.chan c)
    · rw [declareDemand_raise h]; exact ht
    · obtain ⟨e, he⟩ := declareDemand_lowering (Nat.le_of_not_lt h)
      rw [he]; exact ht
  rw [hk]
  unfold settleClaim
  dsimp only
  split <;> omega

/-- A driver that follows a ceiling drives within it, with the accumulator as it was (R100, R108). -/
theorem followCeiling_sound (f : Option Frequency) (ch : Channel) (hacc : ch.driver.accumulator ≤ 99)
    (hidle : ch.cfg.kind.isElement = false ∨ ch.chc.state = .lockout → ch.driver.level = 0) :
    (followCeiling f ch).level ≤ ch.claim.ceiling ∧ (followCeiling f ch).accumulator ≤ 99 ∧
    (ch.cfg.kind.isElement = false ∨ ch.chc.state = .lockout → (followCeiling f ch).level = 0) := by
  have limit := driveLimit_le ch
  by_cases hlock : ch.chc.state = .lockout
  · simp [followCeiling, hlock, hidle, hacc]
  · unfold followCeiling
    rw [if_neg hlock]
    cases hk : ch.cfg.kind <;> dsimp only
    case cycle => exact ⟨limit, hacc, by simp [hlock, ChanKind.isElement]⟩
    case slow =>
      split_ifs with hr hlt
      · exact ⟨Nat.zero_le _, hacc, fun _ => rfl⟩
      · exact ⟨limit, hacc, by simp [hlock, ChanKind.isElement]⟩
      · exact ⟨by omega, hacc, by simp [hlock, ChanKind.isElement]⟩
    all_goals
      have hzero := hidle (by simp [hk, ChanKind.isElement])
      exact ⟨by omega, hacc, fun _ => hzero⟩

theorem poweredWell_recompute {s : State} (hs : ∀ c, PoweredWell (s.chan c)) (c : Chan) :
    PoweredWell ((recompute s).chan c) := by
  obtain ⟨hlevels, -, -, hacc, hidle⟩ := hs c
  have ceiling := recompute_ceiling_le s c
  have level := (level_le hlevels).trans (levelMax_le _)
  obtain ⟨hl, ha, hi⟩ := followCeiling_sound s.mtb.frequency { (recompute s).chan c with driver := (s.chan c).driver }
    hacc (by simpa using hidle)
  refine ⟨by simpa [LevelsOf] using hlevels, ?_⟩
  rw [DriveSound, recompute_driver]
  exact ⟨hl, by omega, ha, hi⟩

/-- The step table of a burner is brought to 9, and that of another kind has no level above 100 (R20, R21). -/
theorem levelsOf_configure (k : ChanKind) (b : ChannelBytes) {ch : Channel} (h : LevelsOf ch) :
    LevelsOf (Channel.configure k b ch) := by
  intro r hr
  unfold Channel.configure at hr ⊢
  dsimp only at hr ⊢
  have kind : (channelConfigOf ch.cfg k b).kind = k := rfl
  rw [kind]
  split at hr
  case isTrue hk =>
    subst hk
    obtain ⟨r₀, -, rfl⟩ := List.mem_map.1 hr
    cases r₀ <;> simp [levelMax]
  case isFalse hk =>
    have hmax : levelMax k = 100 := by cases k <;> first | rfl | exact absurd rfl hk
    rw [hmax]
    exact (h r hr).trans (levelMax_le _)

theorem keptAnywhere_poweredWell : KeptAnywhere fun s => ∀ c, PoweredWell (s.chan c) where
  toKeptByChannels := keptByChannels_of_acts fun s t h hs c =>
    ⟨(h.channel c).levels (hs c).1, (h.channel c).drive (hs c).2⟩
  recompute _ := poweredWell_recompute
  unseen s t h hs c := by rw [State.chan, h.chans]; exact hs c
  rpu _ _ hs _ := hs
  restore _ _ _ ht := ht
  claim c k s hs hk := by
    refine forall_chan_setChan (fun ⟨hl, hd⟩ => ⟨hl, ?_⟩) hs
    rw [DriveSound] at hd ⊢
    rw [hk.ceiling]
    exact hd
  gated c b s hs := forall_chan_setChan (R := PoweredWell) id hs
  base _ _ _ hs _ _ := hs
  taken _ _ hs := hs
  gib _ _ hs _ := hs
  peers _ _ hs _ := hs
  interval _ _ hs _ := hs
  ownSendAge _ _ hs _ := hs
  stateSet _ _ hs _ := hs
  replies _ _ hs _ := hs
  close _ hs := hs
  clearLockout c s hs := by
    obtain h | ⟨-, h⟩ := clearLockout_cases c s <;> rw [h]
    · exact hs
    · intro d
      rw [raise_chan]
      refine forall_chan_setChan (R := PoweredWell) ?_ hs d
      rintro ⟨hl, hlevel, hceiling, hacc, hidle⟩
      exact ⟨hl, hlevel, hceiling, hacc, fun h => hidle (h.imp_right fun h => by simp at h)⟩
  configure c k b s hs _ := by
    refine forall_chan_setChan (R := PoweredWell) ?_ hs
    rintro ⟨hl, -, hceiling, -⟩
    exact ⟨levelsOf_configure k b hl, Nat.zero_le _, hceiling, Nat.zero_le _, fun _ => rfl⟩
  storeBurner c b s hs := forall_chan_setChan (R := PoweredWell) id hs

theorem poweredWell_afterReset (cause : ResetCause) (pf : Bool) (bits : Quad Bool) (pins : Pins) (l : List Instr)
    (c : Chan) : PoweredWell ((State.afterReset cause pf bits pins l).chan c) := by
  simp [PoweredWell, LevelsOf, DriveSound, State.afterReset, State.chan, Channel.reset, Pgu.reset, Claim.reset,
    Driver.reset]

theorem step_keeps_poweredWell {s t : State} (hs : ∀ c, PoweredWell (s.chan c)) (ht : step s = .next t) (c : Chan) :
    PoweredWell (t.chan c) := by
  refine keptAnywhere_poweredWell.step (fun u hu c => ?_)
    (fun _ _ _ _ c => poweredWell_afterReset _ _ _ _ _ c) (fun _ _ hu => hu) hs ht c
  simpa [inactiveOutputs, State.chan] using hu c

end Sys2Proof.Machine
end

section
/-! Settles O8, second part: where ceilings are barred they are 0. -/

namespace Sys2Proof.Machine

/-- Every ceiling is 0 where it is barred (R89). -/
abbrev BarredSound (s : State) : Prop := ceilingsBarred s = true → ∀ c : Chan, (s.chan c).claim.ceiling = 0

/-- The bounds, and ceilings at 0 where they are barred. -/
abbrev BoundedAndBarred (s : State) : Prop := Bounded s ∧ BarredSound s

/-- A change that leaves the ceilings and bars none anew. -/
theorem barredSound_of_same {s t : State} (hs : BarredSound s) (hb : ceilingsBarred t = true → ceilingsBarred s = true)
    (hc : ∀ c, (t.chan c).claim.ceiling = (s.chan c).claim.ceiling) : BarredSound t :=
  fun h c => (hc c).trans (hs (hb h) c)

theorem barredSound_recompute (s : State) : BarredSound (recompute s) := fun h c =>
  recompute_ceiling_barred (by simpa [ceilingsBarred, starved] using h) c

theorem barredSound_setChan {s : State} {c : Chan} {ch : Channel} (hs : BarredSound s)
    (hc : ch.claim.ceiling = (s.chan c).claim.ceiling) : BarredSound (s.setChan c ch) :=
  barredSound_of_same hs id fun d => by
    by_cases hd : d = c
    · subst hd; rw [State.chan_setChan_self]; exact hc
    · rw [State.chan_setChan_ne _ _ _ _ hd]

theorem barredSound_of_acts {s t : State} (h : Acts s t) (hs : BarredSound s) : BarredSound t := by
  refine barredSound_of_same hs (fun hb => ?_) fun c => by rw [(h.channel c).claim]
  rw [h.station] at hb
  exact hb

theorem barredSound_clearHolds {s : State} (hs : BarredSound s) : BarredSound (clearHolds s) :=
  barredSound_of_same hs id fun c => by simp [clearHolds, State.chan]

theorem kept_barred : Kept BoundedAndBarred where
  toKeptByChannels := keptByChannels_of_acts fun _ _ h hs => ⟨bounded_of_acts h hs.1, barredSound_of_acts h hs.2⟩
  recompute s hs := ⟨keptAnywhere_bounded.recompute s hs.1, barredSound_recompute s⟩
  unseen s t h hs := by
    refine ⟨keptAnywhere_bounded.unseen s t h hs.1, barredSound_of_same hs.2 (fun hb => ?_) fun c => ?_⟩
    · rwa [ceilingsBarred, starved, h.ssv, h.ownSendAge] at hb
    · rw [State.chan, h.chans]; rfl
  rpu r s hs hr := ⟨keptAnywhere_bounded.rpu r s hs.1 hr, hs.2⟩
  restore s t hs ht := ⟨keptAnywhere_bounded.restore s t hs.1 ht.1, ht.2⟩
  claim c k s hs hk := ⟨keptAnywhere_bounded.claim c k s hs.1 hk, barredSound_setChan hs.2 hk.ceiling⟩
  gated c b s hs := ⟨keptAnywhere_bounded.gated c b s hs.1, barredSound_setChan hs.2 rfl⟩

theorem keptByLine_barred : KeptByLine BoundedAndBarred where
  toKept := kept_barred
  stateSet set s hs h := ⟨keptAnywhere_bounded.stateSet set s hs.1 h, hs.2⟩
  gib g s hs h := ⟨keptAnywhere_bounded.gib g s hs.1 h, hs.2⟩
  peers ps s hs h := ⟨keptAnywhere_bounded.peers ps s hs.1 h, hs.2⟩
  sent s hs := by
    refine ⟨keptAnywhere_bounded.toLine.sent s hs.1, barredSound_of_same hs.2 (fun hb => ?_) fun _ => rfl⟩
    simp only [ceilingsBarred, starved, Bool.or_eq_true] at hb ⊢
    exact hb.imp_left fun h => .inl (h.resolve_right (by simp))
  noteClash a s hs := by
    refine ⟨keptAnywhere_bounded.toLine.noteClash a s hs.1, ?_⟩
    unfold noteClash
    dsimp only
    split_ifs with ha hclash
    · exact barredSound_of_same hs.2 (fun _ => by simp [ceilingsBarred, hclash]) fun _ => rfl
    · exact barredSound_recompute _
    · exact hs.2
  flags powerFail clash s hs h := by
    refine ⟨keptAnywhere_bounded.toLine.flags powerFail clash s hs.1 h,
      barredSound_of_same hs.2 (fun hb => ?_) fun _ => rfl⟩
    simp only [ceilingsBarred, starved, Bool.or_eq_true] at hb ⊢
    exact hb.imp_right h
  close s hs := ⟨keptAnywhere_bounded.close s hs.1, hs.2⟩
  configure c k b s hs _ h := ⟨keptAnywhere_bounded.configure c k b s hs.1 h, barredSound_setChan hs.2 rfl⟩
  storeBurner c b s hs := ⟨keptAnywhere_bounded.storeBurner c b s hs.1, barredSound_setChan hs.2 rfl⟩
  replies rs s hs h := ⟨keptAnywhere_bounded.replies rs s hs.1 h, hs.2⟩

/-- The own-send age grows to 2 with a recomputation, and below it bars no ceiling (R81, R89). -/
theorem barredSound_ageOwnSend {s : State} (hown : s.apu.ownSendAge ≤ 2) (hs : BarredSound s) :
    BarredSound (ageOwnSend s) := by
  unfold ageOwnSend
  dsimp only
  split_ifs with h
  · exact barredSound_recompute _
  · refine barredSound_of_same hs (fun hb => ?_) fun _ => rfl
    have same : min 2 (s.apu.ownSendAge + 1) = 2 → s.apu.ownSendAge = 2 := by omega
    simp only [ceilingsBarred, starved, Bool.or_eq_true, beq_iff_eq] at hb ⊢
    exact hb.imp_left (Or.imp_right same)

theorem keptByClock_barred : KeptByClock BoundedAndBarred where
  toKept := kept_barred
  taken l s hs := ⟨keptAnywhere_bounded.taken l s hs.1, hs.2⟩
  gib g s hs h := ⟨keptAnywhere_bounded.gib g s hs.1 h, hs.2⟩
  clearLockout c s hs := by
    refine ⟨keptAnywhere_bounded.clearLockout c s hs.1, ?_⟩
    obtain h | ⟨-, h⟩ := clearLockout_cases c s <;> rw [h]
    · exact hs.2
    · exact barredSound_of_acts (acts_raise _ _) (barredSound_setChan hs.2 rfl)
  interval n s hs h := ⟨keptAnywhere_bounded.interval n s hs.1 h, hs.2⟩
  peers ps s hs h := ⟨keptAnywhere_bounded.peers ps s hs.1 h, hs.2⟩
  ageOwnSend s hs := by
    refine ⟨keptAnywhere_bounded.toClock.ageOwnSend s hs.1, barredSound_ageOwnSend ?_ hs.2⟩
    obtain ⟨-, -, -, -, -, hown, -⟩ := hs.1
    exact hown
  countListen s hs h := by
    refine ⟨keptAnywhere_bounded.toClock.countListen s hs.1 h, ?_⟩
    unfold countListen becomeActive
    split_ifs
    · exact barredSound_of_same hs.2 id fun _ => rfl
    · exact barredSound_recompute _
    · exact hs.2
  clashQuiet n s hs h :=
    ⟨keptAnywhere_bounded.toClock.clashQuiet n s hs.1 h, barredSound_of_same hs.2 id fun _ => rfl⟩
  enterSafe s hs := ⟨keptAnywhere_bounded.toClock.enterSafe s hs.1, barredSound_recompute _⟩
  prescaler n s hs h h' := ⟨keptAnywhere_bounded.toClock.prescaler n s hs.1 h h', hs.2⟩
  clock m s hs h := ⟨keptAnywhere_bounded.toClock.clock m s hs.1 h, hs.2⟩
  restart s hs h := ⟨keptAnywhere_bounded.toClock.restart s hs.1 h, hs.2⟩
  frequencySet f s hs h := ⟨keptAnywhere_bounded.toClock.frequencySet f s hs.1 h, barredSound_recompute _⟩
  mainsAbsent s hs h := ⟨keptAnywhere_bounded.toClock.mainsAbsent s hs.1 h, barredSound_recompute _⟩
  mainsRestored s hs h := ⟨keptAnywhere_bounded.toClock.mainsRestored s hs.1 h, barredSound_recompute _⟩
  mainsFailed order s hs h :=
    ⟨keptAnywhere_bounded.toClock.mainsFailed order s hs.1 h, barredSound_clearHolds (barredSound_recompute _)⟩

theorem barredSound_afterReset (cause : ResetCause) (pf : Bool) (bits : Quad Bool) (pins : Pins) (l : List Instr) :
    BarredSound (.afterReset cause pf bits pins l) := fun _ c => by
  simp [State.afterReset, State.chan, Channel.reset, Claim.reset]

theorem boundedAndBarred_inactiveOutputs {s : State} (hs : BoundedAndBarred s) :
    BoundedAndBarred (inactiveOutputs s) := by
  constructor
  · exact bounded_of_chans (.ofFn fun c =>
      { s.chan c with driver := { (s.chan c).driver with output := false }, valve := 0 }) (fun c => by simp) hs.1
  · exact barredSound_of_same hs.2 id fun c => by simp [inactiveOutputs, State.chan]

/-- Settles O8: levels, ceilings and drivers channel by channel, and the ceilings of a barred station. -/
theorem stepKeepsPowerSound : Obligations.StepKeepsPowerSound := by
  intro s t hbounded hlevels ⟨hbarred, hdrive⟩ ht
  have powered := step_keeps_poweredWell (fun c => ⟨hlevels c, hdrive c⟩) ht
  have barred := step_keeps keptByLine_barred keptByClock_barred (fun _ hu => boundedAndBarred_inactiveOutputs hu)
    (fun _ _ _ _ => ⟨bounded_afterReset .., barredSound_afterReset _ _ _ _ _⟩) (fun _ _ hu => hu) ⟨hbounded, hbarred⟩ ht
  exact ⟨fun c => (powered c).1, barred.2, fun c => (powered c).2⟩

end Sys2Proof.Machine
end

section
/-! Settles O11: an attempt stays within its safety time. -/

namespace Sys2Proof.Machine

/-- Outside MEASURING a frequency is measured (R2), and every attempt is within its safety time. -/
abbrev AttemptsTimed (s : State) : Prop :=
  (s.mtb.mode ≠ .measuring → s.mtb.frequency.isSome = true) ∧ ∀ c : Chan, AttemptOf (s.chan c)

theorem AttemptsTimed.timed {s : State} (h : AttemptsTimed s) : Timed s := fun ht => h.1 (by simp [ht])

/-- A change of the station around the channels keeps the attempts. -/
theorem attemptsTimed_of_chans {s t : State} (hs : AttemptsTimed s) (hc : t.chans = s.chans)
    (hm : t.mtb.mode ≠ .measuring → t.mtb.frequency.isSome = true) : AttemptsTimed t :=
  ⟨hm, fun c => by rw [State.chan, hc]; exact hs.2 c⟩

theorem attemptsTimed_setChan {s : State} {c : Chan} {ch : Channel} (h : AttemptOf (s.chan c) → AttemptOf ch)
    (hs : AttemptsTimed s) : AttemptsTimed (s.setChan c ch) :=
  ⟨hs.1, forall_chan_setChan h hs.2⟩

theorem attemptOf_of_eq {a b : Channel} (hp : b.cfg.params = a.cfg.params) (hb : b.burner = a.burner)
    (h : AttemptOf a) : AttemptOf b := by
  rw [AttemptOf, hp, hb]
  exact h

theorem kept_attemptsTimed : Kept AttemptsTimed where
  toKeptByChannels := keptByChannels_of_acts fun s t h hs => by
    refine ⟨by rw [h.mtb]; exact hs.1, fun c => (h.channel c).attempt hs.timed (hs.2 c)⟩
  recompute s hs := by
    refine ⟨by rw [recompute_mtb]; exact hs.1, fun c => attemptOf_of_eq ?_ ?_ (hs.2 c)⟩ <;> simp
  unseen s t h hs := attemptsTimed_of_chans hs h.chans (by rw [h.mtb]; exact hs.1)
  rpu _ _ hs _ := hs
  restore _ _ _ ht := ht
  claim c k s hs _ := attemptsTimed_setChan id hs
  gated c b s hs := attemptsTimed_setChan id hs

/-- The parameters that CONFIGURE_BURNER stores keep S below T (R187). -/
theorem attemptOf_storeBurner (b : BurnerBytes) {ch : Channel} (h : AttemptOf ch) : AttemptOf (storeBurner b ch) := by
  obtain ⟨-, -, hspark, hprove⟩ := h
  refine ⟨?_, ?_, hspark, hprove⟩ <;> simp only [storeBurner, burnerParamsOf, clamp] <;> omega

theorem keptByLine_attemptsTimed : KeptByLine AttemptsTimed where
  toKept := kept_attemptsTimed
  stateSet _ _ hs _ := hs
  gib _ _ hs _ := hs
  peers _ _ hs _ := hs
  sent _ hs := hs
  noteClash a s hs := by
    obtain h | h | h := noteClash_cases a s <;> rw [h]
    · exact hs
    · exact hs
    · exact kept_attemptsTimed.recompute _ hs
  flags _ _ _ hs _ := hs
  close _ hs := hs
  configure c k b s hs _ _ := attemptsTimed_setChan id hs
  storeBurner c b s hs := attemptsTimed_setChan (attemptOf_storeBurner b) hs
  replies _ _ hs _ := hs

theorem keptByClock_attemptsTimed : KeptByClock AttemptsTimed where
  toKept := kept_attemptsTimed
  taken _ _ hs := hs
  gib _ _ hs _ := hs
  clearLockout c s hs := by
    obtain h | ⟨-, h⟩ := clearLockout_cases c s <;> rw [h]
    · exact hs
    · exact kept_attemptsTimed.raise _ (attemptsTimed_setChan id hs)
  interval _ _ hs _ := hs
  peers _ _ hs _ := hs
  ageOwnSend s hs := by
    unfold ageOwnSend
    dsimp only
    split
    · exact kept_attemptsTimed.recompute _ hs
    · exact hs
  countListen s hs _ := by
    unfold countListen becomeActive
    split_ifs
    · exact hs
    · exact kept_attemptsTimed.recompute _ hs
    · exact hs
  clashQuiet _ _ hs _ := hs
  enterSafe s hs := by
    refine kept_attemptsTimed.recompute _ (kept_attemptsTimed.makeRequest ?_)
    obtain ⟨-, h⟩ | ⟨-, h⟩ := enterSafe_cases s
    · rw [h]; exact hs
    · exact ⟨by rw [h.mtb]; exact hs.1, fun c => (h.channel c).attempt hs.timed (hs.2 c)⟩
  prescaler _ _ hs _ _ := hs
  clock m s hs h := attemptsTimed_of_chans hs rfl (by dsimp only; rw [h.mode, h.frequency]; exact hs.1)
  restart _ hs _ := hs
  frequencySet f s hs _ :=
    kept_attemptsTimed.recompute _ <| kept_attemptsTimed.resumeDriver <| kept_attemptsTimed.makeRequest <|
      attemptsTimed_of_chans hs rfl fun _ => rfl
  mainsAbsent s hs h :=
    kept_attemptsTimed.recompute _ <| kept_attemptsTimed.afterAbsent _ <|
      attemptsTimed_of_chans hs rfl fun _ => hs.timed h
  mainsRestored s hs h :=
    kept_attemptsTimed.recompute _ <| kept_attemptsTimed.afterRestored _ <|
      attemptsTimed_of_chans hs rfl fun _ => hs.1 (by simp [h])
  mainsFailed order s hs _ := by
    have ended := kept_attemptsTimed.programsFailed order hs
      (t := { s with mtb := s.mtb.mainsFailed }) (attemptsTimed_of_chans hs rfl fun hm => absurd rfl hm)
    unfold reportMainsFailed
    dsimp only
    split <;> exact kept_attemptsTimed.clearHolds (kept_attemptsTimed.recompute _ ended)

/-- Settles O11: the half-cycles of SPARK and PROVE stop at S and T, which a new SPARK reads from parameters that keep S
below T. -/
theorem stepKeepsAttemptsBounded : Obligations.StepKeepsAttemptsBounded := by
  rintro s t ⟨-, hmeasuring, -⟩ hs ht
  have timed : AttemptsTimed s := ⟨fun hm => by
    rw [← Option.ne_none_iff_isSome]; exact fun hf => hm (hmeasuring.2 hf), hs⟩
  refine (step_keeps keptByLine_attemptsTimed keptByClock_attemptsTimed (fun u hu => ⟨hu.1, fun c => ?_⟩)
    (fun _ _ _ _ => ⟨fun hm => absurd rfl hm, fun c => ?_⟩) (fun _ _ hu => hu) timed ht).2
  · exact attemptOf_of_eq (by simp [inactiveOutputs, State.chan]) (by simp [inactiveOutputs, State.chan]) (hu.2 c)
  · simp [AttemptOf, resetAll, State.afterReset, State.chan, Channel.reset, ChanConfig.reset, Burner.reset]

end Sys2Proof.Machine
end

section
/-! SUPPORT. The ignition unit beside one channel that stands outside its line: what leaves the line, joins it or stays out
of it keeps ignition and flame sound (R123 to R127, R140). -/

namespace Sys2Proof.Machine

/-! ### The ignition unit and one channel -/

/-- What FuelSound says of channel `c`, `ch`, beside the ignition unit `g`. -/
abbrev FuelAt (g : Igu) (c : Chan) (ch : Channel) : Prop :=
  (ch.burner.phase.holdsUnit = true ↔ g.holder = some c) ∧
  (ch.burner.phase = .queued ↔ c ∈ g.queue) ∧
  (ch.burner.phase ≠ .none → ch.chc.state = .igniting) ∧
  (ch.chc.state = .igniting → ch.burner.phase ≠ .none ∧ ch.cfg.kind = .burner ∧ 0 < ch.pgu.level) ∧
  (ch.burner.supervising = true ↔ ch.lit = true) ∧
  (0 < ch.valve → (ch.lit = true ∧ ch.burner.supervising = true) ∨ ch.burner.phase.valveOpen = true)

/-- Two channels are the same to ignition and flame. -/
structure SameFuel (a b : Channel) : Prop where
  state : b.chc.state = a.chc.state := by rfl
  burner : b.burner = a.burner := by rfl
  kind : b.cfg.kind = a.cfg.kind := by rfl
  level : b.pgu.level = a.pgu.level := by rfl
  valve : b.valve = a.valve := by rfl

theorem SameFuel.lit {a b : Channel} (h : SameFuel a b) : b.lit = a.lit := by
  rw [Channel.lit, Channel.lit, h.state, h.kind, h.level]

theorem SameFuel.fuelAt {a b : Channel} (h : SameFuel a b) {g : Igu} {c : Chan} (ha : FuelAt g c a) :
    FuelAt g c b := by
  rw [FuelAt, h.lit, h.state, h.burner, h.kind, h.level, h.valve]
  exact ha

/-- A channel that is no part of the ignition unit's line: out of IGNITING, or in PURGE (R124, R137). -/
structure OffLine (ch : Channel) : Prop where
  phase : (ch.burner.phase = .none ∧ ch.chc.state ≠ .igniting) ∨
    (ch.burner.phase = .purge ∧ ch.chc.state = .igniting ∧ ch.cfg.kind = .burner ∧ 0 < ch.pgu.level)
  supervised : ch.burner.supervising = true ↔ ch.lit = true
  valve : 0 < ch.valve → ch.lit = true

theorem OffLine.fuelAt {ch : Channel} (h : OffLine ch) {g : Igu} {c : Chan} (hh : g.holder ≠ some c)
    (hq : c ∉ g.queue) : FuelAt g c ch := by
  obtain ⟨⟨hp, hs⟩ | ⟨hp, hs, hk, hl⟩, hsup, hv⟩ := h
  · exact ⟨by simp [hp, hh, IgnitionPhase.holdsUnit], by simp [hp, hq], fun h => absurd hp h, fun h => absurd h hs,
      hsup, fun h => .inl ⟨hv h, hsup.2 (hv h)⟩⟩
  · exact ⟨by simp [hp, hh, IgnitionPhase.holdsUnit], by simp [hp, hq], fun _ => hs, fun _ => ⟨by simp [hp], hk, hl⟩,
      hsup, fun h => .inl ⟨hv h, hsup.2 (hv h)⟩⟩

/-- A channel that is out of IGNITING, unlit, with its valve closed and its supervision ended. -/
theorem offLine_of_dark {ch : Channel} (hp : ch.burner.phase = .none) (hs : ch.chc.state ≠ .igniting)
    (hl : ch.lit = false) (hsup : ch.burner.supervising = false) (hv : ch.valve = 0) : OffLine ch :=
  ⟨.inl ⟨hp, hs⟩, by simp [hl, hsup], by simp [hv]⟩

/-! ### The line -/

/-- The ignition unit is sound, but that its queue may wait without a holder; the channels of `out` stand outside its
line, and nothing is said of them. -/
structure LineSound (out : Chan → Prop) (s : State) : Prop where
  nodup : s.igu.queue.Nodup
  spark : s.igu.spark = true → ∃ c : Chan, s.igu.holder = some c ∧ (s.chan c).burner.phase = .spark
  apart : ∀ c, out c → s.igu.holder ≠ some c ∧ c ∉ s.igu.queue
  fuel : ∀ c, ¬ out c → FuelAt s.igu c (s.chan c)

/-- Nobody waits for a free unit (R126). -/
abbrev NobodyWaits (s : State) : Prop := s.igu.holder = none → s.igu.queue = []

theorem fuelSound_iff (s : State) : FuelSound s ↔ LineSound (fun _ => False) s ∧ NobodyWaits s :=
  ⟨fun ⟨hn, hw, hs, hf⟩ => ⟨⟨hn, hs, fun _ h => h.elim, fun c _ => hf c⟩, hw⟩,
    fun ⟨⟨hn, hs, _, hf⟩, hw⟩ => ⟨hn, hw, hs, fun c => hf c id⟩⟩

/-- Ignition and flame are sound but for channel `c`, which stands outside the line. -/
structure FuelExcept (c : Chan) (s : State) : Prop extends LineSound (· = c) s where
  waits : NobodyWaits s

/-- A promotion gives a free unit to the head of the queue (R126). -/
theorem lineSound_promote {out : Chan → Prop} {s : State} (h : LineSound out s) :
    LineSound out (promote s) ∧ NobodyWaits (promote s) := by
  cases hh : s.igu.holder with
  | some x =>
    rw [promote_of_holder hh]
    exact ⟨h, fun hn => by simp [hn] at hh⟩
  | none =>
    cases hq : s.igu.queue with
    | nil =>
      have same : promote s = s := by
        unfold promote
        split <;> simp_all
      rw [same]
      exact ⟨h, fun _ => hq⟩
    | cons x rest =>
      obtain ⟨hnodup, hspark, hapart, hfuel⟩ := h
      have dark : s.igu.spark = false := by
        by_contra hs
        obtain ⟨c, hc, -⟩ := hspark (by simpa using hs)
        simp [hh] at hc
      rw [hq, List.nodup_cons] at hnodup
      have hx : ¬ out x := fun ho => (hapart x ho).2 (by simp [hq])
      rw [promote_of_free hh hq]
      refine ⟨⟨hnodup.2, fun hs => absurd (dark.symm.trans hs) (by simp), fun c hc => ?_, fun c hc => ?_⟩,
        fun hn => by simp [Igu.withLine] at hn⟩
      · have hne : x ≠ c := fun he => hx (he ▸ hc)
        have hmem := (hapart c hc).2
        rw [hq, List.mem_cons, not_or] at hmem
        exact ⟨by simpa [Igu.withLine] using hne, hmem.2⟩
      · have hold := hfuel c hc
        by_cases hcx : c = x
        · subst hcx
          obtain ⟨-, hqueued, higniting, hin, hsup, hvalve⟩ := hold
          have hp : (s.chan c).burner.phase = .queued := hqueued.2 (by simp [hq])
          obtain ⟨hnone, hkind, hlevel⟩ := hin (higniting (by simp [hp]))
          rw [State.chan_mapChan_self]
          refine ⟨by simp [Burner.atLineWait, IgnitionPhase.holdsUnit, Igu.withLine], ?_,
            fun _ => higniting (by simp [hp]), fun _ => ⟨by simp [Burner.atLineWait], hkind, hlevel⟩, hsup, fun hv => ?_⟩
          · simpa [Burner.atLineWait, Igu.withLine] using hnodup.1
          · exact .inl ((hvalve hv).resolve_right (by simp [hp, IgnitionPhase.valveOpen]))
        · obtain ⟨hholds, hqueued, hrest⟩ := hold
          rw [State.chan_mapChan_ne _ _ _ _ hcx]
          refine ⟨hholds.trans ?_, hqueued.trans ?_, hrest⟩
          · simp [Igu.withLine, hh, Ne.symm hcx]
          · simp [Igu.withLine, hq, hcx]

/-- A promotion leaves a channel that is not in the queue as it was. -/
theorem promote_chan_of_not_mem {s : State} {c : Chan} (h : c ∉ s.igu.queue) : (promote s).chan c = s.chan c := by
  unfold promote
  split
  case h_1 d rest _ hq =>
    refine State.chan_mapChan_ne _ _ _ _ fun hcd => h ?_
    rw [hq, hcd]
    exact List.mem_cons_self
  case h_2 => rfl

/-! ### A channel outside the line -/

theorem fuelExcept_of_phase {s : State} (hs : FuelSound s) {c : Chan}
    (hp : (s.chan c).burner.phase = .none ∨ (s.chan c).burner.phase = .purge) : FuelExcept c s := by
  obtain ⟨hnodup, hwaits, hspark, hfuel⟩ := hs
  obtain ⟨hholds, hqueued, -⟩ := hfuel c
  refine ⟨⟨hnodup, hspark, ?_, fun d _ => hfuel d⟩, hwaits⟩
  rintro d rfl
  rw [Ne, ← hholds, ← hqueued]
  obtain hp | hp := hp <;> simp [hp, IgnitionPhase.holdsUnit]

theorem phase_none_of_state {s : State} (hs : FuelSound s) {c : Chan} (h : (s.chan c).chc.state ≠ .igniting) :
    (s.chan c).burner.phase = .none := by
  obtain ⟨-, -, -, hfuel⟩ := hs
  obtain ⟨-, -, hphase, -⟩ := hfuel c
  by_contra hp
  exact h (hphase hp)

theorem fuelExcept_of_state {s : State} (hs : FuelSound s) {c : Chan} (h : (s.chan c).chc.state ≠ .igniting) :
    FuelExcept c s := fuelExcept_of_phase hs (.inl (phase_none_of_state hs h))

/-- A channel that is not lit is not supervised, and out of IGNITING its valve is closed (R123, R140). -/
theorem dark_of_not_lit {s : State} (hs : FuelSound s) {c : Chan} (hl : (s.chan c).lit = false) :
    (s.chan c).burner.supervising = false ∧
    ((s.chan c).burner.phase.valveOpen = false → (s.chan c).valve = 0) := by
  obtain ⟨-, -, -, hfuel⟩ := hs
  obtain ⟨-, -, -, -, hsup, hvalve⟩ := hfuel c
  refine ⟨?_, fun hp => ?_⟩
  · rw [← Bool.not_eq_true, hsup, hl]; simp
  · by_contra hv
    simpa [hl, hp] using hvalve (Nat.pos_of_ne_zero hv)

/-- Nothing is said of the channel that stands outside. -/
theorem FuelExcept.setChan {c : Chan} {s : State} (h : FuelExcept c s) (ch : Channel) :
    FuelExcept c (s.setChan c ch) := by
  obtain ⟨⟨hnodup, hspark, hapart, hfuel⟩, hwaits⟩ := h
  refine ⟨⟨hnodup, fun hsp => ?_, hapart, fun d hd => ?_⟩, hwaits⟩
  · obtain ⟨d, hd, hp⟩ := hspark hsp
    have hdc : d ≠ c := by
      rintro rfl
      exact (hapart d rfl).1 hd
    exact ⟨d, hd, by rw [State.chan_setChan_ne _ _ _ _ hdc]; exact hp⟩
  · rw [State.chan_setChan_ne _ _ _ _ hd]
    exact hfuel d hd

theorem FuelExcept.sound {c : Chan} {s : State} (h : FuelExcept c s) (hc : OffLine (s.chan c)) : FuelSound s := by
  obtain ⟨⟨hnodup, hspark, hapart, hfuel⟩, hwaits⟩ := h
  refine ⟨hnodup, hwaits, hspark, fun d => ?_⟩
  by_cases hd : d = c
  · subst hd
    obtain ⟨hh, hq⟩ := hapart d rfl
    exact hc.fuelAt hh hq
  · exact hfuel d hd

/-- A channel outside the line goes on outside it. -/
theorem FuelExcept.sound_set {c : Chan} {s : State} (h : FuelExcept c s) {ch : Channel} (hc : OffLine ch) :
    FuelSound (s.setChan c ch) := (h.setChan ch).sound (by rwa [State.chan_setChan_self])

/-- The state but for its channels, its ignition unit and what ignition does not read. -/
theorem lineSound_of_same {out : Chan → Prop} {s t : State} (higu : t.igu = s.igu)
    (h : ∀ c, SameFuel (s.chan c) (t.chan c)) (hs : LineSound out s) : LineSound out t := by
  obtain ⟨hnodup, hspark, hapart, hfuel⟩ := hs
  refine ⟨by rwa [higu], fun hsp => ?_, fun c hc => by rw [higu]; exact hapart c hc, fun c hc => ?_⟩
  · rw [higu] at hsp ⊢
    obtain ⟨c, hc, hp⟩ := hspark hsp
    exact ⟨c, hc, by rw [(h c).burner]; exact hp⟩
  · rw [higu]
    exact (h c).fuelAt (hfuel c hc)

theorem fuelSound_of_same {s t : State} (higu : t.igu = s.igu) (h : ∀ c, SameFuel (s.chan c) (t.chan c))
    (hs : FuelSound s) : FuelSound t := by
  obtain ⟨hline, hwaits⟩ := (fuelSound_iff s).1 hs
  exact (fuelSound_iff t).2 ⟨lineSound_of_same higu h hline, fun hn => by rw [higu] at hn ⊢; exact hwaits hn⟩

theorem fuelExcept_of_same {c : Chan} {s t : State} (higu : t.igu = s.igu) (h : ∀ c, SameFuel (s.chan c) (t.chan c))
    (hs : FuelExcept c s) : FuelExcept c t :=
  ⟨lineSound_of_same higu h hs.toLineSound, fun hn => by rw [higu] at hn ⊢; exact hs.waits hn⟩

theorem fuelSound_setChan_same {s : State} {c : Chan} {ch : Channel} (h : SameFuel (s.chan c) ch) (hs : FuelSound s) :
    FuelSound (s.setChan c ch) := by
  refine fuelSound_of_same (s := s) rfl (fun d => ?_) hs
  by_cases hd : d = c
  · subst hd; rwa [State.chan_setChan_self]
  · rw [State.chan_setChan_ne _ _ _ _ hd]; exact {}

/-! ### Leaving and joining the line -/

/-- The holder leaves, whatever becomes of it, and the next in the queue becomes holder (R124, R126). -/
theorem fuelExcept_releaseUnit {s : State} (hs : FuelSound s) {c : Chan}
    (hh : (s.chan c).burner.phase.holdsUnit = true) (ch : Channel) :
    FuelExcept c (releaseUnit (s.setChan c ch)) ∧ (releaseUnit (s.setChan c ch)).chan c = ch := by
  obtain ⟨hnodup, -, -, hfuel⟩ := hs
  obtain ⟨hholds, hqueued, -⟩ := hfuel c
  have notQueued : c ∉ s.igu.queue := fun hq => by simp [hqueued.2 hq, IgnitionPhase.holdsUnit] at hh
  have holder := hholds.1 hh
  have left : LineSound (· = c) { s.setChan c ch with igu := { s.igu with holder := none, spark := false } } := by
    refine ⟨hnodup, by simp, ?_, fun d hd => ?_⟩
    · rintro d rfl
      exact ⟨by simp, notQueued⟩
    · obtain ⟨hdholds, hdrest⟩ := hfuel d
      have kept : ({ s.setChan c ch with igu := { s.igu with holder := none, spark := false } } : State).chan d =
          s.chan d := State.chan_setChan_ne s c d ch hd
      rw [kept]
      refine ⟨hdholds.trans ?_, hdrest⟩
      simp [holder, Ne.symm hd]
  obtain ⟨hline, hwaits⟩ := lineSound_promote left
  refine ⟨⟨hline, hwaits⟩, ?_⟩
  rw [releaseUnit, promote_chan_of_not_mem]
  · exact State.chan_setChan_self s c ch
  · exact notQueued

/-- A queued burner leaves the queue (R127). -/
theorem fuelExcept_dequeue {s : State} (hs : FuelSound s) {c : Chan} (hp : (s.chan c).burner.phase = .queued) :
    FuelExcept c { s with igu := { s.igu with queue := s.igu.queue.filter (· ≠ c) } } := by
  obtain ⟨hnodup, hwaits, hspark, hfuel⟩ := hs
  obtain ⟨hholds, -, -⟩ := hfuel c
  refine ⟨⟨hnodup.filter _, hspark, ?_, fun d hd => ?_⟩, fun hn => ?_⟩
  · rintro d rfl
    exact ⟨fun hh => by simpa [hp, IgnitionPhase.holdsUnit] using hholds.2 hh, by simp⟩
  · obtain ⟨hdholds, hdqueued, hdrest⟩ := hfuel d
    exact ⟨hdholds, hdqueued.trans (by simp [hd]), hdrest⟩
  · dsimp only
    rw [hwaits hn]
    rfl

/-- A burner that gives up flame and ignition stands outside the line, without a phase (R56, R127, R140). -/
theorem fuelExcept_quench {s : State} (hs : FuelSound s) (c : Chan) :
    FuelExcept c (quench c s) ∧ ((quench c s).chan c).burner.phase = .none := by
  have extinguished {t : State} (ht : FuelExcept c t) (hp : (t.chan c).burner.phase = .none) :
      FuelExcept c (t.mapChan c Channel.extinguished) ∧
        ((t.mapChan c Channel.extinguished).chan c).burner.phase = .none :=
    ⟨ht.setChan _, by rw [State.chan_mapChan_self]; exact hp⟩
  have released (hh : (s.chan c).burner.phase.holdsUnit = true) :=
    fuelExcept_releaseUnit hs hh { s.chan c with burner := (s.chan c).burner.outOfIgnition, valve := 0 }
  unfold quench leaveIgnition
  dsimp only
  split
  case h_1 hp => exact extinguished (fuelExcept_of_phase hs (.inl hp)) hp
  case h_2 hp => exact extinguished ((fuelExcept_dequeue hs hp).setChan _) (by rw [State.chan_mapChan_self]; rfl)
  case h_6 hp =>
    exact extinguished ((fuelExcept_of_phase hs (.inr hp)).setChan _) (by rw [State.chan_mapChan_self]; rfl)
  case h_3 hp | h_4 hp | h_5 hp =>
    obtain ⟨hout, hchan⟩ := released (by rw [hp]; rfl)
    exact extinguished hout ((congrArg (·.burner.phase) hchan).trans rfl)

/-- A burner outside the line joins its tail (R125, R126). -/
theorem FuelExcept.joinQueue {c : Chan} {s : State} (h : FuelExcept c s) (hs : (s.chan c).chc.state = .igniting)
    (hk : (s.chan c).cfg.kind = .burner) (hl : 0 < (s.chan c).pgu.level)
    (hsup : (s.chan c).burner.supervising = false) (hv : (s.chan c).valve = 0) : FuelSound (joinQueue c s) := by
  obtain ⟨⟨hnodup, hspark, hapart, hfuel⟩, -⟩ := h
  obtain ⟨hholder, hqueue⟩ := hapart c rfl
  refine (fuelSound_iff _).2 (lineSound_promote ⟨?_, fun hsp => ?_, fun _ h => h.elim, fun d _ => ?_⟩)
  · exact hnodup.append (List.nodup_singleton c) (by simpa using hqueue)
  · obtain ⟨d, hd, hp⟩ := hspark hsp
    have hdc : d ≠ c := by
      rintro rfl
      exact hholder hd
    exact ⟨d, hd, by rw [State.chan_mapChan_ne _ _ _ _ hdc]; exact hp⟩
  · by_cases hd : d = c
    · subst hd
      have kept : ({ s with igu := { s.igu with queue := s.igu.queue ++ [d] } } : State).chan d = s.chan d := rfl
      rw [State.chan_mapChan_self, kept]
      refine ⟨?_, ?_, fun _ => hs, fun _ => ⟨by simp, hk, hl⟩, ?_, fun h => ?_⟩
      · simpa [IgnitionPhase.holdsUnit] using hholder
      · simp
      · simp [hsup, Channel.lit, hs]
      · dsimp only at h
        omega
    · obtain ⟨hdholds, hdqueued, hdrest⟩ := hfuel d hd
      rw [State.chan_mapChan_ne _ _ _ _ hd]
      exact ⟨hdholds, hdqueued.trans (by simp [hd]), hdrest⟩

theorem FuelExcept.enterIgnition {c : Chan} (n : Nat) {s : State} (h : FuelExcept c s)
    (hk : (s.chan c).cfg.kind = .burner) (hl : 0 < (s.chan c).pgu.level)
    (hsup : (s.chan c).burner.supervising = false) (hv : (s.chan c).valve = 0) : FuelSound (enterIgnition c n s) := by
  refine FuelExcept.joinQueue (h.setChan _) ?_ ?_ ?_ ?_ ?_ <;> rw [State.chan_mapChan_self]
  exacts [hk, hl, hsup, hv]

end Sys2Proof.Machine
end

section
/-! Settles O10: every operation keeps ignition and flame sound. -/

namespace Sys2Proof.Machine

theorem lit_eq_false_of_state {ch : Channel} (h : ch.chc.state ≠ .running) : ch.lit = false := by
  simp [Channel.lit, h]

theorem lit_eq_false_of_kind {ch : Channel} (h : ch.cfg.kind ≠ .burner) : ch.lit = false := by
  simp [Channel.lit, h]

theorem lit_iff (ch : Channel) :
    ch.lit = true ↔ ch.chc.state = .running ∧ ch.cfg.kind = .burner ∧ 0 < ch.pgu.level := by
  simp [Channel.lit, and_assoc]

/-- A channel that is not lit, out of IGNITING, has no phase, no supervision and a closed valve. -/
theorem dark_of_state {s : State} (hs : FuelSound s) {c : Chan} (hi : (s.chan c).chc.state ≠ .igniting)
    (hl : (s.chan c).lit = false) :
    (s.chan c).burner.phase = .none ∧ (s.chan c).burner.supervising = false ∧ (s.chan c).valve = 0 := by
  have hp := phase_none_of_state hs hi
  obtain ⟨hsup, hv⟩ := dark_of_not_lit hs hl
  exact ⟨hp, hsup, hv (by simp [hp, IgnitionPhase.valveOpen])⟩

/-- A change between two unlit states out of IGNITING keeps ignition and flame sound. -/
theorem fuelSound_setChan_dark {s : State} {c : Chan} {ch : Channel} (hs : FuelSound s)
    (hi : (s.chan c).chc.state ≠ .igniting) (hl : (s.chan c).lit = false) (hi' : ch.chc.state ≠ .igniting)
    (hl' : ch.lit = false) (hb : ch.burner = (s.chan c).burner := by rfl)
    (hv : ch.valve = (s.chan c).valve := by rfl) : FuelSound (s.setChan c ch) := by
  obtain ⟨hp, hsup, hvalve⟩ := dark_of_state hs hi hl
  exact (fuelExcept_of_state hs hi).sound_set
    (offLine_of_dark (by rw [hb]; exact hp) hi' hl' (by rw [hb]; exact hsup) (hv.trans hvalve))

/-! ### Programs -/

theorem fuelSound_startSlot (c : Chan) (n : Slot) {s : State} (hs : FuelSound s)
    (hi : (s.chan c).chc.state ≠ .igniting) : FuelSound (startSlot c n s) := by
  have out := fuelExcept_of_state hs hi
  have hp := phase_none_of_state hs hi
  have dark (hl : (s.chan c).lit = false) := dark_of_state hs hi hl
  unfold startSlot
  simp only [mapChan_mapChan]
  split_ifs with hpaused hkind hlevel hlit
  · obtain ⟨-, hsup, hv⟩ := dark (lit_eq_false_of_state (by simp [hpaused]))
    exact out.sound_set (offLine_of_dark hp (by simp [hpaused])
      (lit_eq_false_of_state (by simp [hpaused])) hsup hv)
  · obtain ⟨-, hsup, hv⟩ := dark (lit_eq_false_of_kind hkind)
    exact out.sound_set (offLine_of_dark hp (by simp [Channel.enterRunning]) (lit_eq_false_of_kind hkind) hsup hv)
  · rw [State.chan_mapChan_self] at hlevel
    exact out.sound_set (offLine_of_dark hp (by simp [Channel.enterRunning])
      (by simp [Channel.lit, Channel.enterRunning, Channel.extinguished, hlevel]) rfl rfl)
  · rw [State.chan_mapChan_self] at hlevel
    obtain ⟨hrun, hburner, -⟩ := (lit_iff _).1 hlit
    have lit : ({ s.chan c with pgu := (s.chan c).pgu.started n } : Channel).lit = true :=
      (lit_iff _).2 ⟨hrun, hburner, Nat.pos_of_ne_zero hlevel⟩
    obtain ⟨-, -, -, hfuel⟩ := hs
    obtain ⟨-, -, -, -, hsup, -⟩ := hfuel c
    exact out.sound_set ⟨.inl ⟨hp, hi⟩, ⟨fun _ => lit, fun _ => hsup.2 hlit⟩, fun _ => lit⟩
  · obtain ⟨-, hsup, hv⟩ := dark (by simpa using hlit)
    refine (out.setChan { s.chan c with pgu := (s.chan c).pgu.started n }).enterIgnition _ ?_ ?_ ?_ ?_ <;>
      rw [State.chan_setChan_self]
    · simpa using hkind
    · rw [State.chan_mapChan_self] at hlevel; exact Nat.pos_of_ne_zero hlevel
    · exact hsup
    · exact hv

/-- A channel quenched, and then taken to a state out of IGNITING and not RUNNING. -/
theorem fuelSound_quenched {s : State} (hs : FuelSound s) (c : Chan) (p : Pgu → Pgu) (k : Chc → Chc)
    (hi : ∀ x, (k x).state ≠ .igniting) (hr : ∀ x, (k x).state ≠ .running) :
    FuelSound ((quench c s).mapChan c fun ch => { ch with pgu := p ch.pgu, chc := k ch.chc }) := by
  obtain ⟨out, hp⟩ := fuelExcept_quench hs c
  obtain ⟨hv, hsup⟩ := quench_closed c s
  exact out.sound_set (offLine_of_dark hp (hi _) (lit_eq_false_of_state (hr _)) hsup hv)

theorem fuelSound_raiseFor {s : State} (hs : FuelSound s) (c : Chan) (k : EventKind) (n : Nat) :
    FuelSound (raiseFor c k n s) :=
  fuelSound_of_same (raise_igu _ s) (fun d => by rw [raiseFor_chan]; exact {}) hs

theorem fuelSound_endProgram (c : Chan) (cause : EndCause) {into : ChanState} {s : State} (hs : FuelSound s)
    (hinto : into.hasProgram = false) : FuelSound (endProgram c cause into s) := by
  refine fuelSound_quenched (fuelSound_raiseFor hs c .programEnd cause.code) c Pgu.ended
    (fun _ => { state := into, causes := ⟨false, false⟩, target := none, endCause := cause }) (fun _ => ?_) (fun _ => ?_) <;>
    · rintro rfl; simp [ChanState.hasProgram] at hinto

theorem fuelSound_leavePaused (c : Chan) {s : State} (hs : FuelSound s) (hpaused : (s.chan c).chc.state = .paused) :
    FuelSound (leavePaused c s) := by
  have hi : (s.chan c).chc.state ≠ .igniting := by simp [hpaused]
  obtain ⟨hp, hsup, hv⟩ := dark_of_state hs hi (lit_eq_false_of_state (by simp [hpaused]))
  have out := fuelExcept_of_state hs hi
  unfold leavePaused
  simp only [mapChan_mapChan]
  split_ifs with htarget hlit
  · exact out.sound_set (offLine_of_dark hp (by simp) (lit_eq_false_of_state (by simp)) hsup hv)
  · obtain ⟨hk, hl⟩ := hlit
    refine (out.setChan { s.chan c with chc := { (s.chan c).chc with target := none } }).enterIgnition _
      ?_ ?_ ?_ ?_ <;> rw [State.chan_setChan_self]
    exacts [hk, hl, hsup, hv]
  · exact out.sound_set (offLine_of_dark hp (by simp [Channel.enterRunning])
      (by simpa [Channel.lit, Channel.enterRunning] using hlit) hsup hv)

theorem fuelSound_adjustLevel (op : AdjustOperation) (v : Nat) (c : Chan) {s : State} (hs : FuelSound s)
    (hi : (s.chan c).chc.state ≠ .igniting) : FuelSound (adjustLevel op v c s) := by
  have hp := phase_none_of_state hs hi
  have out := fuelExcept_of_state hs hi
  have dark (hl : (s.chan c).lit = false) := dark_of_state hs hi hl
  unfold adjustLevel moveValve
  simp only [mapChan_mapChan, State.chan_mapChan_self]
  split_ifs with hburning hboth hold hnew
  · obtain ⟨hrun, hk⟩ := hburning
    obtain ⟨hold, hnew⟩ := hboth
    have lit : (s.chan c).lit = true := (lit_iff _).2 ⟨hrun, hk, hold⟩
    obtain ⟨-, -, -, hfuel⟩ := hs
    obtain ⟨-, -, -, -, hsup, -⟩ := hfuel c
    have litNow (w : Nat) : ({ s.chan c with
        pgu := (s.chan c).pgu.withLevel (adjustedLevel (s.chan c).cfg.kind op (s.chan c).pgu.level v)
        valve := w } : Channel).lit = true := (lit_iff _).2 ⟨hrun, hk, hnew⟩
    exact out.sound_set ⟨.inl ⟨hp, hi⟩, ⟨fun _ => litNow _, fun _ => hsup.2 lit⟩, fun _ => litNow _⟩
  · obtain ⟨hrun, hk⟩ := hburning
    rw [not_and] at hboth
    refine out.sound_set (offLine_of_dark hp hi ?_ rfl rfl)
    simpa [Channel.lit, hrun, hk, Channel.extinguished] using hboth hold
  · obtain ⟨hrun, hk⟩ := hburning
    obtain ⟨-, hsup, hv⟩ := dark (by simpa [Channel.lit, hrun, hk] using hold)
    refine (out.setChan { s.chan c with
        pgu := (s.chan c).pgu.withLevel (adjustedLevel (s.chan c).cfg.kind op (s.chan c).pgu.level v) }).enterIgnition _
      ?_ ?_ ?_ ?_ <;> rw [State.chan_setChan_self]
    exacts [hk, hnew, hsup, hv]
  · obtain ⟨hrun, hk⟩ := hburning
    obtain ⟨-, hsup, hv⟩ := dark (by simpa [Channel.lit, hrun, hk] using hold)
    exact out.sound_set (offLine_of_dark hp hi (by simpa [Channel.lit, hrun, hk] using hnew) hsup hv)
  · have unlit {ch : Channel} (hst : ch.chc.state = (s.chan c).chc.state) (hk : ch.cfg.kind = (s.chan c).cfg.kind) :
        ch.lit = false := by
      rw [← Bool.not_eq_true, lit_iff, hst, hk]
      exact fun h => hburning ⟨h.1, h.2.1⟩
    exact fuelSound_setChan_dark hs hi (unlit rfl rfl) hi (unlit rfl rfl)

/-! ### Burners -/

theorem fuelSound_lockOut (c : Chan) (cause : EndCause) {s : State} (hs : FuelSound s) :
    FuelSound (lockOut c cause s) := by
  have locked : FuelSound (s.mapChan c fun ch => { ch with lockoutBit := true, valve := 0 }) := by
    obtain ⟨hnodup, hwaits, hspark, hfuel⟩ := hs
    refine ⟨hnodup, hwaits, fun hsp => ?_, fun d => ?_⟩
    · obtain ⟨d, hd, hp⟩ := hspark hsp
      refine ⟨d, hd, ?_⟩
      by_cases hdc : d = c
      · subst hdc; rw [State.chan_mapChan_self]; exact hp
      · rw [State.chan_mapChan_ne _ _ _ _ hdc]; exact hp
    · by_cases hdc : d = c
      · subst hdc
        obtain ⟨h1, h2, h3, h4, h5, -⟩ := hfuel d
        rw [State.chan_mapChan_self]
        exact ⟨h1, h2, h3, h4, h5, fun h => absurd h (by simp)⟩
      · rw [State.chan_mapChan_ne _ _ _ _ hdc]; exact hfuel d
  have ended := fuelSound_endProgram c cause (into := .lockout) (fuelSound_raiseFor locked c .lockout cause.code) rfl
  obtain ⟨hchc, -, -, hv, -⟩ := endProgram_self c cause .lockout
    (raiseFor c .lockout cause.code (s.mapChan c fun ch => { ch with lockoutBit := true, valve := 0 }))
  unfold lockOut
  dsimp only
  refine (fuelExcept_of_state ended (c := c) (by simp [hchc])).sound_set (offLine_of_dark rfl ?_ ?_ rfl hv)
  · simp [hchc]
  · exact lit_eq_false_of_state (by simp [hchc])

/-- The entry to SPARK with the record that the half-cycle made. -/
theorem startSpark_record (c : Chan) (b : Burner) (s : State) :
    startSpark c (s.mapChan c fun ch => { ch with burner := b }) =
      { s with igu := { s.igu with spark := true } }.mapChan c fun ch =>
        { ch with burner := b.atSpark s.mtb.frequency ch.cfg.params, valve := ch.cfg.params.position } :=
  mapChan_mapChan c (fun ch => { ch with burner := b })
    (fun ch => { ch with
      burner := ch.burner.atSpark s.mtb.frequency ch.cfg.params, valve := ch.cfg.params.position })
    { s with igu := { s.igu with spark := true } }

section
variable {s : State} {c : Chan} (hs : FuelSound s)
include hs

/-- What soundness says of a burner in IGNITING. -/
theorem igniting_of_phase (hp : (s.chan c).burner.phase ≠ .none) :
    (s.chan c).chc.state = .igniting ∧ (s.chan c).cfg.kind = .burner ∧ 0 < (s.chan c).pgu.level ∧
    (s.chan c).burner.supervising = false ∧
    ((s.chan c).burner.phase.valveOpen = false → (s.chan c).valve = 0) := by
  obtain ⟨-, -, -, hfuel⟩ := id hs
  obtain ⟨-, -, hphase, hin, -⟩ := hfuel c
  have hst := hphase hp
  obtain ⟨-, hk, hl⟩ := hin hst
  obtain ⟨hsup, hv⟩ := dark_of_not_lit hs (c := c) (lit_eq_false_of_state (by simp [hst]))
  exact ⟨hst, hk, hl, hsup, hv⟩

/-- A holder that goes on holding, in a phase with its valve as the phase allows; SPK_EN is asserted in SPARK alone. -/
theorem fuelSound_holder (hh : (s.chan c).burner.phase.holdsUnit = true) (b : Burner) (v : Nat) (spark : Bool)
    (hb : b.phase.holdsUnit = true) (hsup : b.supervising = false) (hv : 0 < v → b.phase.valveOpen = true)
    (hspark : spark = true → b.phase = .spark) :
    FuelSound ({ s with igu := { s.igu with spark := spark } }.setChan c { s.chan c with burner := b, valve := v }) := by
  obtain ⟨hst, hk, hl, -⟩ := igniting_of_phase hs (c := c) fun hn => by simp [hn, IgnitionPhase.holdsUnit] at hh
  obtain ⟨hnodup, hwaits, -, hfuel⟩ := hs
  obtain ⟨hholds, hqueued, -⟩ := hfuel c
  have holder := hholds.1 hh
  have notQueued : c ∉ s.igu.queue := fun hq => by simp [hqueued.2 hq, IgnitionPhase.holdsUnit] at hh
  refine ⟨hnodup, hwaits, fun hsp => ⟨c, holder, ?_⟩, fun d => ?_⟩
  · rw [State.chan_setChan_self]; exact hspark hsp
  · by_cases hd : d = c
    · subst hd
      rw [State.chan_setChan_self]
      refine ⟨⟨fun _ => holder, fun _ => hb⟩, ⟨fun hq => ?_, fun hq => absurd hq notQueued⟩, fun _ => hst,
        fun _ => ⟨fun hn => ?_, hk, hl⟩, ?_, fun h => .inr (hv h)⟩
      · dsimp only at hq; simp [hq, IgnitionPhase.holdsUnit] at hb
      · dsimp only at hn; simp [hn, IgnitionPhase.holdsUnit] at hb
      · simp [hsup, Channel.lit, hst]
    · rw [State.chan_setChan_ne _ _ _ _ hd]; exact hfuel d

/-- A burner that leaves the line as the holder, for a state that is no part of the line. -/
theorem fuelSound_released (hh : (s.chan c).burner.phase.holdsUnit = true) {ch : Channel} (hch : OffLine ch) :
    FuelSound (releaseUnit (s.setChan c ch)) := by
  obtain ⟨out, hchan⟩ := fuelExcept_releaseUnit hs hh ch
  exact out.sound (by rw [hchan]; exact hch)

theorem fuelSound_proveFlame (hh : (s.chan c).burner.phase.holdsUnit = true) : FuelSound (proveFlame c s) := by
  obtain ⟨hst, hk, hl, -⟩ := igniting_of_phase hs (c := c) fun hn => by simp [hn, IgnitionPhase.holdsUnit] at hh
  have lit : ({ s.chan c with
      chc := { (s.chan c).chc with state := .running }, valve := (s.chan c).pgu.level
      burner := (s.chan c).burner.atProof } : Channel).lit = true := (lit_iff _).2 ⟨rfl, hk, hl⟩
  exact fuelSound_released hs hh ⟨.inl ⟨rfl, by simp⟩, ⟨fun _ => lit, fun _ => rfl⟩, fun _ => lit⟩

theorem fuelSound_failAttempt (hh : (s.chan c).burner.phase.holdsUnit = true) : FuelSound (failAttempt c s) := by
  obtain ⟨hst, hk, hl, hsup, -⟩ := igniting_of_phase hs (c := c) fun hn => by simp [hn, IgnitionPhase.holdsUnit] at hh
  have closed : FuelSound (s.mapChan c fun ch => { ch with valve := 0 }) :=
    fuelSound_holder hs hh (s.chan c).burner 0 s.igu.spark hh hsup (by simp) fun hsp => by
      obtain ⟨-, -, hspark, hfuel⟩ := id hs
      obtain ⟨hholds, -⟩ := hfuel c
      obtain ⟨d, hd, hp⟩ := hspark hsp
      have hdc : c = d := Option.some.inj ((hholds.1 hh).symm.trans hd)
      rw [hdc]; exact hp
  have raised := fuelSound_raiseFor closed c .ignitionFail (s.chan c).burner.attempt
  unfold failAttempt
  dsimp only
  split
  · refine fuelSound_released raised (by simpa using hh) ⟨.inr ⟨rfl, ?_, ?_, ?_⟩, ?_, ?_⟩
    · simpa using hst
    · simpa using hk
    · simpa using hl
    · simp [Burner.atPurge, hsup, Channel.lit, hst]
    · simp
  · exact fuelSound_lockOut c _ raised

/-- A supervised burner that loses its flame joins the line (R141). -/
theorem fuelSound_loseFlame (n : Nat) (hsup : (s.chan c).burner.supervising = true) : FuelSound (loseFlame c n s) := by
  obtain ⟨-, -, -, hfuel⟩ := id hs
  obtain ⟨-, -, -, -, hlit, -⟩ := hfuel c
  obtain ⟨hrun, hk, hl⟩ := (lit_iff _).1 (hlit.1 hsup)
  have out := (fuelExcept_of_state hs (c := c) (by simp [hrun])).setChan (s.chan c).extinguished
  have raised := fuelExcept_of_same (t := raiseFor c .flameLoss n (s.setChan c (s.chan c).extinguished))
    (raise_igu _ _) (fun d => by rw [raiseFor_chan]; exact {}) out
  refine raised.enterIgnition 1 ?_ ?_ ?_ ?_ <;> rw [raiseFor_chan, State.chan_setChan_self]
  exacts [hk, hl, rfl, rfl]

/-- A burner's record may move, but for phase and supervision. -/
theorem fuelSound_record (b : Burner) (hp : b.phase = (s.chan c).burner.phase)
    (hsup : b.supervising = (s.chan c).burner.supervising) :
    FuelSound (s.setChan c { s.chan c with burner := b }) := by
  obtain ⟨hnodup, hwaits, hspark, hfuel⟩ := hs
  refine ⟨hnodup, hwaits, fun hsp => ?_, fun d => ?_⟩
  · obtain ⟨d, hd, hphase⟩ := hspark hsp
    refine ⟨d, hd, ?_⟩
    by_cases hdc : d = c
    · subst hdc; rw [State.chan_setChan_self]; exact hp.trans hphase
    · rw [State.chan_setChan_ne _ _ _ _ hdc]; exact hphase
  · by_cases hdc : d = c
    · subst hdc
      rw [State.chan_setChan_self, Channel.lit]
      dsimp only
      rw [hp, hsup]
      exact hfuel d
    · rw [State.chan_setChan_ne _ _ _ _ hdc]; exact hfuel d

/-- What a half-cycle brings about on a burner keeps ignition and flame sound (R129 to R141). -/
theorem fuelSound_burnerShare (c : Chan) : FuelSound (burnerShare c s) := by
  have moved (hp : (ignitionStep s c).1.phase = (s.chan c).burner.phase)
      (hsup : (ignitionStep s c).1.supervising = (s.chan c).burner.supervising) :
      FuelSound (s.mapChan c fun ch => { ch with burner := (ignitionStep s c).1 }) :=
    fuelSound_record hs _ hp hsup
  unfold burnerShare
  dsimp only
  obtain hst | ⟨-, ⟨hphase, ho, hp, hsup⟩ | ⟨hphase, hst⟩ | ⟨hphase, hp, hsup, ho⟩ | ⟨-, hsup, ho, hp, hsup'⟩⟩ :=
    ignitionStep_cases s c
  · rw [hst] at moved ⊢
    exact moved rfl rfl
  · have kept := moved (hp.trans hphase.symm) hsup
    have holds : (s.chan c).burner.phase.holdsUnit = true := by rw [hphase]; rfl
    obtain ⟨-, -, -, hdark, -⟩ := igniting_of_phase hs (c := c) (by simp [hphase])
    obtain ho | ho | ho := ho <;> rw [ho] <;> dsimp only
    · exact kept
    · rw [startSpark_record]
      exact fuelSound_holder hs holds _ _ true rfl (hsup.trans hdark) (fun _ => rfl) fun _ => rfl
    · exact fuelSound_lockOut c _ kept
  · rw [hst] at moved ⊢
    obtain ⟨-, -, -, hdark, -⟩ := igniting_of_phase hs (c := c) (by simp [hphase])
    by_cases hend : (s.chan c).burner.sparkTime ≤ (s.chan c).burner.safety + 1
    · simp only [hend, if_true]
      rw [endSpark_record]
      exact fuelSound_holder hs (by rw [hphase]; rfl) _ (s.chan c).valve false rfl hdark (fun _ => rfl) (by simp)
    · simp only [hend, if_false]
      exact moved rfl rfl
  · have kept := moved (hp.trans hphase.symm) hsup
    have holds : ((s.mapChan c fun ch => { ch with burner := (ignitionStep s c).1 }).chan c).burner.phase.holdsUnit =
        true := by rw [State.chan_mapChan_self]; dsimp only; rw [hp]; rfl
    obtain ho | ho | ⟨ho, -⟩ := ho <;> rw [ho] <;> dsimp only
    · exact fuelSound_proveFlame kept holds
    · exact fuelSound_failAttempt kept holds
    · exact kept
  · have kept := moved hp (hsup'.trans hsup.symm)
    have supervised : ((s.mapChan c fun ch => { ch with burner := (ignitionStep s c).1 }).chan c).burner.supervising =
        true := by rw [State.chan_mapChan_self]; exact hsup'
    obtain ho | ho | ho := ho <;> rw [ho] <;> dsimp only
    · exact kept
    · exact fuelSound_loseFlame kept 0 supervised
    · exact fuelSound_loseFlame kept 1 supervised

end

/-! ### Every operation -/

theorem fuelSound_enterPaused (c : Chan) (causes : PauseCauses) {s : State} (hs : FuelSound s) :
    FuelSound (enterPaused c causes s) :=
  fuelSound_quenched hs c id
    (fun k => { k with state := .paused, causes := causes, target := resumeTargetOf (s.chan c).chc.state })
    (fun _ => by simp) (fun _ => by simp)

/-- A slot that is not current takes what it may, and the level of the step stands (R22, R24). -/
theorem level_load {p : Pgu} {n : Slot} (content : Option StepRecord) (h : p.current ≠ some n) :
    (p.load n content).level = p.level := by
  unfold Pgu.level Pgu.currentRecord Pgu.load
  dsimp only
  cases hc : p.current with
  | none => rfl
  | some m =>
    have hne : n.val ≠ m.val := fun he => h (hc.trans (congrArg some (Fin.ext he.symm)))
    simp [Pgu.slotAt, List.getElem?_set, hne]

theorem level_of_slots {p q : Pgu} (hslots : p.slots = q.slots) (hcurrent : p.current = q.current) :
    p.level = q.level := by
  have hslot : p.slotAt = q.slotAt := funext fun n => by rw [Pgu.slotAt, Pgu.slotAt, hslots]
  rw [Pgu.level, Pgu.level, Pgu.currentRecord, Pgu.currentRecord, hcurrent, hslot]

theorem keptByChannels_fuelSound : KeptByChannels FuelSound where
  startSlot c n s hs hi _ := fuelSound_startSlot c n hs hi
  endProgram c cause into s hs hinto _ := fuelSound_endProgram c cause hs hinto
  enterPaused c causes s hs _ := fuelSound_enterPaused c causes hs
  leavePaused c s hs hp := fuelSound_leavePaused c hs hp
  controller c k s hs hk := fuelSound_setChan_same { state := hk } hs
  delayed c p s hs _ hidle _ :=
    fuelSound_setChan_dark hs (by simp [hidle]) (lit_eq_false_of_state (by simp [hidle])) (by simp)
      (lit_eq_false_of_state (by simp))
  timers c p s hs hslots hcurrent :=
    fuelSound_setChan_same { level := level_of_slots hslots hcurrent } hs
  adjustLevel op v c s hs _ hi := fuelSound_adjustLevel op v c hs hi
  load c n content s hs hn _ := by
    by_cases hp : (s.chan c).chc.state.hasProgram = true
    · exact fuelSound_setChan_same { level := level_load content fun hc => hn ⟨hp, hc⟩ } hs
    · have hi : (s.chan c).chc.state ≠ .igniting := fun h => hp (by rw [h]; rfl)
      have hr : (s.chan c).chc.state ≠ .running := fun h => hp (by rw [h]; rfl)
      exact fuelSound_setChan_dark hs hi (lit_eq_false_of_state hr) hi (lit_eq_false_of_state hr)
  disabled c cause s hs hp := by
    have hi : (s.chan c).chc.state ≠ .igniting := fun h => by rw [h] at hp; cases hp
    have hr : (s.chan c).chc.state ≠ .running := fun h => by rw [h] at hp; cases hp
    exact fuelSound_setChan_dark hs hi (lit_eq_false_of_state hr) (by simp) (lit_eq_false_of_state (by simp))
  driver c d s hs _ := fuelSound_setChan_same {} hs
  burnerShare c s hs _ := fuelSound_burnerShare hs c
  purgeSecond c s hs := by
    unfold purgeSecond
    split_ifs with hp hlt
    · exact fuelSound_record hs _ rfl rfl
    · obtain ⟨hst, hk, hl, hsup, hv⟩ := igniting_of_phase hs (c := c) (by simp [hp])
      refine ((fuelExcept_of_phase hs (.inr hp)).setChan _).joinQueue ?_ ?_ ?_ ?_ ?_ <;> rw [State.chan_setChan_self]
      exacts [hst, hk, hl, hsup, hv (by rw [hp]; rfl)]
    · exact hs

theorem keptAnywhere_fuelSound : KeptAnywhere FuelSound where
  toKeptByChannels := keptByChannels_fuelSound
  recompute s hs := fuelSound_of_same (by simp)
    (fun c => ⟨by simp, by simp, by simp, by simp, by simp⟩) hs
  unseen s t h hs := fuelSound_of_same h.igu (fun c => by rw [State.chan, State.chan, h.chans]; exact {}) hs
  rpu _ _ hs _ := hs
  restore _ _ _ ht := ht
  claim c k s hs _ := fuelSound_setChan_same {} hs
  gated c b s hs := fuelSound_setChan_same {} hs
  base _ _ _ hs _ _ := hs
  taken _ _ hs := hs
  gib _ _ hs _ := hs
  peers _ _ hs _ := hs
  interval _ _ hs _ := hs
  ownSendAge _ _ hs _ := hs
  stateSet _ _ hs _ := hs
  replies _ _ hs _ := hs
  close _ hs := hs
  clearLockout c s hs := by
    obtain h | ⟨hlock, h⟩ := clearLockout_cases c s <;> rw [h]
    · exact hs
    · exact fuelSound_of_same (raise_igu _ _) (fun d => by rw [raise_chan]; exact {}) <|
        fuelSound_setChan_dark hs (by simp [hlock]) (lit_eq_false_of_state (by simp [hlock])) (by simp)
          (lit_eq_false_of_state (by simp))
  configure c k b s hs hst := by
    have hi : (s.chan c).chc.state ≠ .igniting := by obtain h | h := hst <;> simp [h]
    have hr : (s.chan c).chc.state ≠ .running := by obtain h | h := hst <;> simp [h]
    obtain ⟨hp, hsup, hv⟩ := dark_of_state hs hi (lit_eq_false_of_state hr)
    exact fuelSound_setChan_dark hs hi (lit_eq_false_of_state hr) hi (lit_eq_false_of_state hr) (hv := hv.symm)
  storeBurner c b s hs := fuelSound_setChan_same {} hs

theorem fuelSound_afterReset (cause : ResetCause) (pf : Bool) (bits : Quad Bool) (pins : Pins) (l : List Instr) :
    FuelSound (.afterReset cause pf bits pins l) := by
  refine ⟨List.nodup_nil, fun _ => rfl, fun h => absurd h (by simp [State.afterReset]), fun c => ?_⟩
  have dark : OffLine (.reset (bits.get c)) := by
    refine offLine_of_dark rfl ?_ (lit_eq_false_of_state ?_) rfl rfl <;>
      cases h : bits.get c <;> simp [Channel.reset]
  have hc : (State.afterReset cause pf bits pins l).chan c = .reset (bits.get c) := by
    simp [State.afterReset, State.chan]
  rw [hc]
  exact dark.fuelAt (by simp [State.afterReset]) (by simp [State.afterReset])

/-- With every valve closed and no spark, ignition and flame are as sound as before (R19). -/
theorem fuelSound_inactiveOutputs {s : State} (hs : FuelSound s) : FuelSound (inactiveOutputs s) := by
  obtain ⟨hnodup, hwaits, -, hfuel⟩ := hs
  refine ⟨hnodup, hwaits, fun h => absurd h (by simp [inactiveOutputs]), fun c => ?_⟩
  have hc : (inactiveOutputs s).chan c =
      { s.chan c with driver := { (s.chan c).driver with output := false }, valve := 0 } := by
    simp [inactiveOutputs, State.chan]
  obtain ⟨h1, h2, h3, h4, h5, -⟩ := hfuel c
  rw [hc]
  exact ⟨h1, h2, h3, h4, h5, fun h => absurd h (by simp)⟩

/-- Settles O10: a channel leaves or joins the ignition unit's line with what becomes of it, and all else stays off it. -/
theorem stepKeepsFuelSound : Obligations.StepKeepsFuelSound := by
  intro s t hs ht
  exact keptAnywhere_fuelSound.step (fun _ => fuelSound_inactiveOutputs) (fun _ _ _ _ => fuelSound_afterReset _ _ _ _ _)
    (fun _ _ hu => hu) hs ht

end Sys2Proof.Machine
end

section
/-! SUPPORT. The time base and the station state stay in agreement, and SAFE without element programs (R2 to R15). -/

namespace Sys2Proof.Machine

/-! ### What is kept while time base and station stand -/

/-- No share and no report moves time base and station state but by name. -/
theorem kept_mtb_ssv (m : Mtb) (v : Ssv) : Kept fun s => s.mtb = m ∧ s.ssv = v where
  toKeptByChannels := keptByChannels_of_acts fun s t h hs => by rw [h.mtb, h.ssv]; exact hs
  recompute s hs := by simpa using hs
  unseen s t h hs := by rw [h.mtb, h.ssv]; exact hs
  rpu _ _ hs _ := hs
  restore _ _ _ ht := ht
  claim _ _ _ hs _ := hs
  gated _ _ _ hs := hs

/-- In SAFE the relay is released and no element has a program (R14). -/
abbrev SafeSound (s : State) : Prop :=
  s.ssv.station = .safe →
    s.ssv.relay = false ∧
    ∀ c : Chan, (s.chan c).cfg.kind.isElement = true → (s.chan c).chc.state.hasProgram = false

theorem safeSound_of_acts {s t : State} (h : Acts s t) (hs : SafeSound s) : SafeSound t := by
  intro hsafe
  rw [h.ssv] at hsafe ⊢
  obtain ⟨hrelay, hprograms⟩ := hs hsafe
  refine ⟨hrelay, fun c hel => ?_⟩
  rw [(h.channel c).cfg] at hel
  have none := hprograms c hel
  rw [← Bool.not_eq_true] at none ⊢
  exact fun hp => none ((h.channel c).program hsafe hel hp)

/-- A change that leaves station, relay and every controller. -/
theorem safeSound_of_same {s t : State} (hst : t.ssv.station = s.ssv.station) (hr : t.ssv.relay = s.ssv.relay)
    (hc : ∀ c, (t.chan c).chc = (s.chan c).chc) (hcfg : ∀ c, (t.chan c).cfg = (s.chan c).cfg) (hs : SafeSound s) :
    SafeSound t := by
  intro hsafe
  obtain ⟨hrelay, hprograms⟩ := hs (hst ▸ hsafe)
  exact ⟨hr.trans hrelay, fun c hel => by rw [hc]; exact hprograms c (by rw [← hcfg]; exact hel)⟩

theorem safeSound_setChan {s : State} {c : Chan} {ch : Channel} (hc : ch.chc = (s.chan c).chc)
    (hcfg : ch.cfg = (s.chan c).cfg) (hs : SafeSound s) : SafeSound (s.setChan c ch) := by
  refine safeSound_of_same (s := s) rfl rfl (fun d => ?_) (fun d => ?_) hs <;>
    · by_cases hd : d = c
      · subst hd; rw [State.chan_setChan_self]; assumption
      · rw [State.chan_setChan_ne _ _ _ _ hd]

theorem kept_safeSound : Kept SafeSound where
  toKeptByChannels := keptByChannels_of_acts fun _ _ => safeSound_of_acts
  recompute s hs := safeSound_of_same (s := s) (by simp) (by simp) (fun c => by simp) (fun c => by simp) hs
  unseen s t h hs := by
    have hc (c : Chan) : t.chan c = s.chan c := by rw [State.chan, State.chan, h.chans]
    exact safeSound_of_same (s := s) (by rw [h.ssv]) (by rw [h.ssv]) (fun c => by rw [hc]) (fun c => by rw [hc]) hs
  rpu _ _ hs _ := hs
  restore _ _ _ ht := ht
  claim c k s hs _ := safeSound_setChan rfl rfl hs
  gated c b s hs := safeSound_setChan rfl rfl hs

/-! ### Time base and station -/

/-- What TimeBaseSound says of the time base alone. -/
abbrev MtbSound (m : Mtb) : Prop :=
  m.run ≤ 3 ∧ (m.mode = .measuring ↔ m.frequency = none) ∧ (m.mode = .tracking ↔ m.missingTimer.isSome = true) ∧
  (m.mode = .missing ↔ m.rideTimer.isSome = true) ∧ (m.mode = .missing → m.returnRun ≤ 9) ∧
  (m.mode = .measuring → m.prescaler = 0) ∧ (m.frequency.isSome = true → m.prescaler < perSecond m.frequency)

/-- What StationSound says of the station state and the mode. -/
abbrev StationAgrees (m : Mtb) (v : Ssv) : Prop :=
  (v.station = .mainsWait → m.mode = .measuring) ∧
  (v.station = .listen ∨ v.station = .active → m.mode = .tracking) ∧
  (v.station = .rideThrough → m.mode = .missing ∧ (v.prior = some .listen ∨ v.prior = some .active))

/-- Time base and station are sound, but for the marks of what has been taken. -/
abbrev ClockSound (s : State) : Prop := MtbSound s.mtb ∧ StationAgrees s.mtb s.ssv ∧ SafeSound s

theorem clockSound_iff (s : State) :
    TimeBaseSound s ∧ StationSound s ↔
      ClockSound s ∧ (.gates ∈ s.taken ↔ .manualReset ∈ s.taken) ∧ ∀ c : Chan, .hold c ∈ s.taken ↔ .interval ∈ s.taken := by
  constructor
  · rintro ⟨⟨h1, h2, h3, h4, h5, h6, h7, h8, h9⟩, k1, k2, k3, k4⟩
    exact ⟨⟨⟨h1, h2, h3, h4, h5, h6, h7⟩, ⟨k1, k2, k3⟩, k4⟩, h8, h9⟩
  · rintro ⟨⟨⟨h1, h2, h3, h4, h5, h6, h7⟩, ⟨k1, k2, k3⟩, k4⟩, h8, h9⟩
    exact ⟨⟨h1, h2, h3, h4, h5, h6, h7, h8, h9⟩, k1, k2, k3, k4⟩

/-- What keeps time base, station and SAFE keeps their soundness. -/
theorem clockSound_of_kept {s t : State} (h : t.mtb = s.mtb ∧ t.ssv = s.ssv) (hsafe : SafeSound t)
    (hs : ClockSound s) : ClockSound t := by
  obtain ⟨hm, hv, -⟩ := hs
  exact ⟨by rw [h.1]; exact hm, by rw [h.1, h.2]; exact hv, hsafe⟩

theorem kept_clockSound : Kept ClockSound where
  toKeptByChannels := keptByChannels_of_acts fun _ _ h hs =>
    clockSound_of_kept ⟨h.mtb, h.ssv⟩ (safeSound_of_acts h hs.2.2) hs
  recompute s hs := clockSound_of_kept (s := s) (by simp) (kept_safeSound.recompute s hs.2.2) hs
  unseen s t h hs := clockSound_of_kept ⟨h.mtb, h.ssv⟩ (kept_safeSound.unseen s t h hs.2.2) hs
  rpu _ _ hs _ := hs
  restore _ _ _ ht := ht
  claim c k s hs hk := clockSound_of_kept (s := s) ⟨rfl, rfl⟩ (kept_safeSound.claim c k s hs.2.2 hk) hs
  gated c b s hs := clockSound_of_kept (s := s) ⟨rfl, rfl⟩ (kept_safeSound.gated c b s hs.2.2) hs

theorem keptByLine_clockSound : KeptByLine ClockSound where
  toKept := kept_clockSound
  stateSet _ _ hs _ := hs
  gib _ _ hs _ := hs
  peers _ _ hs _ := hs
  sent _ hs := hs
  noteClash a s hs := by
    obtain h | h | h := noteClash_cases a s <;> rw [h]
    · exact hs
    · exact hs
    · exact kept_clockSound.recompute _ hs
  flags _ _ _ hs _ := hs
  close _ hs := hs
  configure c k b s hs hsafe _ := ⟨hs.1, hs.2.1, fun h => absurd h hsafe⟩
  storeBurner c b s hs := by
    refine ⟨hs.1, hs.2.1, fun hsafe => ?_⟩
    obtain ⟨hrelay, hprograms⟩ := hs.2.2 hsafe
    exact ⟨hrelay, fun d => forall_chan_setChan (s := s) (c := c) (ch := storeBurner b (s.chan c))
      (R := fun ch => ch.cfg.kind.isElement = true → ch.chc.state.hasProgram = false) id hprograms d⟩
  replies _ _ hs _ := hs

/-- What channel `c`'s turn reaches, and the later turns keep, holds of every channel after the four turns. -/
theorem forChans_reaches {I : State → Prop} {R : Chan → State → Prop} {f : Chan → State → State}
    (hI : ∀ c s, I s → I (f c s)) (hreach : ∀ c s, I s → R c (f c s))
    (hkeep : ∀ c d s, I s → R d s → R d (f c s)) {s : State} (hs : I s) (c : Chan) : R c (forChans f s) := by
  have i0 := hI 0 _ hs
  have i1 := hI 1 _ i0
  have i2 := hI 2 _ i1
  unfold forChans
  fin_cases c
  · exact hkeep 3 _ _ i2 (hkeep 2 _ _ i1 (hkeep 1 _ _ i0 (hreach 0 _ hs)))
  · exact hkeep 3 _ _ i2 (hkeep 2 _ _ i1 (hreach 1 _ i0))
  · exact hkeep 3 _ _ i2 (hreach 2 _ i1)
  · exact hreach 3 _ i2

/-- On entry to SAFE every element program ends (R14, R62). -/
theorem safeSound_enterSafe {s : State} (hs : SafeSound s) : SafeSound (enterSafe s) := by
  unfold enterSafe
  split
  · exact hs
  · have entered := acts_forChans acts_safeChannel
      { s with ssv := { s.ssv with station := .safe, prior := none, relay := false } }
    intro _
    refine ⟨by rw [entered.ssv], ?_⟩
    refine forChans_reaches (I := fun u => u.ssv.station = .safe)
      (R := fun c u => (u.chan c).cfg.kind.isElement = true → (u.chan c).chc.state.hasProgram = false)
      (fun c u hu => by rw [(acts_safeChannel c u).ssv]; exact hu) (fun c u _ hel => ?_) (fun c d u hu hd hel => ?_) rfl
    · rw [((acts_safeChannel c u).channel c).cfg] at hel
      unfold safeChannel endIfProgram
      rw [if_pos hel]
      split
      · rw [(endProgram_self c .safe .idle u).1]; rfl
      · exact Bool.eq_false_iff.2 ‹_›
    · have act := (acts_safeChannel c u).channel d
      rw [act.cfg] at hel
      exact Bool.eq_false_iff.2 fun hp => Bool.eq_false_iff.1 (hd hel) (act.program hu hel hp)

theorem enterSafe_mtb (s : State) : (enterSafe s).mtb = s.mtb := by
  obtain ⟨-, h⟩ | ⟨-, h⟩ := enterSafe_cases s
  · rw [h]
  · exact h.mtb

theorem enterSafe_ssv (s : State) :
    (enterSafe s).ssv = if s.ssv.station = .safe then s.ssv
      else { s.ssv with station := .safe, prior := none, relay := false } := by
  obtain ⟨hs, h⟩ | ⟨hs, h⟩ := enterSafe_cases s
  · rw [h, if_pos hs]
  · rw [h.ssv, if_neg hs]

theorem clockSound_enterSafe {s : State} (hs : ClockSound s) : ClockSound (enterSafe s) := by
  refine ⟨by rw [enterSafe_mtb]; exact hs.1, ?_, safeSound_enterSafe hs.2.2⟩
  rw [enterSafe_ssv, enterSafe_mtb]
  split
  · exact hs.2.1
  · exact ⟨by simp, by simp, by simp⟩

/-! ### The reports of the time base -/

theorem mtbSound_frequencySet (f : Frequency) {m : Mtb} (h : MtbSound m) (hm : m.mode = .measuring) :
    MtbSound (m.frequencySet f) := by
  obtain ⟨hrun, -, -, hride, -⟩ := h
  refine ⟨hrun, by simp [Mtb.frequencySet], by simp [Mtb.frequencySet], ?_, by simp [Mtb.frequencySet],
    by simp [Mtb.frequencySet], fun _ => ?_⟩
  · simpa [Mtb.frequencySet, hm] using hride
  · cases f <;> simp [Mtb.frequencySet, perSecond, hertz]

theorem stationAgrees_frequencySet (f : Frequency) (m : Mtb) (v : Ssv) :
    StationAgrees (m.frequencySet f) v.frequencySet := by
  unfold Ssv.frequencySet
  split
  case isTrue hs => simp [StationAgrees, hs]
  case isFalse => simp [StationAgrees, Mtb.frequencySet]

theorem mtbSound_mainsAbsent {m : Mtb} (h : MtbSound m) (hm : m.mode = .tracking) : MtbSound m.mainsAbsent := by
  obtain ⟨hrun, hfreq, -, -, -, -, hpre⟩ := h
  exact ⟨hrun, by simpa [Mtb.mainsAbsent, hm] using hfreq, by simp [Mtb.mainsAbsent], by simp [Mtb.mainsAbsent],
    by simp [Mtb.mainsAbsent], by simp [Mtb.mainsAbsent], hpre⟩

theorem stationAgrees_mainsAbsent {m : Mtb} {v : Ssv} (h : StationAgrees m v) (hm : m.mode = .tracking) :
    StationAgrees m.mainsAbsent v.mainsAbsent := by
  obtain ⟨hwait, -, hride⟩ := h
  cases hv : v.station <;> simp_all [StationAgrees, Ssv.mainsAbsent, Mtb.mainsAbsent]

theorem mtbSound_mainsRestored {m : Mtb} (h : MtbSound m) (hm : m.mode = .missing) : MtbSound m.mainsRestored := by
  obtain ⟨hrun, hfreq, -, -, -, -, hpre⟩ := h
  exact ⟨hrun, by simpa [Mtb.mainsRestored, hm] using hfreq, by simp [Mtb.mainsRestored], by simp [Mtb.mainsRestored],
    by simp [Mtb.mainsRestored], by simp [Mtb.mainsRestored], hpre⟩

theorem stationAgrees_mainsRestored {m : Mtb} {v : Ssv} (h : StationAgrees m v) (hm : m.mode = .missing) :
    StationAgrees m.mainsRestored v.mainsRestored := by
  obtain ⟨hwait, hruns, hride⟩ := h
  unfold Ssv.mainsRestored
  split
  case isTrue hv => obtain hp | hp := (hride hv).2 <;> simp [StationAgrees, Mtb.mainsRestored, hp]
  case isFalse hv =>
    refine ⟨fun h => absurd (hwait h) (by simp [hm]), fun _ => rfl, fun h => absurd h hv⟩

theorem mtbSound_mainsFailed {m : Mtb} (h : MtbSound m) : MtbSound m.mainsFailed := by
  obtain ⟨hrun, -⟩ := h
  exact ⟨hrun, by simp [Mtb.mainsFailed], by simp [Mtb.mainsFailed], by simp [Mtb.mainsFailed],
    by simp [Mtb.mainsFailed], by simp [Mtb.mainsFailed], by simp [Mtb.mainsFailed]⟩

/-- The station state and SAFE survive a change of time base and of the station record that keeps SAFE and the relay. -/
theorem safeSound_of_ssv {s t : State} (hc : t.chans = s.chans) (hst : t.ssv.station = .safe → s.ssv.station = .safe)
    (hr : t.ssv.station = .safe → t.ssv.relay = s.ssv.relay) (hs : SafeSound s) : SafeSound t := by
  intro hsafe
  obtain ⟨hrelay, hprograms⟩ := hs (hst hsafe)
  refine ⟨(hr hsafe).trans hrelay, fun c => ?_⟩
  rw [State.chan, hc]
  exact hprograms c

theorem clockSound_mainsFailed (order : List Chan) {s : State} (hs : ClockSound s) :
    ClockSound (reportMainsFailed order s) := by
  obtain ⟨hm, -, hsafe⟩ := hs
  have failed : SafeSound { s with mtb := s.mtb.mainsFailed } := hsafe
  obtain ⟨hmtb, hssv⟩ := (kept_mtb_ssv s.mtb.mainsFailed s.ssv).programsFailed order (s := { s with mtb := s.mtb.mainsFailed })
    (t := { s with mtb := s.mtb.mainsFailed }) ⟨rfl, rfl⟩ ⟨rfl, rfl⟩
  have ended := kept_safeSound.programsFailed order (s := { s with mtb := s.mtb.mainsFailed }) failed failed
  have cleared {u : State} (hu : ClockSound u) :
      ClockSound (clearHolds (recompute (clearFilters (emptyPeers { u with ssv := { u.ssv with powerFail := true } })))) :=
    kept_clockSound.clearHolds (kept_clockSound.recompute _ hu)
  unfold reportMainsFailed
  dsimp only
  split
  case isTrue hst =>
    refine cleared ⟨?_, ?_, ended⟩
    · exact (congrArg MtbSound hmtb).mpr (mtbSound_mainsFailed hm)
    · exact ⟨fun h => absurd (hst.symm.trans h) (by simp), fun h => absurd h (by simp [hst]),
        fun h => absurd (hst.symm.trans h) (by simp)⟩
  case isFalse =>
    refine cleared ⟨?_, ⟨fun _ => ?_, ?_, ?_⟩, ?_⟩
    · exact (congrArg MtbSound hmtb).mpr (mtbSound_mainsFailed hm)
    · exact (congrArg Mtb.mode hmtb).trans rfl
    · simp [enterMainsWait, withdrawRequest]
    · simp [enterMainsWait, withdrawRequest]
    · exact fun h => absurd h (by simp [enterMainsWait, withdrawRequest])

theorem keptByClock_clockSound : KeptByClock (fun s => ClockSound s) where
  toKept := kept_clockSound
  taken _ _ hs := hs
  gib _ _ hs _ := hs
  clearLockout c s hs := by
    obtain h | ⟨hlock, h⟩ := clearLockout_cases c s <;> rw [h]
    · exact hs
    · refine kept_clockSound.raise _ ⟨hs.1, hs.2.1, fun hsafe => ?_⟩
      obtain ⟨hrelay, hprograms⟩ := hs.2.2 hsafe
      refine ⟨hrelay, fun d => forall_chan_setChan (s := s)
        (R := fun ch => ch.cfg.kind.isElement = true → ch.chc.state.hasProgram = false) (fun _ _ => rfl) hprograms d⟩
  interval _ _ hs _ := hs
  peers _ _ hs _ := hs
  ageOwnSend s hs := by
    unfold ageOwnSend
    dsimp only
    split
    · exact kept_clockSound.recompute _ hs
    · exact hs
  countListen s hs ht := by
    unfold countListen becomeActive
    split_ifs with hl
    · exact hs
    · exact kept_clockSound.recompute _ ⟨hs.1, ⟨by simp, fun _ => ht, by simp⟩, fun h => absurd h (by simp)⟩
    · exact hs
  clashQuiet _ _ hs _ := hs
  enterSafe s hs := kept_clockSound.recompute _ (kept_clockSound.makeRequest (clockSound_enterSafe hs))
  prescaler n s hs ht hn := by
    obtain ⟨⟨h1, h2, h3, h4, h5, -, -⟩, hrest⟩ := hs
    exact ⟨⟨h1, h2, h3, h4, h5, fun h => absurd (ht.symm.trans h) (by simp), hn⟩, hrest⟩
  clock m s hs h := by
    obtain ⟨⟨h1, h2, h3, h4, h5, h6, h7⟩, hagree, hsafe⟩ := hs
    refine ⟨⟨h.run h1, ?_, ?_, ?_, ?_, ?_, ?_⟩, ?_, hsafe⟩
    · rw [h.mode, h.frequency]; exact h2
    · rw [h.mode, h.missing]; exact h3
    · rw [h.mode, h.ride]; exact h4
    · rw [h.mode]; exact fun hm => h.returnRun hm (h5 hm)
    · rw [h.mode, h.prescaler]; exact h6
    · rw [h.frequency, h.prescaler]; exact h7
    · dsimp only [StationAgrees] at hagree ⊢; rw [h.mode]; exact hagree
  restart s hs ht := by
    obtain ⟨⟨h1, h2, -, h4⟩, hrest⟩ := hs
    exact ⟨⟨h1, h2, by simp [ht], h4⟩, hrest⟩
  frequencySet f s hs hm := by
    refine kept_clockSound.recompute _ (kept_clockSound.resumeDriver (kept_clockSound.makeRequest
      ⟨mtbSound_frequencySet f hs.1 hm, stationAgrees_frequencySet f _ _, ?_⟩))
    refine safeSound_of_ssv (s := s) rfl ?_ ?_ hs.2.2 <;> dsimp only [Ssv.frequencySet] <;> split <;> simp [*]
  mainsAbsent s hs hm := by
    refine kept_clockSound.recompute _ (kept_clockSound.afterAbsent _
      ⟨mtbSound_mainsAbsent hs.1 hm, stationAgrees_mainsAbsent hs.2.1 hm, ?_⟩)
    refine safeSound_of_ssv (s := s) rfl ?_ ?_ hs.2.2 <;> dsimp only [Ssv.mainsAbsent] <;> split <;> simp
  mainsRestored s hs hm := by
    refine kept_clockSound.recompute _ (kept_clockSound.afterRestored _
      ⟨mtbSound_mainsRestored hs.1 hm, stationAgrees_mainsRestored hs.2.1 hm, ?_⟩)
    obtain ⟨-, ⟨-, -, hride⟩, hsafe⟩ := hs
    refine safeSound_of_ssv (s := s) rfl ?_ ?_ hsafe <;> dsimp only [Ssv.mainsRestored] <;> split
    case refine_1.isTrue h => obtain hp | hp := (hride h).2 <;> simp [hp]
    all_goals simp
  mainsFailed order s hs _ := clockSound_mainsFailed order hs

end Sys2Proof.Machine
end

section
/-! Settles O12: the marks of what has been taken keep the events whole. -/

namespace Sys2Proof.Machine

/-- What a unit does at a half-cycle marks nothing as taken. -/
theorem keptByUnits_taken (l : List HalfCycleUnit) : KeptByUnits fun s => s.taken = l where
  toKeptByChannels := keptByChannels_of_acts fun s t h hs => by rw [h.station]; exact hs
  recompute s hs := by simpa using hs
  unseen s t h hs := by rw [h.taken]; exact hs
  rpu _ _ hs _ := hs
  restore _ _ _ ht := ht
  claim _ _ _ hs _ := hs
  gated _ _ _ hs := hs
  gib _ _ hs _ := hs
  clearLockout c s hs := by rw [acts_clearLockout_station]; exact hs
  interval _ _ hs _ := hs
  peers _ _ hs _ := hs
  ageOwnSend s hs := by unfold ageOwnSend; dsimp only; split <;> simpa using hs
  countListen s hs _ := by unfold countListen becomeActive; split_ifs <;> simpa using hs
  clashQuiet _ _ hs _ := hs
  enterSafe s hs := by
    rw [recompute_taken, makeRequest_taken]
    obtain ⟨-, h⟩ | ⟨-, h⟩ := enterSafe_cases s
    · rw [h]; exact hs
    · rw [h.station]; exact hs
  prescaler _ _ hs _ _ := hs

/-! ### Units that begin nothing within a half-cycle -/

/-- The units of the gate input block, and the holds and the interval: no share of another marks them (R77, R79, R151). -/
def beginsApart (u : HalfCycleUnit) : Bool :=
  match u with
  | .gates | .manualReset | .hold _ | .interval => true
  | .program _ | .driver _ | .ignition _ | .prescaler | .purge _ => false

theorem not_mem_begun {u : HalfCycleUnit} (hu : beginsApart u = true) (s t : State) : u ∉ begun s t := by
  unfold begun newHolder newlyProven newPurges
  intro h
  simp only [List.mem_append, List.mem_map] at h
  obtain (h | ⟨c, -, rfl⟩) | ⟨c, -, rfl⟩ := h
  · split at h
    · simp at h
    · obtain ⟨c, -, rfl⟩ := Option.map_eq_some_iff.1 (Option.mem_toList.1 h)
      simp [beginsApart] at hu
  · simp [beginsApart] at hu
  · simp [beginsApart] at hu

theorem mem_deliverOne {rising : Bool} {u v : HalfCycleUnit} {s : State}
    (hv : beginsApart v = true) : v ∈ (deliverOne rising u s).taken ↔ v ∈ s.taken ∨ v = u := by
  by_cases hu : u ∈ s.taken
  · rw [deliverOne_taken _ _ _ hu]
    exact ⟨.inl, fun h => h.elim id fun h => h ▸ hu⟩
  · rw [deliverOne_untaken _ _ _ hu]
    have := not_mem_begun hv s (unitShare rising u s)
    simp [this, or_comm]

/-- A unit that begins with no other has taken its share after a delivery if it had, or was among those delivered. -/
theorem mem_foldl_deliverOne {rising : Bool} {us : List HalfCycleUnit} {v : HalfCycleUnit} {s : State}
    (hv : beginsApart v = true) :
    v ∈ (us.foldl (fun s u => deliverOne rising u s) s).taken ↔ v ∈ s.taken ∨ v ∈ us := by
  induction us generalizing s with
  | nil => simp
  | cons u us ih =>
    rw [List.foldl_cons, ih, mem_deliverOne hv, List.mem_cons]
    tauto

/-! ### Events taken whole -/

/-- The gates and MR, and the holds and the interval, have taken the coming half-cycle together (R77, R79, R151). -/
abbrev TakenWhole (l : List HalfCycleUnit) : Prop :=
  (.gates ∈ l ↔ .manualReset ∈ l) ∧ ∀ c : Chan, .hold c ∈ l ↔ .interval ∈ l

/-- The event of a unit is that of all or of none of them. -/
theorem takenWhole_event (u : HalfCycleUnit) : TakenWhole (earlierShares u ++ u :: companions u) := by
  cases u <;> simp [TakenWhole, earlierShares, companions]
  case hold c => intro d; exact (em (d = c)).imp_right fun h => ⟨by fin_cases d <;> decide, h⟩
  case interval => intro d; simp only [allChans]; fin_cases d <;> simp

theorem deliverEvent_eq_foldl (rising : Bool) (u : HalfCycleUnit) (s : State) :
    deliverEvent rising u (lead rising u s) =
      (earlierShares u ++ u :: companions u).foldl (fun s v => deliverOne rising v s) s := by
  rw [List.foldl_append, List.foldl_cons]
  rfl

/-- The event of a unit leaves events taken whole. -/
theorem takenWhole_deliverEvent (rising : Bool) (u : HalfCycleUnit) {s : State} (hs : TakenWhole s.taken) :
    TakenWhole (deliverEvent rising u (lead rising u s)).taken := by
  obtain ⟨hgates, hholds⟩ := hs
  obtain ⟨egates, eholds⟩ := takenWhole_event u
  rw [deliverEvent_eq_foldl]
  constructor
  · rw [mem_foldl_deliverOne rfl, mem_foldl_deliverOne rfl, hgates, egates]
  · intro c
    rw [mem_foldl_deliverOne rfl, mem_foldl_deliverOne rfl, hholds, eholds]

theorem takenWhole_takeShare (u : HalfCycleUnit) (due : State → Bool) {s : State} (hs : TakenWhole s.taken) :
    TakenWhole (takeShare u due s).taken := by
  obtain ⟨-, -, h⟩ | ⟨-, h⟩ := takeShare_cases u due s _ rfl <;> rw [h]
  · exact takenWhole_deliverEvent _ u hs
  · exact hs

theorem noteSpark_taken (u : HalfCycleUnit) (s : State) : (noteSpark u s).taken = s.taken := by
  cases u <;> rfl

theorem takenWhole_takeShareWith (pins : InputPins) (u : HalfCycleUnit) (due : State → Bool) {s : State}
    (hs : TakenWhole s.taken) : TakenWhole (takeShareWith pins u due s).taken := by
  obtain ⟨-, -, h⟩ | ⟨-, h⟩ := takeShareWith_cases pins u due s _ rfl <;> rw [h]
  · rw [noteSpark_taken]
    exact takenWhole_deliverEvent _ u (s := withInputs pins s) hs
  · exact hs

/-! ### Samples -/

theorem reportFrequencySet_taken (f : Frequency) (s : State) : (reportFrequencySet f s).taken = s.taken := by
  simp [reportFrequencySet]

theorem reportMainsRestored_taken (s : State) : (reportMainsRestored s).taken = s.taken :=
  (recompute_taken _).trans ((keptByUnits_taken s.taken).toKept.afterRestored _ rfl)

theorem reportMainsAbsent_taken (s : State) : (reportMainsAbsent s).taken = [] :=
  (recompute_taken _).trans ((keptByUnits_taken []).toKept.afterAbsent _ rfl)

theorem reportMainsFailed_taken (order : List Chan) (s : State) : (reportMainsFailed order s).taken = s.taken := by
  have hK := (keptByUnits_taken s.taken).toKept
  have ended := hK.programsFailed order (s := s) (t := { s with mtb := s.mtb.mainsFailed }) rfl rfl
  unfold reportMainsFailed
  dsimp only
  split <;> exact hK.clearHolds (hK.recompute _ ended)

theorem takeCrossing_taken (order : List HalfCycleUnit) (s : State) :
    (takeCrossing order s).taken = s.taken ∨ (takeCrossing order s).taken = [] := by
  unfold takeCrossing measureCrossing returnCrossing halfCycle
  dsimp only
  split
  · left
    split_ifs
    · rfl
    · rfl
    · split
      · exact reportFrequencySet_taken _ _
      · rfl
  · exact .inr rfl
  · left
    split_ifs
    · rfl
    · rfl
    · exact reportMainsRestored_taken s

theorem expireTimers_taken (turns : List Chan) (s : State) :
    (expireTimers turns s).taken = s.taken ∨ (expireTimers turns s).taken = [] := by
  unfold expireTimers
  split_ifs
  · exact .inr (reportMainsAbsent_taken s)
  · exact .inl (reportMainsFailed_taken turns s)
  · exact .inl rfl

theorem takenWhole_takeSample (level : Bool) (order : List HalfCycleUnit) (turns : List Chan) {s : State}
    (hs : TakenWhole s.taken) : TakenWhole (takeSample level order turns s).taken := by
  have none : TakenWhole [] := by simp [TakenWhole]
  unfold takeSample
  dsimp only
  obtain h | h := expireTimers_taken turns (if (filterStep level (clocked s)).2 = true then
    takeCrossing order { s with
      mtb := (filterStep level (clocked s)).1, pins := { s.pins with zx := level }, clockTaken := false }
    else { s with
      mtb := (filterStep level (clocked s)).1, pins := { s.pins with zx := level }, clockTaken := false }) <;> rw [h]
  · split
    · obtain h | h := takeCrossing_taken order { s with
        mtb := (filterStep level (clocked s)).1, pins := { s.pins with zx := level }, clockTaken := false } <;> rw [h]
      · exact hs
      · exact none
    · exact hs
  · exact none

/-! ### Every command -/

theorem keptByLine_takenWhole : KeptByLine fun s => TakenWhole s.taken where
  toKept :=
    { toKeptByChannels := keptByChannels_of_acts fun s t h hs => by rw [h.station]; exact hs
      recompute := fun s hs => by rw [recompute_taken]; exact hs
      unseen := fun s t h hs => by rw [h.taken]; exact hs
      rpu := fun _ _ hs _ => hs
      restore := fun _ _ _ ht => ht
      claim := fun _ _ _ hs _ => hs
      gated := fun _ _ _ hs => hs }
  stateSet _ _ hs _ := hs
  gib _ _ hs _ := hs
  peers _ _ hs _ := hs
  sent _ hs := hs
  noteClash a s hs := by
    obtain h | h | h := noteClash_cases a s <;> rw [h]
    · exact hs
    · exact hs
    · rw [recompute_taken]; exact hs
  flags _ _ _ hs _ := hs
  close _ hs := hs
  configure _ _ _ _ hs _ _ := hs
  storeBurner _ _ _ hs := hs
  replies _ _ hs _ := hs

theorem takenWhole_resetAll (cause : ResetCause) (straps : BitVec 4) (s : State) :
    TakenWhole (resetAll cause straps s).taken := by
  simp [TakenWhole, resetAll, State.afterReset]

/-- Every command leaves the events of the coming half-cycle taken whole (R3). -/
theorem exec_takenWhole {i : Instr} {s t : State} (hs : TakenWhole s.taken) (ht : exec i s = .next t) :
    TakenWhole t.taken := by
  by_cases hline : isLineRow i = true
  · exact keptByLine_takenWhole.exec hline hs ht fun _ straps u _ => takenWhole_resetAll .lineReset straps u
  · by_cases hpow : isPowerRow i = false
    · exact clock_exec_keeps (P := fun s => TakenWhole s.taken) (by simpa using hline) hpow hs ht (fun _ _ hu => hu)
        (fun u due _ => takenWhole_takeShare u due hs) (fun pins u due _ => takenWhole_takeShareWith pins u due hs)
        (fun _ _ => takenWhole_takeSample _ _ _ hs)
        (fun pins _ _ => takenWhole_takeSample _ _ _ (s := withInputs pins s) hs)
        (fun _ => by simp [takeExpiry, reportMainsAbsent_taken, TakenWhole])
        (fun order _ => by simpa [takeExpiry, reportMainsFailed_taken] using hs)
    · cases i <;> simp [isPowerRow] at hpow <;> cases ht
      · exact hs
      · exact takenWhole_resetAll _ _ _

theorem clockSound_inactiveOutputs {s : State} (hs : ClockSound s) : ClockSound (inactiveOutputs s) := by
  obtain ⟨hm, hagree, hsafe⟩ := hs
  refine ⟨hm, hagree, fun hst => ⟨rfl, fun c => ?_⟩⟩
  simpa [inactiveOutputs, State.chan] using (hsafe hst).2 c

theorem clockSound_afterReset (cause : ResetCause) (pf : Bool) (bits : Quad Bool) (pins : Pins) (l : List Instr) :
    ClockSound (.afterReset cause pf bits pins l) := by
  refine ⟨?_, ?_, fun h => absurd h (by simp [State.afterReset])⟩
  · simp [MtbSound, State.afterReset, Mtb.reset]
  · simp [StationAgrees, State.afterReset, Mtb.reset]

/-- Settles O12: time base and station by the operations, and the marks of the coming half-cycle by the events. -/
theorem stepKeepsStationSound : Obligations.StepKeepsStationSound := by
  intro s t hbase hstation ht
  obtain ⟨hclock, htaken⟩ := (clockSound_iff s).1 ⟨hbase, hstation⟩
  refine (clockSound_iff t).2 ⟨step_keeps keptByLine_clockSound keptByClock_clockSound
    (fun _ => clockSound_inactiveOutputs) (fun _ _ _ _ => clockSound_afterReset _ _ _ _ _) (fun _ _ hu => hu) hclock ht, ?_⟩
  unfold step at ht
  split at ht
  case h_1 => cases ht; exact htaken
  case h_2 i rest _ => exact exec_takenWhole (s := { s with pending := rest }) htaken ht

end Sys2Proof.Machine
end

section
/-! Refutes O13: a ZX sample clears a lockout where the filter run stands beyond 3, which no sound time base has. -/

namespace Sys2Proof.Machine

/-- A station in TRACKING whose channels are locked out, the press of the manual reset one sample short, and the filter
run at 4: the next sample of the other sign is an accepted crossing, which the row of a crossing does not expect. -/
def overrunFilter : State :=
  { State.reset with
    mtb := { Mtb.reset with
      sign := some .positive, run := 4, mode := .tracking, frequency := some .hz50, missingTimer := some 0 }
    chans := .fill (.reset true)
    gib := { Gib.reset with mrOn := 99 }
    pins := { Pins.quiet with inputs := { Pins.quiet.inputs with mr := false } } }

theorem overrunFilter_clears :
    ∃ t, exec (.zxFilterSample false []) overrunFilter = .next t ∧ (t.chan 0).lockoutBit = false :=
  ⟨_, rfl, by decide⟩

/-- Refutes O13: in `overrunFilter`, where the filter run is 4 (TimeBaseSound bounds it by 3), the row ZX_FILTER_SAMPLE
takes the crossing and with it the press that clears the lockout bit, and it is none of the three rows named. -/
theorem not_onlyResetsUndoLatches : ¬ Obligations.OnlyResetsUndoLatches := by
  intro h
  obtain ⟨t, ht, hbit⟩ := overrunFilter_clears
  obtain ⟨-, -, hclear⟩ := h overrunFilter t (.zxFilterSample false []) 0 ht
  obtain ⟨hrow, -⟩ := hclear rfl hbit
  simp at hrow

end Sys2Proof.Machine
end

section
/-! Settles O1, O2, O3, O4, O5 and O6: the queue of commands, the loss of the supply and the resets. -/

namespace Sys2Proof.Machine

/-- Settles O1, by the definition of a step. -/
theorem stepTakesFrontCommand : Obligations.StepTakesFrontCommand := by
  intro s i rest h
  unfold step
  rw [h]

/-! ### The sender's queue -/

theorem keptAnywhere_pending (l : List Instr) : KeptAnywhere fun s => s.pending = l where
  toKeptByChannels := keptByChannels_of_acts fun s t h hs => by rw [h.station]; exact hs
  recompute s hs := by simpa using hs
  unseen s t h hs := by rw [h.pending]; exact hs
  rpu _ _ hs _ := hs
  restore _ _ _ ht := ht
  claim _ _ _ hs _ := hs
  gated _ _ _ hs := hs
  base _ _ _ hs _ _ := hs
  taken _ _ hs := hs
  gib _ _ hs _ := hs
  peers _ _ hs _ := hs
  interval _ _ hs _ := hs
  ownSendAge _ _ hs _ := hs
  stateSet _ _ hs _ := hs
  replies _ _ hs _ := hs
  close _ hs := hs
  clearLockout c s hs := by rw [acts_clearLockout_station]; exact hs
  configure _ _ _ _ hs _ := hs
  storeBurner _ _ _ hs := hs

theorem exec_pending {i : Instr} {s t : State} (ht : exec i s = .next t) : t.pending = s.pending := by
  have kept := keptAnywhere_pending s.pending
  by_cases hline : isLineRow i = true
  · exact kept.toLine.exec hline rfl ht fun _ _ _ hu => hu
  · by_cases hpow : isPowerRow i = false
    · exact kept.toClock.exec (by simpa using hline) hpow rfl ht
    · cases i <;> simp [isPowerRow] at hpow <;> cases ht <;> rfl

/-- No arm of `exec` stops or refuses. -/
theorem exec_next (i : Instr) (s : State) : ∃ t, exec i s = .next t := by
  cases i <;> exact ⟨_, rfl⟩

/-- Settles O2: no operation of which the commands are made touches the queue. -/
theorem queueBelongsToSender : Obligations.QueueBelongsToSender := by
  intro s i
  refine ⟨fun h => by unfold step; rw [h], ?_⟩
  obtain ⟨t, ht⟩ := exec_next i s
  exact ⟨t, ht, exec_pending ht⟩

/-! ### The supply -/

theorem live_held (f : State → State) {s : State} (h : s.held = true) : live f s = .next s := by
  simp [live, h]

theorem inactiveOutputs_chan (s : State) (c : Chan) :
    (inactiveOutputs s).chan c =
      { s.chan c with driver := { (s.chan c).driver with output := false }, valve := 0 } := by
  simp [inactiveOutputs, State.chan]

/-- Settles O3: every other row goes through `live`, which a held block does not let pass. -/
theorem supplyLossReleasesOutputsAndHolds : Obligations.SupplyLossReleasesOutputsAndHolds := by
  intro s i c
  refine ⟨⟨inactiveOutputs s, rfl, rfl, rfl, rfl, ?_⟩, fun hheld hpow => ?_⟩
  · rw [inactiveOutputs_chan]
    exact ⟨rfl, rfl, rfl, rfl, fun d => by rw [KeepsProgram, inactiveOutputs_chan]; exact ⟨rfl, rfl, rfl⟩⟩
  · cases i <;> simp [isPowerRow] at hpow <;> exact live_held _ hheld

/-! ### The resets -/

/-- Settles O4: each value is read off the reset. -/
theorem powerOnResetSetsEveryBlock : Obligations.PowerOnResetSetsEveryBlock := by
  intro s straps c
  have hc : (resetAll .powerOn straps s).chan c = .reset (s.chan c).lockoutBit := by
    simp [resetAll, State.afterReset, State.chan, lockoutBits]
  refine ⟨_, rfl, ?_⟩
  rw [hc]
  refine ⟨rfl, rfl, rfl, rfl, rfl, rfl, rfl, rfl, rfl, rfl, rfl, rfl, rfl, rfl, rfl, rfl, rfl, rfl, rfl, rfl, rfl, rfl,
    rfl, rfl, rfl, rfl, rfl, rfl, rfl, rfl, rfl, rfl, rfl, rfl, rfl, rfl⟩

theorem atCommand_powerFail (h : CmdHeader) (s : State) : (atCommand h s).ssv.powerFail = s.ssv.powerFail := by
  obtain hn | hn | hn := noteClash_cases h.source (setLine .closed s) <;> rw [atCommand, hn] <;> simp [setLine]

/-- A COMMAND that matches, on an open line, reaches its effect after the clash check (R170, R171). -/
theorem takeCommand_taken {h : CmdHeader} {s : State} (f : State → State)
    (hm : addressMatches s.ssv.address h = true) (hr : receptive s = true) : takeCommand h f s = f (atCommand h s) := by
  rw [takeCommand, hm, onlyIf_true, takeFrame_receptive _ _ _ hr]
  rfl

theorem replyRoom_atCommand (h : CmdHeader) (s : State) :
    replyRoom (atCommand h s) = decide (s.lif.replies.length < 4) := by
  rw [replyRoom, (atCommand_record h s).1]
  rfl

theorem resetAll_atCommand (h : CmdHeader) (straps : BitVec 4) (s : State) :
    resetAll .lineReset straps (atCommand h s) =
      .afterReset .lineReset s.ssv.powerFail (lockoutBits s) { s.pins with straps := straps } s.pending := by
  obtain ⟨-, hpins, -, -, -, -, -, -, -, -, -, -, -, -, -, -, -, hpending, hbits⟩ := (settles_atCommand h s).clockwork
  rw [resetAll, hpins, hpending, hbits, atCommand_powerFail]
  rfl

/-- Settles O5: the frame is judged for a clash, and the room in the REPLY queue decides. -/
theorem resetStationNeedsRoomForAReply : Obligations.ResetStationNeedsRoomForAReply := by
  intro s h straps code run
  refine ⟨fun ⟨hheld, hmatch, hline, hroom⟩ => ?_, fun hheld hmatch hline hfull => ?_⟩
  · rw [exec, execResetStation, live_powered _ _ hheld, takeCommand_taken _ hmatch hline, resetStation,
      replyRoom_atCommand, if_pos (by simpa using hroom), resetAll_atCommand]
  · have noRoom : replyRoom (atCommand h s) = false := by
      rw [replyRoom_atCommand]
      simpa using hfull
    refine ⟨?_, { atCommand h s with eventsNew := s.rpu.events.isEmpty }, ?_, atCommand_lif h s, ?_⟩
    · rw [acceptCommand, takeCommand_taken _ hmatch hline, carryOut, noRoom, if_neg (by simp)]
      rfl
    · rw [exec, execResetStation, live_powered _ _ hheld, takeCommand_taken _ hmatch hline, resetStation, noRoom,
        if_neg (by simp)]
    · have before := settles_atCommand h s
      exact ⟨before.rpu, (atCommand_record h s).2.2, fun d => (before.channel d).1, before.clockwork⟩

theorem attemptBounded_afterReset (cause : ResetCause) (pf : Bool) (bits : Quad Bool) (pins : Pins) (l : List Instr) :
    AttemptBounded (.afterReset cause pf bits pins l) := fun c => by
  simp [State.afterReset, State.chan, Channel.reset, ChanConfig.reset, Burner.reset]

/-- Settles O6: each sense of soundness holds after either reset. -/
theorem resetIsSound : Obligations.ResetIsSound := by
  obtain ⟨hbase, hstation⟩ := (clockSound_iff State.reset).2
    ⟨clockSound_afterReset _ _ _ _ _, by simp [State.reset, State.afterReset], by simp [State.reset, State.afterReset]⟩
  have powered := poweredWell_afterReset .powerOn true (.fill false) .quiet []
  exact ⟨bounded_afterReset _ _ _ _ _, fun c => (powered c).1,
    ⟨barredSound_afterReset _ _ _ _ _, fun c => (powered c).2⟩, holdsSound_afterReset _ _ _ _ _,
    fuelSound_afterReset _ _ _ _ _, attemptBounded_afterReset _ _ _ _ _, hbase, hstation⟩

end Sys2Proof.Machine
end

section
/-! Settles O14, O15 and O17: the division of a budget, the on-time of a slow period, and the timers. -/

namespace Sys2Proof.Machine

/-! ### The division of a budget -/

/-- What class `k` is granted together. -/
def classGrant (budget : Nat) (recs : List DemandRecord) (k : Nat) : Nat :=
  ((recs.filter fun d => d.cls.val == k).map (grantOf budget recs)).sum

/-- Floor-rounded shares add up to no more than what is shared. -/
theorem sum_floor_shares_le (l : List DemandRecord) (r t : Nat) :
    (l.map fun d => d.demand * r / t).sum ≤ (l.map DemandRecord.demand).sum * r / t := by
  induction l with
  | nil => simp
  | cons d l ih =>
    have : d.demand * r / t + (l.map DemandRecord.demand).sum * r / t ≤
        (d.demand * r + (l.map DemandRecord.demand).sum * r) / t := Nat.div_add_div_le_add_div
    rw [List.map_cons, List.sum_cons, List.map_cons, List.sum_cons, Nat.add_mul]
    omega

theorem grantOf_of_fits {budget : Nat} {recs : List DemandRecord} {d : DemandRecord}
    (h : classTotal recs d.cls.val ≤ remainder budget recs d.cls.val) : grantOf budget recs d = d.demand := if_pos h

theorem grantOf_of_short {budget : Nat} {recs : List DemandRecord} {d : DemandRecord}
    (h : ¬ classTotal recs d.cls.val ≤ remainder budget recs d.cls.val) :
    grantOf budget recs d = d.demand * remainder budget recs d.cls.val / classTotal recs d.cls.val := if_neg h

/-- A class takes from the remainder no more than what the next class does not find (R86). -/
theorem classGrant_add_remainder_le (budget : Nat) (recs : List DemandRecord) (k : Nat) :
    classGrant budget recs k + remainder budget recs (k + 1) ≤ remainder budget recs k := by
  have inClass (d : DemandRecord) (hd : d ∈ recs.filter fun d => d.cls.val == k) : d.cls.val = k := by
    simpa using (List.mem_filter.1 hd).2
  by_cases h : classTotal recs k ≤ remainder budget recs k
  · have whole : classGrant budget recs k = classTotal recs k := by
      unfold classGrant classTotal
      congr 1
      exact List.map_congr_left fun d hd => grantOf_of_fits (by rw [inClass d hd]; exact h)
    have left : remainder budget recs (k + 1) = remainder budget recs k - classTotal recs k := if_pos h
    omega
  · have scaled : classGrant budget recs k =
        ((recs.filter fun d => d.cls.val == k).map fun d =>
          d.demand * remainder budget recs k / classTotal recs k).sum := by
      unfold classGrant
      congr 1
      refine List.map_congr_left fun d hd => ?_
      have hk := inClass d hd
      rw [grantOf_of_short (by rw [hk]; exact h), hk]
    have shares := sum_floor_shares_le (recs.filter fun d => d.cls.val == k) (remainder budget recs k)
      (classTotal recs k)
    have total : ((recs.filter fun d => d.cls.val == k).map DemandRecord.demand).sum = classTotal recs k := rfl
    rw [total, Nat.mul_div_cancel_left _ (by omega)] at shares
    have left : remainder budget recs (k + 1) = 0 := if_neg h
    omega

theorem classGrants_le (budget : Nat) (recs : List DemandRecord) (n : Nat) :
    ((List.range n).map (classGrant budget recs)).sum + remainder budget recs n ≤ budget := by
  induction n with
  | zero => simp [remainder]
  | succ n ih =>
    have step := classGrant_add_remainder_le budget recs n
    rw [List.range_succ, List.map_append, List.sum_append, List.map_singleton, List.sum_singleton]
    omega

/-- The grants of all records are those of the four classes. -/
theorem sum_grants_eq_classes (f : DemandRecord → Nat) (recs : List DemandRecord) :
    (recs.map f).sum =
      ((List.range 4).map fun k => ((recs.filter fun d => d.cls.val == k).map f).sum).sum := by
  induction recs with
  | nil => simp
  | cons d recs ih =>
    have split (k : Nat) : (((d :: recs).filter fun d => d.cls.val == k).map f).sum =
        (if d.cls.val = k then f d else 0) + ((recs.filter fun d => d.cls.val == k).map f).sum := by
      by_cases hk : d.cls.val = k <;> simp [hk]
    rw [List.map_cons, List.sum_cons, ih]
    simp only [split, List.range_succ, List.range_zero, List.nil_append, List.cons_append, List.map_cons,
      List.map_nil, List.sum_cons, List.sum_nil]
    have hc := d.cls.isLt
    have one : (if d.cls.val = 0 then f d else 0) + (if d.cls.val = 1 then f d else 0) +
        (if d.cls.val = 2 then f d else 0) + (if d.cls.val = 3 then f d else 0) = f d := by
      obtain h | h | h | h : d.cls.val = 0 ∨ d.cls.val = 1 ∨ d.cls.val = 2 ∨ d.cls.val = 3 := by omega
      all_goals simp [h]
    omega

theorem sum_grants_le (budget : Nat) (recs : List DemandRecord) :
    (recs.map (grantOf budget recs)).sum ≤ budget := by
  have h := classGrants_le budget recs 4
  rw [sum_grants_eq_classes]
  exact le_of_add_le_left h

/-- After a class that does not fit nothing remains (R86). -/
theorem remainder_eq_zero {budget : Nat} {recs : List DemandRecord} {k : Nat}
    (h : remainder budget recs k < classTotal recs k) {n : Nat} (hn : k < n) : remainder budget recs n = 0 := by
  induction n, hn using Nat.le_induction with
  | base => exact if_neg (by omega)
  | succ n _ ih => simp [remainder, ih]

theorem demand_le_classTotal {recs : List DemandRecord} {d : DemandRecord} (h : d ∈ recs) :
    d.demand ≤ classTotal recs d.cls.val :=
  List.single_le_sum (by simp) _ (List.mem_map_of_mem (List.mem_filter.2 ⟨h, by simp⟩))

theorem grantOf_after_short {budget : Nat} {recs : List DemandRecord} {d : DemandRecord} {k : Nat}
    (h : remainder budget recs k < classTotal recs k) (hk : k < d.cls.val) (hd : d ∈ recs) :
    grantOf budget recs d = 0 := by
  have rest := remainder_eq_zero h hk
  have demand := demand_le_classTotal hd
  by_cases fits : classTotal recs d.cls.val ≤ remainder budget recs d.cls.val
  · rw [grantOf_of_fits fits]; omega
  · rw [grantOf_of_short fits, rest]; simp

theorem grantOf_le (budget : Nat) (recs : List DemandRecord) (d : DemandRecord) : grantOf budget recs d ≤ d.demand := by
  by_cases fits : classTotal recs d.cls.val ≤ remainder budget recs d.cls.val
  · rw [grantOf_of_fits fits]
  · rw [grantOf_of_short fits]
    exact Nat.div_le_of_le_mul (by rw [Nat.mul_comm]; exact Nat.mul_le_mul_right _ (by omega))

/-- The remainders are the only sequence that starts with the budget and loses what each class takes. -/
theorem remainder_unique {budget : Nat} {recs : List DemandRecord} {T R : Nat → Nat} (hT : ∀ k, T k = classTotal recs k)
    (h0 : R 0 = budget) (hR : ∀ k, R (k + 1) = if T k ≤ R k then R k - T k else 0) (k : Nat) :
    R k = remainder budget recs k := by
  induction k with
  | zero => exact h0
  | succ k ih => rw [hR, hT, ih]; rfl

/-- The records of a row of the peer table that take part in a division (R85). -/
def dividedRecords (row : Option PeerRow) : List DemandRecord :=
  match row with
  | some r => if r.divided then r.recordList else []
  | none => []

theorem circuitRecords_eq (C : Circuit) (chans : Quad Channel) (peers : List (Option PeerRow)) :
    circuitRecords C chans peers =
      (allChans.map (fun c => ownRecord (chans.get c)) ++ peers.flatMap dividedRecords).filter fun d =>
        decide (0 < d.demand) && d.circuit == C := rfl

/-- The records of the peer table that take part in a circuit's division (R85). -/
theorem filter_dividedRecords (p : DemandRecord → Bool) (peers : List (Option PeerRow)) :
    (peers.flatMap dividedRecords).filter p =
    ((peers.filterMap id).filter fun r =>
        decide (r.state = .active ∨ r.state = .rideThrough ∨ r.state = .safe)).flatMap fun r =>
      [r.records.c0, r.records.c1, r.records.c2, r.records.c3].filter p := by
  induction peers with
  | nil => rfl
  | cons row peers ih =>
    rw [List.flatMap_cons, List.filter_append, ih]
    cases row with
    | none => rfl
    | some r =>
      have divided : r.divided = decide (r.state = .active ∨ r.state = .rideThrough ∨ r.state = .safe) := by
        unfold PeerRow.divided
        cases r.state <;> rfl
      have kept : (some r :: peers).filterMap id = r :: peers.filterMap id := rfl
      rw [kept, List.filter_cons, ← divided]
      cases hd : r.divided <;> simp [dividedRecords, hd, PeerRow.recordList]

/-- Settles O14, by the remainders that the classes leave one after another. -/
theorem grantsWithinBudget : Obligations.GrantsWithinBudget := by
  intro budget recs d T R s C c own hT h0 hR hown
  have total (k : Nat) : T k = classTotal recs k := hT k
  have rest := remainder_unique total h0 hR
  have record (x : Chan) : own x = ownRecord (s.chan x) := by
    rw [hown, ownRecord, ownClass, ownCircuit]
    simp
  refine ⟨sum_grants_le budget recs, ?_, fun k hk hlt hd => ?_, ?_, ?_, ?_⟩
  · rw [total, rest]; rfl
  · rw [total, rest] at hk
    exact grantOf_after_short hk hlt hd
  · have same : (fun x : DemandRecord => decide (0 < x.demand ∧ x.circuit = C)) =
        fun x => decide (0 < x.demand) && x.circuit == C := by
      funext x
      rw [Bool.decide_and]
      rfl
    rw [circuitRecords_eq, List.filter_append, filter_dividedRecords, same]
    have own_eq : own = fun x => ownRecord (s.chan x) := funext record
    rw [own_eq]
    rfl
  · rw [record, channelGrant, ownRecord]
    unfold Apu.budget
    cases ownCircuit (s.chan c) <;> rfl
  · unfold channelGrant
    split
    · exact Nat.zero_le _
    · exact grantOf_le _ _ _

/-! ### The on-time of a slow period -/

/-- Settles O15: the level's share of the period grows with the level, and the rest is linear. -/
theorem slowOnTimeKeepsMinimumSwitch : Obligations.SlowOnTimeKeepsMinimumSwitch := by
  intro P M v w hM hvw hw
  have rises : P * v / 100 ≤ P * w / 100 := Nat.div_le_div_right (Nat.mul_le_mul_left P hvw)
  have within : P * w / 100 ≤ P := Nat.div_le_of_le_mul (by rw [Nat.mul_comm]; exact Nat.mul_le_mul_right P hw)
  simp only [slowOnTime]
  generalize P * v / 100 = a at *
  generalize P * w / 100 = b at *
  refine ⟨?_, ?_, ?_, ?_, ?_⟩ <;> split_ifs <;> omega

/-! ### Timers -/

/-- `count` counts a half-cycle on the timer that `left` and `at` read: the phase to 2f, and then a second is gone. -/
abbrev CountsDown (count : Pgu → Pgu) (left : Pgu → Nat) (L : Nat) : Prop :=
  ∀ p : Pgu, (count p).phase = (if p.phase + 1 < L then p.phase + 1 else 0) ∧
    left (count p) = if p.phase + 1 < L then left p else left p - 1

/-- After `n` half-cycles the phase is the rest, and the whole seconds are gone. -/
theorem countsDown_iterate {count : Pgu → Pgu} {left : Pgu → Nat} {L : Nat} (h : CountsDown count left L) (hL : 0 < L)
    {p : Pgu} (hp : p.phase = 0) (n : Nat) :
    (count^[n] p).phase = n % L ∧ left (count^[n] p) = left p - n / L := by
  induction n with
  | zero => simp [hp]
  | succ n ih =>
    obtain ⟨hphase, hleft⟩ := ih
    obtain ⟨kphase, kleft⟩ := h (count^[n] p)
    have next : (n + 1) / L = (if n % L + 1 < L then n / L else n / L + 1) ∧
        (n + 1) % L = if n % L + 1 < L then n % L + 1 else 0 := by
      have hn := Nat.mod_add_div n L
      have hlt := Nat.mod_lt n hL
      rw [Nat.div_mod_unique hL]
      split_ifs
      · exact ⟨by omega, by assumption⟩
      · exact ⟨by rw [Nat.mul_succ]; omega, hL⟩
    rw [Function.iterate_succ_apply', kphase, kleft, hphase, hleft, next.1, next.2]
    refine ⟨rfl, ?_⟩
    split_ifs <;> omega

/-- The last half-cycle is the one that ends the last second. -/
theorem lastHalfCycle_iterate {count : Pgu → Pgu} {left : Pgu → Nat} {f : Option Frequency}
    (h : CountsDown count left (perSecond f)) (hL : 0 < perSecond f) {p : Pgu} (hp : p.phase = 0) {n : Nat}
    (hn : n < left p * perSecond f) :
    lastHalfCycle f (left (count^[n] p)) (count^[n] p).phase = decide (n + 1 = left p * perSecond f) := by
  obtain ⟨hphase, hleft⟩ := countsDown_iterate h hL hp n
  have hmod := Nat.mod_add_div n (perSecond f)
  have hlt := Nat.mod_lt n hL
  have hdiv : n / perSecond f < left p := Nat.div_lt_of_lt_mul (by rwa [Nat.mul_comm])
  rw [lastHalfCycle, hphase, hleft, ← Bool.decide_and, decide_eq_decide]
  generalize perSecond f = L at *
  generalize left p = N at *
  constructor
  · rintro ⟨hend, hlast⟩
    have second : n / L + 1 = N := by omega
    rw [← second, Nat.add_mul, Nat.mul_comm (n / L)]
    omega
  · intro hend
    have second : n / L + 1 = N := by
      by_contra hne
      have := Nat.mul_le_mul_right L (show n / L + 2 ≤ N by omega)
      rw [Nat.add_mul, Nat.mul_comm (n / L)] at this
      omega
    rw [← second, Nat.add_mul, Nat.mul_comm (n / L)] at hend
    omega

theorem countsDown_countStep (f : Option Frequency) : CountsDown (Pgu.countStep f) Pgu.seconds (perSecond f) := by
  intro p
  unfold Pgu.countStep
  split_ifs <;> exact ⟨rfl, rfl⟩

theorem countsDown_countDelay (f : Option Frequency) : CountsDown (Pgu.countDelay f) Pgu.delay (perSecond f) := by
  intro p
  unfold Pgu.countDelay
  split_ifs <;> exact ⟨rfl, rfl⟩

/-- Settles O17: both timers count their half-cycles down alike. -/
theorem timersCountWholeSeconds : Obligations.TimersCountWholeSeconds := by
  intro f p N n hphase _ hn
  have hL : 0 < perSecond (some f) := by cases f <;> decide
  refine ⟨?_, ?_⟩ <;> rintro rfl
  · exact lastHalfCycle_iterate (countsDown_countStep (some f)) hL hphase hn
  · exact lastHalfCycle_iterate (countsDown_countDelay (some f)) hL hphase hn

end Sys2Proof.Machine
end

section
/-! Settles O47 and O57: the frames of peers (08, 04), and CONFIGURE_STATION (09). -/

namespace Sys2Proof.Machine

/-! ### The bytes of a peer's frame -/

theorem frameSource_toNat (frame : List Byte) : (frameSource frame).toNat = octet frame 0 % 16 := by
  cases frame <;> simp [frameSource, octet]

theorem frameSource_eq_iff (frame : List Byte) (a : Address) : frameSource frame = a ↔ octet frame 0 % 16 = a.toNat := by
  rw [← BitVec.toNat_inj, frameSource_toNat]

/-- A valid DEMAND carries nine bytes of payload (R165). -/
theorem frameLength_of_demand {frame : List Byte} (hv : frameValid frame = true) (hk : octet frame 0 / 16 = 3) :
    frameLength frame = 9 := by
  have allowed := ((frameValid_iff frame).1 hv).2.2
  rw [hk, lengthAllowed_iff] at allowed
  rw [frameLength_eq_octet]
  omega

/-- Within the length a frame states, the payload follows the first two bytes (R165). -/
theorem payloadByte_toNat {frame : List Byte} {i : Nat} (h : i < frameLength frame) :
    (payloadByte frame i).toNat = octet frame (2 + i) := by
  rw [payloadByte, framePayload, List.getElem?_take_of_lt h, List.getElem?_drop]
  rfl

theorem demandOfBytes_eq (hi lo : Byte) :
    demandOfBytes hi lo =
      { demand := hi.toNat * 4 + lo.toNat / 64
        cls := Fin.ofNat 4 (lo.toNat / 16 % 4)
        circuit := if lo.toNat / 8 % 2 = 1 then .b else .a } := by
  have circuitBit : lo.getLsbD 3 = decide (lo.toNat / 8 % 2 = 1) := by
    rw [BitVec.getLsbD, Nat.testBit_eq_decide_div_mod_eq]
  have cls : (⟨lo.toNat / 16 % 4, Nat.mod_lt _ (by decide)⟩ : Fin 4) = Fin.ofNat 4 (lo.toNat / 16 % 4) :=
    Fin.ext (Nat.mod_mod _ 4).symm
  rw [demandOfBytes, circuitBit, cls]
  simp only [decide_eq_true_eq]

/-- The four records of a valid DEMAND, by the bytes of the frame (08, Frames sent). -/
theorem demandRecords_eq {frame : List Byte} (h : frameLength frame = 9) :
    demandRecords frame =
      .ofFn fun d =>
        { demand := octet frame (2 + 2 * d.val) * 4 + octet frame (3 + 2 * d.val) / 64
          cls := Fin.ofNat 4 (octet frame (3 + 2 * d.val) / 16 % 4)
          circuit := if octet frame (3 + 2 * d.val) / 8 % 2 = 1 then .b else .a } := by
  unfold demandRecords
  congr 1
  funext d
  have hd := d.isLt
  rw [demandOfBytes_eq, payloadByte_toNat (by omega), payloadByte_toNat (by omega),
    show 2 + (2 * d.val + 1) = 3 + 2 * d.val by omega]

theorem demandStation_eq {frame : List Byte} (h : frameLength frame = 9) :
    demandStation frame = octet frame 10 % 8 := by
  rw [demandStation, payloadByte_toNat (by omega)]

/-- R82a: only the codes 1 to 4 are states that a peer sends from. -/
theorem peerStateOfCode_eq (n : Nat) :
    peerStateOfCode n =
      if 1 ≤ n ∧ n ≤ 4 then
        some (if n = 1 then .listen else if n = 2 then .active else if n = 3 then .rideThrough else .safe)
      else none := by
  match n with
  | 0 | 1 | 2 | 3 | 4 => rfl
  | n + 5 => simp [peerStateOfCode]

/-! ### What a peer's frame does -/

/-- The state after a peer's frame has ended and been judged for a clash, and its DEMAND has been handed on. -/
def peerReported (frame : List Byte) (s : State) : State :=
  if octet frame 0 / 16 = 3 then
    writePeer (frameSource frame) (demandStation frame) (demandRecords frame) (atCommand (headerOfFrame frame) s)
  else atCommand (headerOfFrame frame) s

theorem exec_peerReportReceived {s : State} {frame : List Byte} (hs : s.held = false) (hr : receptive s = true)
    (hv : frameValid frame = true) (hk : 2 ≤ octet frame 0 / 16) :
    exec (.peerReportReceived frame) s =
      .next { peerReported frame s with eventsNew := s.rpu.events.isEmpty } := by
  have report : exec (.peerReportReceived frame) s = execPeerReportReceived frame s := rfl
  rw [report, execPeerReportReceived, live_powered _ _ hs, hv, frameKind_eq_octet, Bool.true_and, decide_eq_true hk,
    onlyIf_true, takeFrame_receptive _ _ _ hr]
  rfl

/-- R82a: a row that is written changes the peer table alone; what follows is a recomputation. -/
theorem writePeer_cases (p : Address) (code : Nat) (records : Quad DemandRecord) (s : State) :
    (writePeer p code records s = s ∧ (peerStateOfCode code = none ∨ s.ssv.station = .mainsWait ∨
      (s.ssv.station = .safe ∧ s.mtb.mode = .measuring) ∨ p = s.ssv.address)) ∨
    ∃ st, peerStateOfCode code = some st ∧
      ¬ (s.ssv.station = .mainsWait ∨ (s.ssv.station = .safe ∧ s.mtb.mode = .measuring) ∨ p = s.ssv.address) ∧
      writePeer p code records s =
        recompute { s with apu := { s.apu with peers := s.apu.peers.set p.toNat (some ⟨0, st, records⟩) } } := by
  unfold writePeer
  split
  next hcode => exact .inl ⟨rfl, .inl hcode⟩
  next st hcode =>
    split
    next barred => exact .inl ⟨rfl, .inr barred⟩
    next open_ => exact .inr ⟨st, hcode, open_, rfl⟩

/-- What a peer's frame leaves alone. -/
theorem peerReported_keeps (frame : List Byte) (s : State) :
    KeepsPrograms s (peerReported frame s) ∧ (peerReported frame s).rpu = s.rpu ∧
    (peerReported frame s).ssv = (atCommand (headerOfFrame frame) s).ssv ∧
    (peerReported frame s).lif = { s.lif with line := .closed } := by
  have before := settles_atCommand (headerOfFrame frame) s
  have lif := atCommand_lif (headerOfFrame frame) s
  unfold peerReported
  split
  · obtain ⟨hw, -⟩ | ⟨st, -, -, hw⟩ := writePeer_cases (frameSource frame) (demandStation frame) (demandRecords frame)
      (atCommand (headerOfFrame frame) s) <;> rw [hw]
    · exact ⟨fun c => (before.channel c).1, before.rpu, rfl, lif⟩
    · exact ⟨fun c => KeepsProgram.trans (before.channel c).1 ((settles_recompute _).channel c).1,
        (settles_recompute _).rpu.trans before.rpu, recompute_ssv _, (recompute_lif _).trans lif⟩
  · exact ⟨fun c => (before.channel c).1, before.rpu, rfl, lif⟩

/-- The row of `q` after the rows of `p` have been written. -/
theorem getElem?_set_address (peers : List (Option PeerRow)) (p q : Address) (row : Option PeerRow)
    (h : peers.length = 16) :
    ((peers.set p.toNat row)[q.toNat]?).join = if q.toNat = p.toNat then row else (peers[q.toNat]?).join := by
  have hp : p.toNat < 16 := p.isLt
  by_cases hq : q.toNat = p.toNat
  · rw [if_pos hq, hq, List.getElem?_set_self (by omega)]
    rfl
  · rw [if_neg hq, List.getElem?_set_ne (Ne.symm hq)]

/-- Settles O47: a peer's frame ends on the line, and a DEMAND that may be written changes its row alone. -/
theorem peerFramesReachThePeerTableAlone : Obligations.PeerFramesReachThePeerTableAlone := by
  intro s frame q c hs hr hv hk hpeers
  have run := exec_peerReportReceived hs hr hv hk
  obtain ⟨programs, rpu, ssv, lif⟩ := peerReported_keeps frame s
  have source := frameSource_eq_iff frame s.ssv.address
  refine ⟨fun hsrc hkind => ?_, fun hsrc hkind => ?_, fun hsrc => ?_⟩
  · rw [run, peerReported, if_neg hkind, atCommand_other (mt source.1 hsrc)]
    rfl
  · have other : atCommand (headerOfFrame frame) s = setLine .closed s := atCommand_other (mt source.1 hsrc)
    have length := frameLength_of_demand hv hkind
    rw [other] at ssv
    refine ⟨_, run, programs, rpu, ssv, lif, ?_⟩
    have reported : (peerReported frame s).apu.peers =
        (writePeer (frameSource frame) (octet frame 10 % 8) (demandRecords frame) (setLine .closed s)).apu.peers := by
      rw [peerReported, if_pos hkind, other, demandStation_eq length]
    show ((peerReported frame s).apu.peers[q.toNat]?).join = _
    rw [reported]
    have codes := peerStateOfCode_eq (octet frame 10 % 8)
    obtain ⟨hw, barred⟩ | ⟨st, hst, allowed, hw⟩ := writePeer_cases (frameSource frame) (octet frame 10 % 8)
      (demandRecords frame) (setLine .closed s) <;> rw [hw]
    · refine (if_neg ?_).symm
      rintro ⟨-, station, measuring, low, high⟩
      obtain hcode | hwait | hsafe | hown := barred
      · rw [codes, if_pos ⟨low, high⟩] at hcode
        cases hcode
      · exact station hwait
      · exact measuring hsafe
      · exact hsrc (source.1 hown)
    · have range : 1 ≤ octet frame 10 % 8 ∧ octet frame 10 % 8 ≤ 4 := by
        by_contra out
        rw [codes, if_neg out] at hst
        cases hst
      rw [codes, if_pos range] at hst
      cases hst
      obtain ⟨station, measuring, -⟩ := by simpa only [not_or] using allowed
      rw [recompute_apu_peers]
      refine (getElem?_set_address s.apu.peers (frameSource frame) q _ hpeers).trans ?_
      rw [frameSource_toNat, demandRecords_eq length]
      by_cases hq : q.toNat = octet frame 0 % 16
      · exact (if_pos hq).trans (if_pos ⟨hq, station, measuring, range⟩).symm
      · exact (if_neg hq).trans (if_neg fun h => hq h.1).symm
  · have own : (headerOfFrame frame).source = s.ssv.address := source.2 hsrc
    obtain ⟨clash, -, ceiling⟩ := atCommand_own own
    have kept : peerReported frame s = atCommand (headerOfFrame frame) s := by
      unfold peerReported
      split
      · obtain ⟨hw, -⟩ | ⟨st, -, allowed, -⟩ := writePeer_cases (frameSource frame) (demandStation frame)
          (demandRecords frame) (atCommand (headerOfFrame frame) s)
        · exact hw
        · exact absurd (.inr (.inr (own.trans (by rw [clash])))) allowed
      · rfl
    obtain ⟨-, -, -, -, -, -, -, -, -, -, peers, -⟩ := (settles_atCommand (headerOfFrame frame) s).clockwork
    rw [kept] at ssv
    refine ⟨_, run, programs, rpu, ?_, ?_, lif, fun h => ?_⟩
    · show (peerReported frame s).ssv = _
      rw [kept, clash]
    · show (peerReported frame s).apu.peers = _
      rw [kept, peers]
    · show ((peerReported frame s).chan c).claim.ceiling = 0
      rw [kept]
      exact ceiling h c

/-! ### CONFIGURE_STATION -/

/-- The gate kind that a field below 3 stands for (R184). -/
def storedGateKind (n : Nat) : GateKind := if n = 0 then .unused else if n = 1 then .thermostat else .door

theorem gateKindOfCode_eq {n : Nat} (h : n < 4) :
    gateKindOfCode n = if n = 3 then none else some (storedGateKind n) := by
  match n with
  | 0 | 1 | 2 | 3 => rfl
  | n + 4 => omega

/-- R184: the four fields, unless one of them holds 3. -/
theorem gateKindsOfByte_eq (b : Byte) :
    gateKindsOfByte b =
      if ∃ k : Fin 4, b.toNat / 4 ^ k.val % 4 = 3 then none
      else some (.ofFn fun k => storedGateKind (b.toNat / 4 ^ k.val % 4)) := by
  have field (n : Nat) : n % 4 < 4 := Nat.mod_lt _ (by decide)
  have fields : (∃ k : Fin 4, b.toNat / 4 ^ k.val % 4 = 3) ↔
      b.toNat % 4 = 3 ∨ b.toNat / 4 % 4 = 3 ∨ b.toNat / 16 % 4 = 3 ∨ b.toNat / 64 % 4 = 3 := by
    simp [Fin.exists_fin_succ]
  simp only [fields, gateKindsOfByte, gateKindOfCode_eq (field _)]
  by_cases h0 : b.toNat % 4 = 3
  · simp [h0]
  by_cases h1 : b.toNat / 4 % 4 = 3
  · simp [h0, h1]
  by_cases h2 : b.toNat / 16 % 4 = 3
  · simp [h0, h1, h2]
  by_cases h3 : b.toNat / 64 % 4 = 3
  · simp [h0, h1, h2, h3]
  simp [h0, h1, h2, h3, Quad.ofFn]

/-- The judging order of R183, as a station that holds `s` goes through it. -/
theorem runConfigureStation_atCommand (h : CmdHeader) (a b : BitVec 16) (gates : Byte) (s : State) :
    runConfigureStation a b gates (atCommand h s) =
      if s.configOpen = false then (atCommand h s, .fill .configClosed)
      else if s.ssv.station = .safe then (atCommand h s, .fill .refusedState)
      else if ∃ k : Fin 4, gates.toNat / 4 ^ k.val % 4 = 3 then (atCommand h s, .fill .badValue)
      else
        (storeStation a b (.ofFn fun k => storedGateKind (gates.toNat / 4 ^ k.val % 4)) (atCommand h s),
          .fill .done) := by
  have hopen : (atCommand h s).configOpen = s.configOpen := (atCommand_record h s).2.2
  obtain ⟨-, -, -, -, -, -, -, -, hstation, -⟩ := (settles_atCommand h s).clockwork
  simp only [runConfigureStation, whereConfigurable, hopen, hstation, Bool.not_eq_true', gateKindsOfByte_eq]
  split_ifs <;> rfl

/-- The clash check leaves the budgets alone. -/
theorem atCommand_budgets (h : CmdHeader) (s : State) :
    (atCommand h s).apu.budgetA = s.apu.budgetA ∧ (atCommand h s).apu.budgetB = s.apu.budgetB := by
  obtain hn | hn | hn := noteClash_cases h.source (setLine .closed s) <;> rw [atCommand, hn] <;> simp [setLine]

section
variable {h : CmdHeader} {a b : BitVec 16} {gates : Byte} {s : State}

/-- CONFIGURE_STATION that is refused with the result `r` on all four channels. -/
theorem configureStation_refused {r : Result}
    (hrun : runConfigureStation a b gates (atCommand h s) = (atCommand h s, .fill r)) (c : Chan) :
    let t := answered h 1 (runConfigureStation a b gates) s
    KeepsPrograms s t ∧ KeepsClockwork s t ∧ t.rpu = s.rpu ∧
    Replies h 1 c r s t ∧ t.stationConfigured = s.stationConfigured ∧ t.apu.budgetA = s.apu.budgetA ∧
    t.apu.budgetB = s.apu.budgetB ∧ t.gib = s.gib ∧ (t.chan c).gated = (s.chan c).gated := by
  obtain ⟨settles, -⟩ := answered_refused (code := 1) hrun
  have replies := answered_replies (code := 1) hrun rfl (Quad.get_fill r c)
  obtain ⟨-, -, hgated, -⟩ := settles.channel c
  obtain ⟨budgetA, budgetB⟩ := atCommand_budgets h s
  have gib := atCommand_gib h s
  refine ⟨fun e => (settles.channel e).1, settles.clockwork, settles.rpu, replies, settles.configured, ?_, ?_, ?_, hgated⟩
  all_goals rw [answered_eq hrun]
  · exact budgetA
  · exact budgetB
  · exact gib

/-- The station with its budgets and gate kinds stored, before the gated conditions are worked out anew (R184). -/
def withStation (a b : BitVec 16) (kinds : Quad GateKind) (u : State) : State :=
  { u with
    apu := { u.apu with budgetA := budgetOfField a, budgetB := budgetOfField b }
    gib := u.gib.withKinds kinds
    stationConfigured := true }

theorem storeStation_eq (a b : BitVec 16) (kinds : Quad GateKind) (u : State) :
    storeStation a b kinds u = recompute (regate (withStation a b kinds u)) := rfl

theorem keepsClockwork_withStation (a b : BitVec 16) (kinds : Quad GateKind) (u : State) :
    KeepsClockwork u (withStation a b kinds u) :=
  ⟨rfl, rfl, rfl, rfl, rfl, rfl, rfl, rfl, rfl, rfl, rfl, rfl, rfl, rfl, rfl, rfl, rfl, rfl, rfl⟩

/-- What working out the gated conditions leaves of the station. -/
theorem recompute_regate_station (u : State) :
    (recompute (regate u)).stationConfigured = u.stationConfigured ∧
    (recompute (regate u)).apu.budgetA = u.apu.budgetA ∧ (recompute (regate u)).apu.budgetB = u.apu.budgetB := by
  obtain hr | hr := regate_cases u <;> simp [hr, regated]

/-- CONFIGURE_STATION that is taken. -/
theorem configureStation_taken {kinds : Quad GateKind}
    (hrun : runConfigureStation a b gates (atCommand h s) = (storeStation a b kinds (atCommand h s), .fill .done))
    (c : Chan) (g : Fin 4) :
    let t := answered h 1 (runConfigureStation a b gates) s
    KeepsPrograms s t ∧ KeepsClockwork s t ∧ t.rpu = s.rpu ∧
    Replies h 1 c .done s t ∧ t.stationConfigured = true ∧ t.apu.budgetA = min a.toNat 4095 ∧
    t.apu.budgetB = min b.toNat 4095 ∧ (t.gib.gates.get g).kind = kinds.get g ∧
    (t.gib.gates.get g).active = (s.gib.gates.get g).active ∧ t.configOpen = s.configOpen ∧ GatedAsConfigured t c := by
  have before := settles_atCommand h s
  have gib := atCommand_gib h s
  have after := settles_answered (code := 1) hrun
  obtain ⟨vlif, vgib, vopen, vrpu⟩ := recompute_regate_record (withStation a b kinds (atCommand h s))
  obtain ⟨vconf, vbudgetA, vbudgetB⟩ := recompute_regate_station (withStation a b kinds (atCommand h s))
  have mid := settles_recompute_regate (withStation a b kinds (atCommand h s))
  rw [← storeStation_eq] at vlif vgib vopen vrpu vconf vbudgetA vbudgetB mid
  have replies := answered_replies (code := 1) hrun vlif (Quad.get_fill Result.done c)
  have clockwork := before.clockwork.trans <| (keepsClockwork_withStation a b kinds _).trans <|
    (keepsClockwork_regated _).trans <| mid.clockwork.trans after.clockwork
  have programs (d : Chan) : KeepsProgram d s (storeStation a b kinds (atCommand h s)) := by
    obtain ⟨⟨hchc, hpgu, hcfg⟩, -⟩ := mid.channel d
    refine KeepsProgram.trans (before.channel d).1 ⟨?_, ?_, ?_⟩
    · rw [hchc, regated_chan]; rfl
    · rw [hpgu, regated_chan]; rfl
    · rw [hcfg, regated_chan]; rfl
  have gated : GatedAsConfigured (storeStation a b kinds (atCommand h s)) c := by
    obtain ⟨⟨-, -, hcfg⟩, -, hgated, -⟩ := mid.channel c
    rw [GatedAsConfigured, ← gatedBy_iff, hgated, hcfg, vgib]
    simp
  have kind : ((storeStation a b kinds (atCommand h s)).gib.gates.get g).kind = kinds.get g := by
    rw [vgib]
    simp [withStation, Gib.withKinds]
  have active : ((storeStation a b kinds (atCommand h s)).gib.gates.get g).active = (s.gib.gates.get g).active := by
    rw [vgib, ← gib]
    simp [withStation, Gib.withKinds]
  rw [answered_eq hrun] at clockwork replies ⊢
  exact ⟨programs, clockwork, vrpu.trans before.rpu, replies, vconf, vbudgetA, vbudgetB, kind, active,
    vopen.trans (atCommand_record h s).2.2, gated⟩

end

/-- Settles O57, branch by branch of the judging order of R183. -/
theorem configureStationStoresBudgetsAndGates : Obligations.ConfigureStationStoresBudgetsAndGates := by
  intro s h a b gates c g ha
  refine ⟨_, live_acceptCommand_answered ha 1 (runConfigureStation a b gates), ?_⟩
  have run := runConfigureStation_atCommand h a b gates s
  by_cases hopen : s.configOpen = false
  · rw [if_pos hopen] at run ⊢
    exact configureStation_refused run c
  rw [if_neg hopen] at run ⊢
  by_cases hsafe : s.ssv.station = .safe
  · rw [if_pos hsafe] at run ⊢
    exact configureStation_refused run c
  rw [if_neg hsafe] at run ⊢
  by_cases hfield : ∃ k : Fin 4, gates.toNat / 4 ^ k.val % 4 = 3
  · rw [if_pos hfield] at run ⊢
    exact configureStation_refused run c
  rw [if_neg hfield] at run ⊢
  obtain ⟨programs, clockwork, rpu, replies, conf, budgetA, budgetB, kind, active, stays, gated⟩ :=
    configureStation_taken run c g
  rw [Quad.get_ofFn] at kind
  exact ⟨programs, clockwork, rpu, replies, conf, budgetA, budgetB, kind, active, stays.trans (by simpa using hopen), gated⟩

end Sys2Proof.Machine
end

section
/-! Settles O56: LOAD_STEP and LOAD_STEP_CLEAR (02). -/

namespace Sys2Proof.Machine

/-! ### A command that the channels judge by themselves -/

section
variable {h : CmdHeader} {code mask : Byte} {act : ChannelAct}

/-- What a command leaves alone that the channels judge with no recomputation at its end. -/
theorem answered_turns_keeps (hact : ActsByTurns (actIfNamed mask act)) (s : State) :
    KeepsClockwork s (answered h code (actOnMask mask act) s) ∧
    (answered h code (actOnMask mask act) s).rpu = s.rpu := by
  have before := settles_atCommand h s
  have turns := actOnMask_turns hact (atCommand h s)
  have after : Settles (actOnMask mask act (atCommand h s)).1 (answered h code (actOnMask mask act) s) :=
    settles_answered rfl
  exact ⟨before.clockwork.trans (turns.keepsClockwork.trans after.clockwork),
    after.rpu.trans (by rw [turns.station, before.rpu])⟩

/-- The turn of channel `c`, the answer that it gives there, and what it has when the command is over. -/
theorem answered_turn (hact : ActsByTurns (actIfNamed mask act)) (s : State) (c : Chan) :
    ∃ u, KeepsChannel c s u ∧
      Replies h code c (actIfNamed mask act c u).2 s (answered h code (actOnMask mask act) s) ∧
      KeepsChannel c (actIfNamed mask act c u).1 (answered h code (actOnMask mask act) s) := by
  have before := settles_atCommand h s
  have turns := actOnMask_turns hact (atCommand h s)
  have after := settles_answered (h := h) (code := code) (run := actOnMask mask act) (s := s) rfl
  obtain ⟨u, hu, hres, hv⟩ := actOnMask_turn hact (atCommand h s) c
  have unmoved : ¬ c ≠ c := fun hc => hc rfl
  have lif : (actOnMask mask act (atCommand h s)).1.lif = (atCommand h s).lif := by rw [turns.station]
  exact ⟨u, (before.channel c).trans (hu.keepsChannel unmoved), answered_replies rfl lif hres,
    (hv.keepsChannel unmoved).trans (after.channel c)⟩

end

/-- Two answers that agree where the condition holds agree where the rest does. -/
theorem ite_imp_else {p a b b' : Prop} [Decidable p] (h : if p then a else b) (hb : b → b') : if p then a else b' := by
  split at h
  next hp => rwa [if_pos hp]
  next hp => rw [if_neg hp]; exact hb h

/-! ### The turn of a channel in a LOAD_STEP -/

section
variable {slot : Byte} {content : ChanKind → Option (Option StepRecord)} {c : Chan} {n : Slot}

/-- The judging order of a LOAD_STEP, for the slot `n` that the designation chooses (R22 to R24). -/
theorem loadChannel_eq {u : State} (hpointer : slot = 0x0F → n = (u.chan c).pgu.pointer)
    (hslot : slot ≠ 0x0F → slot.toNat < 8 → slot.toNat = n.val) :
    loadChannel slot content c u =
      if slot ≠ 0x0F ∧ 8 ≤ slot.toNat then (u, .badValue)
      else if (u.chan c).chc.state.hasProgram = true ∧ (u.chan c).pgu.current = some n then (u, .refusedState)
      else
        match content (u.chan c).cfg.kind with
        | none => (u, .badValue)
        | some r => (u.mapChan c fun ch => { ch with pgu := ch.pgu.load n r }, .done) := by
  unfold loadChannel slotDesignation
  by_cases hp : slot = 0x0F
  · rw [if_pos hp, if_neg fun h => h.1 hp, hpointer hp]
    rfl
  by_cases hlt : slot.toNat < 8
  · have chosen : slotOfByte slot = some n := by
      rw [slotOfByte, dif_pos hlt]
      exact congrArg some (Fin.ext (hslot hp hlt))
    rw [if_neg hp, if_neg fun h => by omega, chosen]
    rfl
  · have unknown : slotOfByte slot = none := dif_neg hlt
    rw [if_neg hp, if_pos ⟨hp, by omega⟩, unknown]
    rfl

theorem loadChannel_turns (mask : Byte) : ActsByTurns (actIfNamed mask (loadChannel slot content)) := by
  intro c u
  obtain ⟨-, hact⟩ | ⟨-, hact⟩ := actIfNamed_cases mask (loadChannel slot content) c u <;> rw [hact]
  · unfold loadChannel
    split
    · exact .refl _ u
    · dsimp only
      split_ifs
      · exact .refl _ u
      · split
        · exact .refl _ u
        · rename_i d _ _ _ r _
          exact turns_mapChan c (fun ch => { ch with pgu := ch.pgu.load (d.target (u.chan c).pgu.pointer) r }) u
  · exact .refl _ u

/-- What channel `c` answers to a LOAD_STEP of the given content, and the program that it has then. -/
abbrev Loads (h : CmdHeader) (mask slot : Byte) (content : Option (Option StepRecord)) (c : Chan) (n : Slot)
    (s t : State) : Prop :=
  if maskNames mask c = false then KeepsChannel c s t ∧ Replies h 4 c .done s t
  else if slot ≠ 0x0F ∧ 8 ≤ slot.toNat then Replies h 4 c .badValue s t ∧ (t.chan c).pgu = (s.chan c).pgu
  else if (s.chan c).chc.state.hasProgram = true ∧ (s.chan c).pgu.current = some n then
    Replies h 4 c .refusedState s t ∧ (t.chan c).pgu = (s.chan c).pgu
  else
    (content = none → Replies h 4 c .badValue s t ∧ (t.chan c).pgu = (s.chan c).pgu) ∧
    ∀ r ∈ content, Replies h 4 c .done s t ∧ (t.chan c).pgu = (s.chan c).pgu.load n r

/-- A LOAD_STEP as a whole, for the slot `n` that its designation chooses. -/
theorem load_outcome {h : CmdHeader} {mask : Byte} {s : State} (ha : Accepts h s)
    (hpointer : slot = 0x0F → n = (s.chan c).pgu.pointer)
    (hslot : slot ≠ 0x0F → slot.toNat < 8 → slot.toNat = n.val) :
    ∃ t, live (acceptCommand h 4 (actOnMask mask (loadChannel slot content))) s = .next t ∧
      (t.chan c).chc = (s.chan c).chc ∧ (t.chan c).cfg = (s.chan c).cfg ∧ KeepsClockwork s t ∧ t.rpu = s.rpu ∧
      Loads h mask slot (content (s.chan c).cfg.kind) c n s t := by
  refine ⟨_, live_acceptCommand_answered ha 4 _, ?_⟩
  have turns := loadChannel_turns (slot := slot) (content := content) mask
  obtain ⟨clockwork, rpu⟩ := answered_turns_keeps (h := h) (code := 4) turns s
  obtain ⟨u, hu, replies, ht⟩ := answered_turn (h := h) (code := 4) turns s c
  generalize answered h 4 (actOnMask mask (loadChannel slot content)) s = t at clockwork rpu replies ht ⊢
  have ⟨⟨uchc, upgu, ucfg⟩, _⟩ := hu
  suffices h : (t.chan c).chc = (s.chan c).chc ∧ (t.chan c).cfg = (s.chan c).cfg ∧
      Loads h mask slot (content (s.chan c).cfg.kind) c n s t from ⟨h.1, h.2.1, clockwork, rpu, h.2.2⟩
  cases hm : maskNames mask c
  · rw [actIfNamed, if_neg (by simp [hm])] at replies ht
    have kept := hu.trans ht
    have ⟨⟨hchc, _, hcfg⟩, _⟩ := kept
    rw [Loads, if_pos hm]
    exact ⟨hchc, hcfg, kept, replies⟩
  rw [actIfNamed, if_pos hm, loadChannel_eq (by rwa [upgu]) hslot, uchc, upgu, ucfg] at replies ht
  rw [Loads, if_neg (by simp [hm])]
  by_cases hbad : slot ≠ 0x0F ∧ 8 ≤ slot.toNat
  · rw [if_pos hbad] at replies ht ⊢
    obtain ⟨⟨hchc, hpgu, hcfg⟩, -⟩ := hu.trans ht
    exact ⟨hchc, hcfg, replies, hpgu⟩
  rw [if_neg hbad] at replies ht ⊢
  by_cases hcurrent : (s.chan c).chc.state.hasProgram = true ∧ (s.chan c).pgu.current = some n
  · rw [if_pos hcurrent] at replies ht ⊢
    obtain ⟨⟨hchc, hpgu, hcfg⟩, -⟩ := hu.trans ht
    exact ⟨hchc, hcfg, replies, hpgu⟩
  rw [if_neg hcurrent] at replies ht ⊢
  cases hcontent : content (s.chan c).cfg.kind with
  | none =>
    rw [hcontent] at replies ht
    obtain ⟨⟨hchc, hpgu, hcfg⟩, -⟩ := hu.trans ht
    exact ⟨hchc, hcfg, fun _ => ⟨replies, hpgu⟩, fun _ hr => by cases hr⟩
  | some r =>
    rw [hcontent] at replies ht
    obtain ⟨⟨hchc, hpgu, hcfg⟩, -⟩ := ht
    rw [State.chan_mapChan_self] at hchc hpgu hcfg
    refine ⟨hchc.trans uchc, hcfg.trans ucfg, ⟨fun hr => (nomatch hr), fun r' hr' => ?_⟩⟩
    cases hr'
    exact ⟨replies, hpgu.trans (by rw [upgu])⟩

end

theorem levelMax_eq (kind : ChanKind) : levelMax kind = if kind = .burner then 9 else 100 := by
  cases kind <;> rfl

/-- R23: the end action codes below 3. -/
theorem endActionOfByte_eq (b : Byte) :
    endActionOfByte b =
      if 3 ≤ b.toNat then none
      else some (if b.toNat = 0 then .next else if b.toNat = 1 then .finish else .hold) := by
  unfold endActionOfByte
  match b.toNat with
  | 0 | 1 | 2 => rfl
  | n + 3 => simp

/-- R23: CLEAR empties the slot, an end action beyond the table is refused, and a record is clamped for its kind. -/
theorem loadedRecord_eq (level : Byte) (duration : BitVec 24) (endAction : Byte) (kind : ChanKind) :
    loadedRecord level duration endAction kind =
      if endAction = 0xFF then some none
      else if 3 ≤ endAction.toNat then none
      else
        some (some
          { level := min level.toNat (if kind = .burner then 9 else 100)
            duration := if duration.toNat = 0 then none else some (min duration.toNat 86399)
            endAction := if endAction.toNat = 0 then .next else if endAction.toNat = 1 then .finish else .hold }) := by
  rw [loadedRecord, endActionOfByte_eq, levelMax_eq]
  by_cases hend : 3 ≤ endAction.toNat
  · rw [if_pos hend, if_pos hend]
    rfl
  · rw [if_neg hend, if_neg hend]
    rfl

/-- Settles O56: both rows are one judging order with another content. -/
theorem loadStepWritesOneSlot : Obligations.LoadStepWritesOneSlot := by
  intro s h mask slot level endAction duration c n ha hpointer hslot
  refine ⟨?_, ?_⟩
  · obtain ⟨t, run, hchc, hcfg, clockwork, rpu, loads⟩ := load_outcome (mask := mask)
      (content := loadedRecord level duration endAction) ha hpointer hslot
    refine ⟨t, run, hchc, hcfg, clockwork, rpu, ?_⟩
    have record := loadedRecord_eq level duration endAction (s.chan c).cfg.kind
    rw [Loads] at loads
    refine ite_imp_else loads fun loads => ite_imp_else loads fun loads => ite_imp_else loads fun loads => ?_
    by_cases hclear : endAction = 0xFF
    · rw [if_pos hclear] at record ⊢
      exact loads.2 none record
    rw [if_neg hclear] at record ⊢
    by_cases hend : 3 ≤ endAction.toNat
    · rw [if_pos hend] at record ⊢
      exact loads.1 record
    · rw [if_neg hend] at record ⊢
      exact loads.2 (some _) record
  · obtain ⟨t, run, hchc, hcfg, clockwork, rpu, loads⟩ := load_outcome (mask := mask)
      (content := fun _ => some none) ha hpointer hslot
    refine ⟨t, run, hchc, hcfg, clockwork, rpu, ?_⟩
    rw [Loads] at loads
    exact ite_imp_else loads fun loads => ite_imp_else loads fun loads => ite_imp_else loads fun loads =>
      loads.2 none rfl

end Sys2Proof.Machine
end

section
/-! SUPPORT. Commands whose channels raise records (R193 to R195): what such a command does apart from its records, which
it does as any other command of the zone line, and the records themselves. -/

namespace Sys2Proof.Machine

/-! ### The report unit apart from the rest -/

/-- The state with the report unit `r`. -/
def reporting (r : Rpu) (s : State) : State := { s with rpu := r }

@[simp] theorem reporting_chan (r : Rpu) (s : State) (c : Chan) : (reporting r s).chan c = s.chan c := rfl
@[simp] theorem reporting_mtb (r : Rpu) (s : State) : (reporting r s).mtb = s.mtb := rfl
@[simp] theorem reporting_igu (r : Rpu) (s : State) : (reporting r s).igu = s.igu := rfl
@[simp] theorem reporting_rpu (r : Rpu) (s : State) : (reporting r s).rpu = r := rfl
@[simp] theorem reporting_reporting (q r : Rpu) (s : State) : reporting r (reporting q s) = reporting r s := rfl
@[simp] theorem reporting_self (s : State) : reporting s.rpu s = s := rfl

/-- The report unit after one more record (R193, R194). -/
def Rpu.noting (r : Rpu) (e : EventRecord) : Rpu :=
  if r.events.length < 8 then { r with events := r.events ++ [e] } else { r with lost := true }

/-- The report unit after the records `es`, one after another. -/
def Rpu.notingAll (r : Rpu) (es : List EventRecord) : Rpu := es.foldl Rpu.noting r

theorem raise_eq (e : EventRecord) (s : State) : raise e s = reporting (s.rpu.noting e) s := by
  unfold raise Rpu.noting Config.eventCapacity
  split <;> rfl

theorem foldl_raise_eq (es : List EventRecord) (s : State) :
    es.foldl (fun u e => raise e u) s = reporting (s.rpu.notingAll es) s := by
  induction es generalizing s with
  | nil => rfl
  | cons e es ih => rw [List.foldl_cons, ih, raise_eq]; rfl

theorem Rpu.notingAll_append (r : Rpu) (es fs : List EventRecord) :
    r.notingAll (es ++ fs) = (r.notingAll es).notingAll fs := List.foldl_append ..

/-- Records that have room join the queue in the order in which they are raised (R193). -/
theorem Rpu.notingAll_of_room {r : Rpu} {es : List EventRecord} (h : r.events.length + es.length ≤ 8) :
    r.notingAll es = { r with events := r.events ++ es } := by
  induction es generalizing r with
  | nil => simp [Rpu.notingAll]
  | cons e es ih =>
    rw [List.length_cons] at h
    have first : r.noting e = { r with events := r.events ++ [e] } := if_pos (by omega)
    have rest := ih (r := r.noting e) (by rw [first, List.length_append, List.length_singleton]; omega)
    rw [Rpu.notingAll, List.foldl_cons]
    refine rest.trans ?_
    rw [first, List.append_assoc]
    rfl

/-! ### Operations that the report unit does not reach -/

/-- `f` neither reads nor moves the report unit. -/
abbrev Unreported (f : State → State) : Prop := ∀ (r : Rpu) (s : State), f (reporting r s) = reporting r (f s)

theorem unreported_promote : Unreported promote := by
  intro r s
  unfold promote
  rw [reporting_igu]
  split <;> rfl

theorem unreported_releaseUnit : Unreported releaseUnit := fun r s =>
  unreported_promote r { s with igu := { s.igu with holder := none, spark := false } }

theorem unreported_leaveIgnition (c : Chan) : Unreported (leaveIgnition c) := by
  intro r s
  unfold leaveIgnition
  dsimp only [reporting_chan, reporting_igu]
  cases (s.chan c).burner.phase
  case none | queued | purge => rfl
  all_goals
    exact unreported_releaseUnit r (s.mapChan c fun ch => { ch with burner := ch.burner.outOfIgnition, valve := 0 })

theorem unreported_quench (c : Chan) : Unreported (quench c) := by
  intro r s
  unfold quench
  rw [unreported_leaveIgnition]
  rfl

theorem unreported_enterIgnition (c : Chan) (n : Nat) : Unreported (enterIgnition c n) := by
  intro r s
  rw [enterIgnition_eq_promote, enterIgnition_eq_promote]
  exact unreported_promote r <| { s with igu := { s.igu with queue := s.igu.queue ++ [c] } }.mapChan c fun ch =>
    { ch with chc := { ch.chc with state := .igniting }, burner := ch.burner.entered n false }

theorem unreported_enterIgnitionConfigured (c : Chan) : Unreported (enterIgnitionConfigured c) := fun r s =>
  unreported_enterIgnition c _ r s

theorem unreported_mapChan (c : Chan) (f : Channel → Channel) : Unreported fun s => s.mapChan c f := fun _ _ => rfl

theorem unreported_startSlot (c : Chan) (n : Slot) : Unreported (startSlot c n) := by
  intro r s
  have started : (reporting r s).mapChan c (fun ch => { ch with pgu := ch.pgu.started n }) =
      reporting r (s.mapChan c fun ch => { ch with pgu := ch.pgu.started n }) := rfl
  unfold startSlot
  dsimp only
  rw [started, reporting_chan, reporting_chan]
  generalize s.mapChan c (fun ch => { ch with pgu := ch.pgu.started n }) = u
  rw [apply_ite (reporting r), apply_ite (reporting r), apply_ite (reporting r), apply_ite (reporting r),
    unreported_enterIgnitionConfigured c r u]
  rfl

/-! ### Programs that end, steps that expire and delays that end -/

theorem raiseFor_reporting (c : Chan) (k : EventKind) (p : Nat) (r : Rpu) (s : State) :
    raiseFor c k p (reporting r s) =
      reporting (r.noting { kind := k, channel := some c, slot := (s.chan c).pgu.current, parameter := p }) s :=
  raise_eq _ _

theorem endProgram_reporting (c : Chan) (cause : EndCause) (into : ChanState) (r : Rpu) (s : State) :
    endProgram c cause into (reporting r s) =
      reporting
        (r.noting { kind := .programEnd, channel := some c, slot := (s.chan c).pgu.current, parameter := cause.code })
        (endProgram c cause into s) := by
  have alone : raiseFor c .programEnd cause.code s = reporting (s.rpu.noting _) s := raiseFor_reporting _ _ _ s.rpu s
  unfold endProgram
  rw [raiseFor_reporting, alone, unreported_quench, unreported_quench]
  rfl

/-- The records of an expiry, for an expiry that follows the end action `a` (R29 to R31, R33). -/
theorem expireStep_reporting (c : Chan) (a : EndAction) (r : Rpu) (s : State) :
    expireStep c a (reporting r s) = reporting (r.notingAll (expiryRecords a c (s.chan c))) (expireStep c a s) := by
  have alone : raiseFor c .stepEnd a.code s = reporting (s.rpu.noting _) s := raiseFor_reporting _ _ _ s.rpu s
  unfold expireStep expiryRecords
  dsimp only
  rw [raiseFor_reporting, alone]
  cases a
  case hold => rfl
  case finish =>
    dsimp only
    rw [endProgram_reporting, endProgram_reporting]
    rfl
  case next =>
    simp only [reporting_chan]
    cases hnext : (s.chan c).pgu.current.bind (s.chan c).pgu.following with
    | none =>
      dsimp only
      rw [endProgram_reporting, endProgram_reporting]
      rfl
    | some n =>
      dsimp only
      rw [unreported_startSlot, unreported_startSlot]
      rfl

theorem endDelay_reporting (c : Chan) (r : Rpu) (s : State) :
    endDelay c (reporting r s) = reporting (r.notingAll (delayRecords c (s.chan c))) (endDelay c s) := by
  have alone : raiseFor c .delayEnd 0 s = reporting (s.rpu.noting _) s := raiseFor_reporting _ _ _ s.rpu s
  unfold endDelay
  dsimp only
  rw [raiseFor_reporting, alone, reporting_chan]
  split
  · rw [unreported_startSlot, unreported_startSlot]
    rfl
  · rfl

/-! ### Acts that raise records -/

/-- On channel `c` the act raises the records that `recs` reads off it, at most two, and does nothing else with the report
unit. -/
structure Raises (act : ChannelAct) (recs : Chan → Channel → List EventRecord) : Prop where
  eq : ∀ (c : Chan) (r : Rpu) (s : State),
    act c (reporting r s) = (reporting (r.notingAll (recs c (s.chan c))) (act c s).1, (act c s).2)
  few : ∀ c ch, (recs c ch).length ≤ 2
  reads : ∀ (c : Chan) (ch ch' : Channel), ch'.chc = ch.chc → ch'.pgu = ch.pgu → recs c ch' = recs c ch

/-- The act without its records. -/
def silently (act : ChannelAct) : ChannelAct := fun c s => (reporting s.rpu (act c s).1, (act c s).2)

/-- The records that a named channel past steps 1 and 2 raises; none on any other (R46, R47). -/
def namedRecords (recs : Chan → Channel → List EventRecord) (mask : Byte) (c : Chan) (ch : Channel) :
    List EventRecord :=
  if maskNames mask c && notBarred ch then recs c ch else []

section
variable {act : ChannelAct} {recs : Chan → Channel → List EventRecord}

/-- An act is the act without its records, and then its records. -/
theorem Raises.split (h : Raises act recs) (mask : Byte) (c : Chan) (r : Rpu) (s : State) :
    actIfNamed mask (unlessBarred act) c (reporting r s) =
      (reporting (r.notingAll (namedRecords recs mask c (s.chan c)))
        (actIfNamed mask (unlessBarred (silently act)) c s).1,
        (actIfNamed mask (unlessBarred (silently act)) c s).2) := by
  unfold actIfNamed unlessBarred namedRecords notBarred
  rw [reporting_chan]
  cases hm : maskNames mask c
  · rfl
  by_cases hl : (s.chan c).chc.state = .lockout
  · simp [hl, Rpu.notingAll]
  by_cases hu : (s.chan c).cfg.kind = .unused
  · simp [hl, hu, Rpu.notingAll]
  simp only [hl, hu, if_true, if_false]
  rw [h.eq]
  simp [hl, hu, silently]

/-- Another channel's turn leaves alone what a channel raises. -/
theorem Raises.namedRecords_eq (h : Raises act recs) (mask : Byte) {c : Chan} {s t : State} (k : KeepsProgram c s t) :
    namedRecords recs mask c (t.chan c) = namedRecords recs mask c (s.chan c) := by
  obtain ⟨hchc, hpgu, hcfg⟩ := k
  rw [namedRecords, namedRecords, notBarred, notBarred, hchc, hcfg, h.reads c _ _ hchc hpgu]

theorem Raises.length_namedRecords (h : Raises act recs) (mask : Byte) (c : Chan) (ch : Channel) :
    (namedRecords recs mask c ch).length ≤ 2 := by
  unfold namedRecords
  split
  · exact h.few c ch
  · exact Nat.zero_le _

/-- The records of all channels, in rising order. -/
def raisedRecords (recs : Chan → Channel → List EventRecord) (mask : Byte) (s : State) : List EventRecord :=
  ([0, 1, 2, 3] : List Chan).flatMap fun c => namedRecords recs mask c (s.chan c)

/-- The four turns of a command that raises records are the turns without them, and then the records. -/
theorem Raises.actOnMask (h : Raises act recs) (hact : ActsByTurns (silently act)) (mask : Byte) (r : Rpu) (s : State) :
    actOnMask mask (unlessBarred act) (reporting r s) =
      (reporting (r.notingAll (raisedRecords recs mask s)) (actOnMask mask (unlessBarred (silently act)) s).1,
        (actOnMask mask (unlessBarred (silently act)) s).2) := by
  have turn (c : Chan) (u : State) : Turns (· = c) u (actIfNamed mask (unlessBarred (silently act)) c u).1 :=
    actIfNamed_turns hact mask c u
  have other {c d : Chan} (hd : d ≠ c) (u : State) :
      KeepsProgram d u (actIfNamed mask (unlessBarred (silently act)) c u).1 := ((turn c u).keepsChannel hd).1
  unfold Machine.actOnMask
  simp only [h.split mask]
  generalize hs1 : (actIfNamed mask (unlessBarred (silently act)) 0 s).1 = s1
  have k1 {d : Chan} (hd : d ≠ 0) : KeepsProgram d s s1 := hs1 ▸ other hd s
  generalize hs2 : (actIfNamed mask (unlessBarred (silently act)) 1 s1).1 = s2
  have k2 {d : Chan} (hd : d ≠ 1) : KeepsProgram d s1 s2 := hs2 ▸ other hd s1
  generalize hs3 : (actIfNamed mask (unlessBarred (silently act)) 2 s2).1 = s3
  have k3 {d : Chan} (hd : d ≠ 2) : KeepsProgram d s2 s3 := hs3 ▸ other hd s2
  have e1 := h.namedRecords_eq mask (k1 (d := 1) (by decide))
  have e2 := h.namedRecords_eq mask ((k1 (d := 2) (by decide)).trans (k2 (by decide)))
  have e3 := h.namedRecords_eq mask (((k1 (d := 3) (by decide)).trans (k2 (by decide))).trans (k3 (by decide)))
  rw [e1, e2, e3]
  simp [raisedRecords, Rpu.notingAll_append]

theorem Raises.length_raisedRecords (h : Raises act recs) (mask : Byte) (s : State) :
    (raisedRecords recs mask s).length ≤ 8 := by
  have few (c : Chan) := h.length_namedRecords mask c (s.chan c)
  have f0 := few 0
  have f1 := few 1
  have f2 := few 2
  have f3 := few 3
  simp only [raisedRecords, List.flatMap_cons, List.flatMap_nil, List.length_append, List.length_nil]
  omega

/-- The turns of a command whose records the report unit takes in the turns of `order` (R195). -/
theorem Raises.raisedInTurn (h : Raises act recs) (hact : ActsByTurns (silently act)) (order : List Chan) (mask : Byte)
    (s : State) :
    raisedInTurn order (Machine.actOnMask mask (unlessBarred act)) s =
      (reporting (s.rpu.notingAll (inTurn order (raisedRecords recs mask s)))
        (Machine.actOnMask mask (unlessBarred (silently act)) s).1,
        (Machine.actOnMask mask (unlessBarred (silently act)) s).2) := by
  have aside : setAside s = reporting { events := [], lost := false } s := rfl
  have room : ({ events := [], lost := false } : Rpu).notingAll (raisedRecords recs mask s) =
      { events := raisedRecords recs mask s, lost := false } :=
    Rpu.notingAll_of_room (by simpa using h.length_raisedRecords mask s)
  unfold Machine.raisedInTurn raiseInTurn
  rw [aside, h.actOnMask hact, room]
  dsimp only
  rw [foldl_raise_eq]
  rfl

theorem recompute_reporting (r : Rpu) (s : State) : recompute (reporting r s) = reporting r (recompute s) := by
  have declared : declareDemands (reporting r s) = reporting r (declareDemands s) := by
    have request (u : State) : makeRequest (reporting r u) = reporting r (makeRequest u) := by
      rw [makeRequest, makeRequest, apply_ite (reporting r)]
      rfl
    unfold declareDemands
    dsimp only
    rw [apply_ite (reporting r), ← request]
    rfl
  rw [recompute, recompute, declared]
  rfl

/-- A COMMAND whose channels raise records is carried out as one without them, and then the report unit takes the records
(R170 to R172, R195). -/
theorem live_acceptCommand_raising {h : CmdHeader} {s : State} (ha : Accepts h s) (code : Byte) (order : List Chan)
    (mask : Byte) (hr : Raises act recs) (hact : ActsByTurns (silently act)) :
    live (acceptCommand h code fun s =>
        settled (Machine.raisedInTurn order (Machine.actOnMask mask (unlessBarred act)) s)) s =
      .next (reporting (s.rpu.notingAll (inTurn order (raisedRecords recs mask s)))
        (afterCommand h code mask (silently act) id s)) := by
  have before := settles_atCommand h s
  have records : raisedRecords recs mask (atCommand h s) = raisedRecords recs mask s := by
    unfold raisedRecords
    congr 1
    funext c
    exact hr.namedRecords_eq mask (before.channel c).1
  rw [live_acceptCommand_answered ha, answered, hr.raisedInTurn hact, records, before.rpu, settled,
    recompute_reporting]
  rfl

/-- The records of a command, as `RaisesOf` counts them. -/
theorem raisesOf_reporting (mask : Byte) (order : List Chan) (s t : State) :
    RaisesOf recs mask order s (reporting (s.rpu.notingAll (inTurn order (raisedRecords recs mask s))) t) := by
  have records : ((([0, 1, 2, 3] : List Chan).filter fun d => maskNames mask d && notBarred (s.chan d)).flatMap fun d =>
      recs d (s.chan d)) = raisedRecords recs mask s := by
    have filtered (l : List Chan) : ((l.filter fun d => maskNames mask d && notBarred (s.chan d)).flatMap fun d =>
        recs d (s.chan d)) = l.flatMap fun d => namedRecords recs mask d (s.chan d) := by
      induction l with
      | nil => rfl
      | cons d l ih =>
        rw [List.filter_cons, List.flatMap_cons, ← ih]
        cases hd : maskNames mask d && notBarred (s.chan d)
        · simp [namedRecords, hd]
        · simp [namedRecords, hd]
    exact filtered _
  rw [RaisesOf, records, foldl_raise_eq]
  rfl

end

/-! ### The acts of the zone line that raise records -/

/-- An act that raises no record. -/
theorem raises_nothing {act : ChannelAct} (h : ∀ c r s, act c (reporting r s) = (reporting r (act c s).1, (act c s).2)) :
    Raises act fun _ _ => [] :=
  ⟨fun c r s => h c r s, fun _ _ => by simp, fun _ _ _ _ _ => rfl⟩

theorem length_expiryRecords (a : EndAction) (c : Chan) (ch : Channel) : (expiryRecords a c ch).length ≤ 2 := by
  unfold expiryRecords
  split_ifs <;> simp

/-- The record of a STOP on a channel that has a program (R33, R56). -/
def stopRecords (c : Chan) (ch : Channel) : List EventRecord :=
  if ch.chc.state.hasProgram then
    [{ kind := .programEnd, channel := some c, slot := ch.pgu.current, parameter := 2 }]
  else []

theorem raises_stopChannel : Raises stopChannel stopRecords where
  eq c r s := by
    unfold stopChannel endIfProgram stopRecords
    rw [reporting_chan]
    split
    · rw [endProgram_reporting]
      rfl
    · rfl
  few c ch := by
    unfold stopRecords
    split <;> simp
  reads c ch ch' hchc hpgu := by rw [stopRecords, stopRecords, hchc, hpgu]

theorem raises_skipChannel : Raises skipChannel skipRecords where
  eq c r s := by
    unfold skipChannel skipRecords
    rw [reporting_chan]
    cases hst : (s.chan c).chc.state
    case running =>
      dsimp only
      by_cases hh : (s.chan c).pgu.holding = true
      · rw [if_pos hh, if_pos hh, if_pos hh, expireStep_reporting]
      · rw [if_neg hh, if_neg hh, if_neg hh, expireByRecord, reporting_chan, expireStep_reporting]
        rfl
    case delayed =>
      dsimp only
      rw [endDelay_reporting]
    all_goals rfl
  few c ch := by
    unfold skipRecords
    split
    · exact length_expiryRecords _ c ch
    · simp [delayRecords]
    all_goals simp
  reads c ch ch' hchc hpgu := by
    unfold skipRecords expiryRecords delayRecords
    rw [hchc, hpgu]

/-- The records of an ADJUST TIME on the remaining delay (R39). -/
theorem adjustDelay_reporting (op : AdjustOperation) (v : Nat) (c : Chan) (r : Rpu) (s : State) :
    adjustDelay op v c (reporting r s) =
      (reporting
        (r.notingAll
          (if (op = .set ∧ v = 0) ∨ (op = .subtract ∧ 0 < v ∧ (s.chan c).pgu.delay ≤ v) then
            delayRecords c (s.chan c)
          else []))
        (adjustDelay op v c s).1, (adjustDelay op v c s).2) := by
  have ends := endDelay_reporting c r s
  unfold adjustDelay
  cases op <;> dsimp only
  case set =>
    by_cases hv : v = 0
    · simp [hv, ends]
    · simp [hv]
      rfl
  case add =>
    by_cases hv : v = 0
    · simp [hv, Rpu.notingAll]
    · simp [hv]
      rfl
  case subtract =>
    by_cases hv : v = 0
    · simp [hv, Rpu.notingAll]
    have pos : 0 < v := by omega
    by_cases hd : (s.chan c).pgu.delay ≤ v
    · simp [hv, pos, hd, ends]
    · simp [hv, hd]
      rfl

/-- The records of an ADJUST TIME on the timer of the current step (R38). -/
theorem adjustStepTime_reporting (op : AdjustOperation) (v : Nat) (c : Chan) (r : Rpu) (s : State) :
    adjustStepTime op v c (reporting r s) =
      (reporting
        (r.notingAll
          (if (op = .set ∧ v = 0) ∨
              (op = .subtract ∧ 0 < v ∧ (s.chan c).pgu.timing = .timed ∧ (s.chan c).pgu.seconds ≤ v) then
            expiryRecords (s.chan c).pgu.endAction c (s.chan c)
          else []))
        (adjustStepTime op v c s).1, (adjustStepTime op v c s).2) := by
  have expires : expireByRecord c (reporting r s) =
      reporting (r.notingAll (expiryRecords (s.chan c).pgu.endAction c (s.chan c))) (expireByRecord c s) :=
    expireStep_reporting c _ r s
  have timed (h : (s.chan c).pgu.timing ≠ .opened) : (s.chan c).pgu.timing = .timed := by
    cases ht : (s.chan c).pgu.timing <;> simp_all
  unfold adjustStepTime
  cases op <;> dsimp only
  case set =>
    by_cases hv : v = 0
    · simp [hv, expires]
    · simp [hv]
      rfl
  case add =>
    by_cases ho : (s.chan c).pgu.timing = .opened
    · simp [ho, Rpu.notingAll]
    by_cases hv : v = 0
    · simp [ho, hv, Rpu.notingAll]
    · simp [ho, hv]
      rfl
  case subtract =>
    by_cases ho : (s.chan c).pgu.timing = .opened
    · simp [ho, Rpu.notingAll]
    by_cases hv : v = 0
    · simp [ho, hv, Rpu.notingAll]
    have pos : 0 < v := by omega
    by_cases hd : (s.chan c).pgu.seconds ≤ v
    · simp [timed ho, hv, pos, hd, expires]
    · simp [timed ho, hv, hd]
      rfl

theorem raises_adjustTime (op : AdjustOperation) (v : Nat) :
    Raises (whereAdjustable (adjustKnown .time op v)) (timeRecords op v) where
  eq c r s := by
    have delay := adjustDelay_reporting op v c r s
    have step := adjustStepTime_reporting op v c r s
    unfold whereAdjustable adjustKnown timeRecords inDelay
    rw [reporting_chan]
    cases hst : (s.chan c).chc.state
    case delayed => simpa using delay
    case running => simpa using step
    case paused =>
      by_cases ht : (s.chan c).chc.target = some .delayed
      · simpa [ht] using delay
      · simpa [ht] using step
    all_goals rfl
  few c ch := by
    have expiry := length_expiryRecords ch.pgu.endAction c ch
    unfold timeRecords
    split_ifs <;> simp [delayRecords, expiry]
  reads c ch ch' hchc hpgu := by
    unfold timeRecords expiryRecords delayRecords
    rw [hchc, hpgu]

/-- An ADJUST LEVEL raises no record. -/
theorem raises_adjustLevel (op : AdjustOperation) (v : Nat) :
    Raises (whereAdjustable (adjustKnown .level op v)) fun _ _ => [] := by
  refine raises_nothing fun c r s => ?_
  have adjusts : adjustLevel op v c (reporting r s) = reporting r (adjustLevel op v c s) := by
    have written (k : Nat) : (reporting r s).mapChan c (fun ch => { ch with pgu := ch.pgu.withLevel (adjustedLevel ch.cfg.kind op k v) }) =
        reporting r (s.mapChan c fun ch => { ch with pgu := ch.pgu.withLevel (adjustedLevel ch.cfg.kind op k v) }) := rfl
    have moves (k : Nat) (u : State) : moveValve c k (reporting r u) = reporting r (moveValve c k u) := by
      unfold moveValve
      rw [reporting_chan, apply_ite (reporting r), apply_ite (reporting r), apply_ite (reporting r),
        unreported_enterIgnitionConfigured]
      rfl
    unfold adjustLevel
    dsimp only
    rw [reporting_chan, written, moves, apply_ite (reporting r)]
  unfold whereAdjustable adjustKnown
  rw [reporting_chan]
  cases (s.chan c).chc.state
  case delayed | running | paused => exact congrArg (·, Result.done) adjusts
  all_goals rfl

/-- An ADJUST whose codes are beyond the table raises no record. -/
theorem raises_unknownAdjust : Raises (whereAdjustable fun _ s => (s, .badValue)) fun _ _ => [] := by
  refine raises_nothing fun c r s => ?_
  unfold whereAdjustable
  rw [reporting_chan]
  cases (s.chan c).chc.state <;> rfl

/-! ### Their turns, apart from the records -/

/-- A turn with its records left out. -/
abbrev SilentTurn (c : Chan) (s t : State) : Prop := Turns (· = c) s (reporting s.rpu t)

theorem silentTurn_of_turns {c : Chan} {s t : State} (h : Turns (· = c) s t) : SilentTurn c s t := by
  have rpu : t.rpu = s.rpu := by rw [h.station]
  rwa [SilentTurn, ← rpu, reporting_self]

/-- Operations on channel `c` that raise records, one after another. -/
theorem silentTurn_of_reporting {c : Chan} {r : Rpu} {s t : State} (h : Turns (· = c) (reporting r s) t) :
    SilentTurn c s t := by
  refine ⟨?_, h.fixtures, h.others⟩
  have station := h.station
  generalize t.chans = cs at station
  generalize t.igu = g at station
  subst station
  rfl

theorem silentTurn_endProgram (c : Chan) (cause : EndCause) (into : ChanState) (s : State) :
    SilentTurn c s (endProgram c cause into s) := by
  have alone : raiseFor c .programEnd cause.code s = reporting (s.rpu.noting _) s := raiseFor_reporting _ _ _ s.rpu s
  unfold endProgram
  rw [alone]
  exact silentTurn_of_reporting ((turns_quench c _).trans (turns_mapChan c _ _))

theorem silentTurn_expireStep (c : Chan) (a : EndAction) (s : State) : SilentTurn c s (expireStep c a s) := by
  have alone : raiseFor c .stepEnd a.code s = reporting (s.rpu.noting _) s := raiseFor_reporting _ _ _ s.rpu s
  unfold expireStep
  dsimp only
  rw [alone]
  cases a <;> dsimp only
  case hold => exact silentTurn_of_reporting (turns_mapChan c _ _)
  case finish =>
    rw [endProgram_reporting]
    exact silentTurn_endProgram c _ _ s
  case next =>
    split
    · exact silentTurn_of_reporting (turns_startSlot c _ _)
    · rw [endProgram_reporting]
      exact silentTurn_endProgram c _ _ s

theorem silentTurn_endDelay (c : Chan) (s : State) : SilentTurn c s (endDelay c s) := by
  have alone : raiseFor c .delayEnd 0 s = reporting (s.rpu.noting _) s := raiseFor_reporting _ _ _ s.rpu s
  unfold endDelay
  dsimp only
  rw [alone]
  split
  · exact silentTurn_of_reporting (turns_startSlot c _ _)
  · exact silentTurn_of_reporting (.refl _ _)

theorem silently_stopChannel_turns : ActsByTurns (silently stopChannel) := by
  intro c s
  show SilentTurn c s (endIfProgram c .stopped s)
  unfold endIfProgram
  split
  · exact silentTurn_endProgram c _ _ s
  · exact silentTurn_of_turns (.refl _ s)

theorem silently_skipChannel_turns : ActsByTurns (silently skipChannel) := by
  intro c s
  show SilentTurn c s (skipChannel c s).1
  unfold skipChannel
  split <;> dsimp only
  case h_1 =>
    split
    · exact silentTurn_expireStep c _ s
    · exact silentTurn_expireStep c _ s
  case h_2 => exact silentTurn_endDelay c s
  all_goals exact silentTurn_of_turns (.refl _ s)

theorem silentTurn_adjustDelay (op : AdjustOperation) (v : Nat) (c : Chan) (s : State) :
    SilentTurn c s (adjustDelay op v c s).1 := by
  unfold adjustDelay
  cases op <;> dsimp only <;> split_ifs <;> dsimp only
  any_goals exact silentTurn_endDelay c s
  any_goals exact silentTurn_of_turns (.refl _ s)
  all_goals exact silentTurn_of_turns (turns_mapChan c _ s)

theorem silentTurn_adjustStepTime (op : AdjustOperation) (v : Nat) (c : Chan) (s : State) :
    SilentTurn c s (adjustStepTime op v c s).1 := by
  unfold adjustStepTime
  cases op <;> dsimp only <;> split_ifs <;> dsimp only
  any_goals exact silentTurn_expireStep c _ s
  any_goals exact silentTurn_of_turns (.refl _ s)
  all_goals exact silentTurn_of_turns (turns_mapChan c _ s)

theorem silentTurn_adjustLevel (op : AdjustOperation) (v : Nat) (c : Chan) (s : State) :
    SilentTurn c s (adjustLevel op v c s) := by
  refine silentTurn_of_turns ?_
  have written (k : Nat) := turns_mapChan c
    (fun ch => { ch with pgu := ch.pgu.withLevel (adjustedLevel ch.cfg.kind op k v) }) s
  unfold adjustLevel moveValve
  dsimp only
  refine (written (s.chan c).pgu.level).trans ?_
  split_ifs
  · exact turns_mapChan c _ _
  · exact turns_mapChan c _ _
  · exact turns_enterIgnition c _ _
  · exact .refl _ _
  · exact .refl _ _

theorem silently_adjust_turns {act : ChannelAct} (h : ∀ c s, SilentTurn c s (act c s).1) :
    ActsByTurns (silently (whereAdjustable act)) := by
  intro c s
  show SilentTurn c s (whereAdjustable act c s).1
  unfold whereAdjustable
  split
  case h_1 | h_2 | h_3 => exact h c s
  all_goals exact silentTurn_of_turns (.refl _ s)

theorem silently_adjustKnown_turns (target : AdjustTarget) (op : AdjustOperation) (v : Nat) :
    ActsByTurns (silently (whereAdjustable (adjustKnown target op v))) := by
  refine silently_adjust_turns fun c s => ?_
  unfold adjustKnown
  cases target <;> dsimp only
  · exact silentTurn_adjustLevel op v c s
  · split
    · exact silentTurn_adjustDelay op v c s
    · exact silentTurn_adjustStepTime op v c s

theorem silently_unknownAdjust_turns : ActsByTurns (silently (whereAdjustable fun _ s => (s, .badValue))) :=
  silently_adjust_turns fun _ s => silentTurn_of_turns (.refl _ s)

end Sys2Proof.Machine
end

section
/-! Settles O48: channels that a command does not reach (03, 08). -/

namespace Sys2Proof.Machine

section
variable {h : CmdHeader} {code mask : Byte} {act : ChannelAct}

/-- What a command leaves alone and answers on the channels that it does not reach (R46, R47 steps 1 and 2). -/
abbrev SparesBarred (h : CmdHeader) (code mask : Byte) (c : Chan) (s t : State) : Prop :=
  (maskNames mask c = false → KeepsChannel c s t ∧ Replies h code c .done s t) ∧
  (maskNames mask c = true → (s.chan c).chc.state = .lockout → KeepsChannel c s t ∧ Replies h code c .lockedOut s t) ∧
  (maskNames mask c = true → (s.chan c).chc.state ≠ .lockout → (s.chan c).cfg.kind = .unused →
    KeepsChannel c s t ∧ Replies h code c .unusedChannel s t) ∧
  KeepsClockwork s t ∧ t.stationConfigured = s.stationConfigured

theorem afterCommand_spares {note : State × Quad Result → State × Quad Result} (hact : ActsByTurns act)
    (hnote : NotesOnly note) (s : State) (c : Chan) :
    SparesBarred h code mask c s (afterCommand h code mask act note s) := by
  obtain ⟨clockwork, -, -⟩ := afterCommand_keeps (h := h) (code := code) (mask := mask) hact hnote s
  have replies := afterCommand_replies (h := h) (code := code) (mask := mask) hact hnote s c
  obtain ⟨u, hu, hres, ht⟩ := afterCommand_turn (h := h) (code := code) (mask := mask) hact hnote s c
  have ⟨⟨⟨uchc, _, ucfg⟩, _⟩, _, _, _⟩ := hu
  have spared {r : Result} (hturn : actIfNamed mask (unlessBarred act) c u = (u, r)) :
      KeepsChannel c s (afterCommand h code mask act note s) ∧
        Replies h code c r s (afterCommand h code mask act note s) := by
    rw [hturn] at hres ht
    rw [hres] at replies
    exact ⟨ht.keepsChannel hu, replies⟩
  refine ⟨fun hm => spared ?_, fun hm hl => spared ?_, fun hm hl hk => spared ?_, clockwork, ?_⟩
  · simp [actIfNamed, hm]
  · simp [actIfNamed, unlessBarred, hm, uchc, hl]
  · simp [actIfNamed, unlessBarred, hm, uchc, ucfg, hl, hk]
  · have turns := (actOnMask_turns (actIfNamed_turns hact mask) (atCommand h s)).station
    rw [(settles_afterCommand hnote s).configured, turns, ← (settles_atCommand h s).configured]

/-- A command that notes nothing beside its answers. -/
theorem notesOnly_id : NotesOnly id := fun r => ⟨r.1.lastStarted, r.1.configOpen, rfl⟩

theorem raising_spares {recs : Chan → Channel → List EventRecord} {s : State} (ha : Accepts h s) (order : List Chan)
    (hr : Raises act recs) (hact : ActsByTurns (silently act)) (c : Chan) :
    ∃ t, live (acceptCommand h code fun s => settled (raisedInTurn order (actOnMask mask (unlessBarred act)) s)) s =
        .next t ∧ SparesBarred h code mask c s t := by
  refine ⟨_, live_acceptCommand_raising ha code order mask hr hact, ?_⟩
  have spares := afterCommand_spares (h := h) (code := code) (mask := mask) hact notesOnly_id s c
  exact spares

end

/-- What a channel does with an ADJUST, by its codes: BAD_VALUE where one is beyond the table (R179). -/
def adjustByCodes (target operation : Byte) (v : Nat) : ChannelAct := fun c s =>
  match adjustTargetOfByte target, adjustOperationOfByte operation with
  | some t, some op => adjustKnown t op v c s
  | _, _ => (s, .badValue)

theorem runAdjustCodes_eq (order : List Chan) (mask target operation : Byte) (value : BitVec 24) :
    runAdjustCodes order mask target operation value = fun s =>
      settled (raisedInTurn order
        (actOnMask mask (unlessBarred (whereAdjustable (adjustByCodes target operation value.toNat)))) s) := rfl

/-- The codes of an ADJUST are beyond the table, or they are a target and an operation. -/
theorem adjustByCodes_cases (target operation : Byte) (v : Nat) :
    (adjustByCodes target operation v = fun _ s => (s, .badValue)) ∨
    ∃ t op, adjustByCodes target operation v = adjustKnown t op v := by
  unfold adjustByCodes
  cases adjustTargetOfByte target with
  | none => exact .inl rfl
  | some t =>
    cases adjustOperationOfByte operation with
    | none => exact .inl rfl
    | some op => exact .inr ⟨t, op, rfl⟩

/-- An ADJUST raises what it raises, and does the rest by turns, whatever its codes are. -/
theorem adjustByCodes_raises (target operation : Byte) (v : Nat) :
    ∃ recs, Raises (whereAdjustable (adjustByCodes target operation v)) recs ∧
      ActsByTurns (silently (whereAdjustable (adjustByCodes target operation v))) := by
  obtain hact | ⟨t, op, hact⟩ := adjustByCodes_cases target operation v <;> rw [hact]
  · exact ⟨_, raises_unknownAdjust, silently_unknownAdjust_turns⟩
  · cases t
    · exact ⟨_, raises_adjustLevel op v, silently_adjustKnown_turns .level op v⟩
    · exact ⟨_, raises_adjustTime op v, silently_adjustKnown_turns .time op v⟩

/-- A command that is no command answers BAD_VALUE on all four channels (R172). -/
def refuses (u : State) : State × Quad Result := (u, .fill .badValue)

/-- Settles O48: no turn of a command is taken on a channel that it does not reach. -/
theorem channelsBarredFromACommandAreUntouched : Obligations.ChannelsBarredFromACommandAreUntouched := by
  intro s i h code mask parameters c ha
  refine ⟨fun hi => ?_, fun hu => ?_⟩
  · have level (op : AdjustOperation) (order : List Chan) (mask : Byte) (value : BitVec 24) :=
      raising_spares (code := 10) (mask := mask) ha order (raises_adjustLevel op value.toNat)
        (silently_adjustKnown_turns .level op value.toNat) c
    have time (op : AdjustOperation) (order : List Chan) (mask : Byte) (value : BitVec 24) :=
      raising_spares (code := 10) (mask := mask) ha order (raises_adjustTime op value.toNat)
        (silently_adjustKnown_turns .time op value.toNat) c
    cases i
    case start =>
      cases hi
      exact ⟨_, live_acceptCommand ha 5 mask _ _,
        afterCommand_spares (startChannel_turns _ _) (noteStart_notesOnly mask) s c⟩
    case pause =>
      cases hi
      exact ⟨_, live_acceptCommand ha 6 mask pauseChannel id, afterCommand_spares pauseChannel_turns notesOnly_id s c⟩
    case resume =>
      cases hi
      exact ⟨_, live_acceptCommand ha 7 mask resumeChannel id, afterCommand_spares resumeChannel_turns notesOnly_id s c⟩
    case stop header selector order =>
      by_cases hsel : selector.toNat < 16
      · rw [programCommand, if_pos hsel] at hi
        cases hi
        have masked : runStop order mask = runStopMask order mask := funext fun s => if_pos hsel
        show ∃ t, live (acceptCommand h 8 (runStop order mask)) s = .next t ∧ _
        rw [masked]
        exact raising_spares ha order raises_stopChannel silently_stopChannel_turns c
      · rw [programCommand, if_neg hsel] at hi
        cases hi
    case skip order =>
      cases hi
      exact raising_spares ha order raises_skipChannel silently_skipChannel_turns c
    case adjustLevelSet value =>
      cases hi
      exact level .set [] mask value
    case adjustLevelAdd value =>
      cases hi
      exact level .add [] mask value
    case adjustLevelSubtract value =>
      cases hi
      exact level .subtract [] mask value
    case adjustTimeSet target operation value order =>
      cases hi
      obtain ⟨recs, raises, turns⟩ := adjustByCodes_raises target operation value.toNat
      exact raising_spares ha order raises turns c
    case adjustTimeAdd value =>
      cases hi
      exact time .add [] mask value
    case adjustTimeSubtract value order =>
      cases hi
      exact time .subtract order mask value
    all_goals cases hi
  · have unknown : exec (.commandUnknown h code parameters) s =
        live (acceptCommand h code refuses) s := by
      show live (onlyIf (unknownCommand code parameters) _) s = _
      rw [hu]
      rfl
    have run : refuses (atCommand h s) = (atCommand h s, .fill .badValue) := rfl
    obtain ⟨settles, hopen⟩ := answered_refused (code := code) run
    exact ⟨_, unknown.trans (live_acceptCommand_answered ha code _), answered_replies run rfl (Quad.get_fill _ _),
      fun d => (settles.channel d).1, settles.clockwork, settles.rpu, hopen⟩

end Sys2Proof.Machine
end

section
/-! SUPPORT. What the turn of a channel in a raising command finds and leaves, its burner with it (R46, R125, R126). -/

namespace Sys2Proof.Machine

/-! ### Burners that do not wait -/

/-- A burner `c` that does not wait in the ignition queue keeps its record, and does not come to wait. -/
abbrev KeepsUnqueued (c : Chan) (s t : State) : Prop :=
  c ∉ s.igu.queue → c ∉ t.igu.queue ∧ (t.chan c).burner = (s.chan c).burner

theorem KeepsUnqueued.refl (c : Chan) (s : State) : KeepsUnqueued c s s := fun h => ⟨h, rfl⟩

theorem KeepsUnqueued.trans {c : Chan} {s t u : State} (h : KeepsUnqueued c s t) (k : KeepsUnqueued c t u) :
    KeepsUnqueued c s u := fun hc =>
  have ⟨ht, hb⟩ := h hc
  have ⟨hu, kb⟩ := k ht
  ⟨hu, kb.trans hb⟩

theorem keepsUnqueued_promote (c : Chan) (s : State) : KeepsUnqueued c s (promote s) := by
  refine fun hc => ⟨?_, by rw [promote_chan_of_not_mem hc]⟩
  unfold promote
  split
  case h_1 d rest _ hq =>
    rw [hq, List.mem_cons, not_or] at hc
    exact hc.2
  case h_2 => exact hc

theorem keepsUnqueued_releaseUnit (c : Chan) (s : State) : KeepsUnqueued c s (releaseUnit s) :=
  keepsUnqueued_promote c { s with igu := { s.igu with holder := none, spark := false } }

section
variable {c d : Chan} (hd : d ≠ c)
include hd

theorem keepsUnqueued_mapChan (f : Channel → Channel) (s : State) : KeepsUnqueued c s (s.mapChan d f) := fun hc =>
  ⟨hc, by rw [State.chan_mapChan_ne _ _ _ _ hd.symm]⟩

theorem keepsUnqueued_enterIgnition (n : Nat) (s : State) : KeepsUnqueued c s (enterIgnition d n s) := by
  rw [enterIgnition_eq_promote]
  have joined : KeepsUnqueued c s { s with igu := { s.igu with queue := s.igu.queue ++ [d] } } := fun hc =>
    ⟨by simpa [hc] using hd.symm, rfl⟩
  exact (joined.trans (keepsUnqueued_mapChan hd _ _)).trans (keepsUnqueued_promote c _)

theorem keepsUnqueued_leaveIgnition (s : State) : KeepsUnqueued c s (leaveIgnition d s) := by
  have cleared (u : State) := keepsUnqueued_mapChan hd
    (fun ch => { ch with burner := ch.burner.outOfIgnition, valve := 0 }) u
  unfold leaveIgnition
  dsimp only
  cases (s.chan d).burner.phase <;> dsimp only
  case none => exact .refl c s
  case queued =>
    have left : KeepsUnqueued c s { s with igu := { s.igu with queue := s.igu.queue.filter (· ≠ d) } } := fun hc =>
      ⟨fun hm => hc (List.mem_filter.1 hm).1, rfl⟩
    exact left.trans (cleared _)
  case purge => exact cleared s
  all_goals exact (cleared s).trans (keepsUnqueued_releaseUnit c _)

theorem keepsUnqueued_quench (s : State) : KeepsUnqueued c s (quench d s) :=
  (keepsUnqueued_leaveIgnition hd s).trans (keepsUnqueued_mapChan hd _ _)

omit hd in
theorem keepsUnqueued_raiseFor (k : EventKind) (p : Nat) (s : State) : KeepsUnqueued c s (raiseFor d k p s) := by
  rw [raiseFor, raise_eq]
  exact .refl c s

theorem keepsUnqueued_endProgram (cause : EndCause) (into : ChanState) (s : State) :
    KeepsUnqueued c s (endProgram d cause into s) :=
  ((keepsUnqueued_raiseFor _ _ s).trans (keepsUnqueued_quench hd _)).trans (keepsUnqueued_mapChan hd _ _)

theorem keepsUnqueued_startSlot (n : Slot) (s : State) : KeepsUnqueued c s (startSlot d n s) := by
  unfold startSlot
  dsimp only
  refine (keepsUnqueued_mapChan hd (fun ch => { ch with pgu := ch.pgu.started n }) s).trans ?_
  split_ifs
  case neg => exact keepsUnqueued_enterIgnition hd _ _
  all_goals exact keepsUnqueued_mapChan hd _ _

theorem keepsUnqueued_expireStep (a : EndAction) (s : State) : KeepsUnqueued c s (expireStep d a s) := by
  unfold expireStep
  dsimp only
  refine (keepsUnqueued_raiseFor (d := d) .stepEnd a.code s).trans ?_
  cases a <;> dsimp only
  case hold => exact keepsUnqueued_mapChan hd _ _
  case finish => exact keepsUnqueued_endProgram hd _ _ _
  case next =>
    split
    · exact keepsUnqueued_startSlot hd _ _
    · exact keepsUnqueued_endProgram hd _ _ _

theorem keepsUnqueued_endDelay (s : State) : KeepsUnqueued c s (endDelay d s) := by
  unfold endDelay
  dsimp only
  refine (keepsUnqueued_raiseFor (d := d) .delayEnd 0 s).trans ?_
  split
  · exact keepsUnqueued_startSlot hd _ _
  · exact .refl c _

end

/-- Another channel's turn leaves alone the burner of a channel that does not wait. -/
abbrev SparesUnqueued (act : ChannelAct) : Prop := ∀ {c d : Chan}, d ≠ c → ∀ s, KeepsUnqueued c s (act d s).1

theorem stopChannel_sparesUnqueued : SparesUnqueued stopChannel := by
  intro c d hd s
  unfold stopChannel endIfProgram
  dsimp only
  split
  · exact keepsUnqueued_endProgram hd _ _ s
  · exact .refl c s

theorem skipChannel_sparesUnqueued : SparesUnqueued skipChannel := by
  intro c d hd s
  unfold skipChannel
  split <;> dsimp only
  case h_1 =>
    split
    · exact keepsUnqueued_expireStep hd _ s
    · exact keepsUnqueued_expireStep hd _ s
  case h_2 => exact keepsUnqueued_endDelay hd s
  all_goals exact .refl c s

theorem whereAdjustable_sparesUnqueued {act : ChannelAct} (h : SparesUnqueued act) :
    SparesUnqueued (whereAdjustable act) := by
  intro c d hd s
  unfold whereAdjustable
  split
  case h_1 | h_2 | h_3 => exact h hd s
  all_goals exact .refl c s

theorem adjustTime_sparesUnqueued (op : AdjustOperation) (v : Nat) : SparesUnqueued (adjustKnown .time op v) := by
  intro c d hd s
  unfold adjustKnown adjustDelay adjustStepTime
  dsimp only
  split <;> cases op <;> dsimp only <;> split_ifs <;> dsimp only
  any_goals exact .refl c s
  any_goals exact keepsUnqueued_mapChan hd _ s
  any_goals exact keepsUnqueued_endDelay hd s
  all_goals exact keepsUnqueued_expireStep hd _ s

/-! ### The turn of a channel -/

/-- The turns of a command as channel `c` sees them, for whatever the turns of the others keep. -/
theorem actOnMask_around {R : State → State → Prop} (refl : ∀ s, R s s) (trans : ∀ {s t u}, R s t → R t u → R s u)
    {mask : Byte} {act : ChannelAct} {c : Chan} (h : ∀ d, d ≠ c → ∀ u, R u (actIfNamed mask act d u).1) (s : State) :
    ∃ u, R s u ∧ (actOnMask mask act s).2.get c = (actIfNamed mask act c u).2 ∧
      R (actIfNamed mask act c u).1 (actOnMask mask act s).1 := by
  unfold actOnMask
  fin_cases c
  · exact ⟨_, refl s, rfl, trans (h 1 (by decide) _) (trans (h 2 (by decide) _) (h 3 (by decide) _))⟩
  · exact ⟨_, h 0 (by decide) s, rfl, trans (h 2 (by decide) _) (h 3 (by decide) _)⟩
  · exact ⟨_, trans (h 0 (by decide) s) (h 1 (by decide) _), rfl, h 3 (by decide) _⟩
  · exact ⟨_, trans (h 0 (by decide) s) (trans (h 1 (by decide) _) (h 2 (by decide) _)), rfl, refl _⟩

theorem actIfNamed_sparesUnqueued {act : ChannelAct} (h : SparesUnqueued act) (mask : Byte) :
    SparesUnqueued (actIfNamed mask (unlessBarred act)) := by
  intro c d hd s
  unfold actIfNamed unlessBarred
  split_ifs
  · exact .refl c s
  · exact .refl c s
  · exact h hd s
  · exact .refl c s

theorem Settles.keepsUnqueued {s t : State} (h : Settles s t) (c : Chan) : KeepsUnqueued c s t := fun hc =>
  ⟨by rwa [h.igu], h.burner c⟩

section
variable {h : CmdHeader} {code mask : Byte} {act : ChannelAct} {recs : Chan → Channel → List EventRecord}

/-- The turn of a named channel past steps 1 and 2 in a raising command: what it finds, what it answers, and what is
left. -/
structure RaisingTurn (h : CmdHeader) (code mask : Byte) (order : List Chan) (act : ChannelAct)
    (recs : Chan → Channel → List EventRecord) (c : Chan) (s u t : State) : Prop where
  before : BeforeTurn c s u
  waits : KeepsUnqueued c s u
  after : AfterTurn c (act c u).1 t
  stays : KeepsUnqueued c (act c u).1 t
  replies : Replies h code c (act c u).2 s t
  cfg : (t.chan c).cfg = (s.chan c).cfg
  clockwork : KeepsClockwork s t
  records : RaisesOf recs mask order s t
  lastStarted : t.lastStarted = s.lastStarted
  follows : IgnitesByTurns (silently act) → IgnitionFollows s t

/-- A raising command as the channel `c` sees it. -/
theorem raising_turn {s : State} (ha : Accepts h s) (order : List Chan) (hr : Raises act recs)
    (hact : ActsByTurns (silently act)) (hspares : SparesUnqueued act) {c : Chan} (hm : maskNames mask c = true)
    (hb : notBarred (s.chan c) = true) :
    ∃ u t, live (acceptCommand h code fun s => settled (raisedInTurn order (actOnMask mask (unlessBarred act)) s)) s =
        .next t ∧
      RaisingTurn h code mask order act recs c s u t := by
  have before := settles_atCommand h s
  have after := settles_afterCommand (h := h) (code := code) (mask := mask) (act := silently act) notesOnly_id s
  have named := actIfNamed_turns hact mask
  have spares : SparesUnqueued (actIfNamed mask (unlessBarred (silently act))) :=
    actIfNamed_sparesUnqueued (act := silently act) (fun hd s => hspares hd s) mask
  obtain ⟨u, ⟨hu, huq⟩, hres, hv, hvq⟩ := actOnMask_around (mask := mask) (act := unlessBarred (silently act)) (c := c)
    (R := fun s t => Turns (· ≠ c) s t ∧ KeepsUnqueued c s t) (fun s => ⟨.refl _ s, .refl c s⟩)
    (fun h k => ⟨h.1.trans k.1, h.2.trans k.2⟩)
    (fun d hd u => ⟨(named d u).mono fun _ he => he ▸ hd, spares hd u⟩) (atCommand h s)
  have unmoved : ¬ c ≠ c := fun hc => hc rfl
  have found : BeforeTurn c s u :=
    ⟨(before.channel c).trans (hu.keepsChannel unmoved), before.clockwork.trans hu.keepsClockwork,
      by rw [hu.station, ← before.configured], by rw [hu.driver unmoved]; exact atCommand_driver h s c⟩
  have hub : notBarred (u.chan c) = true := by
    obtain ⟨⟨⟨hchc, -, hcfg⟩, -⟩, -⟩ := found
    rwa [notBarred, hchc, hcfg]
  rw [actIfNamed_unbarred (silently act) hm hub] at hres hv hvq
  obtain ⟨clockwork, -, hcfg⟩ := afterCommand_keeps (h := h) (code := code) (mask := mask) hact notesOnly_id s
  have replies := afterCommand_replies (h := h) (code := code) (mask := mask) hact notesOnly_id s c
  rw [commandResults, hres] at replies
  have left : ((afterCommand h code mask (silently act) id s).chan c).driver =
      followCeiling _ { (afterCommand h code mask (silently act) id s).chan c with
        driver := ((actOnMask mask (unlessBarred (silently act)) (atCommand h s)).1.chan c).driver } :=
    recompute_driver _ c
  rw [hv.driver unmoved] at left
  have started : (afterCommand h code mask (silently act) id s).lastStarted = s.lastStarted := by
    have turns := (actOnMask_turns named (atCommand h s)).station
    obtain ⟨-, hlast, -⟩ := atCommand_record h s
    show (recompute (actOnMask mask (unlessBarred (silently act)) (atCommand h s)).1).lastStarted = _
    rw [recompute_lastStarted, turns, ← hlast]
  exact ⟨u, _, live_acceptCommand_raising ha code order mask hr hact,
    ⟨found, (before.keepsUnqueued c).trans huq, ⟨(hv.keepsChannel unmoved).trans (after.channel c), _, left⟩,
      hvq.trans (after.keepsUnqueued c), replies, hcfg c, clockwork, raisesOf_reporting mask order s _, started,
      fun ignites => afterCommand_ignitionFollows ignites notesOnly_id h code mask s⟩⟩

end

/-! ### A program that ends in its turn -/

/-- What the end of a program leaves of its channel (R33, R56). -/
structure EndsProgram (cause : EndCause) (into : ChanState) (c : Chan) (u v : State) : Prop where
  chc : (v.chan c).chc = { state := into, causes := ⟨false, false⟩, target := none, endCause := cause }
  pgu : (v.chan c).pgu = (u.chan c).pgu.ended
  valve : (v.chan c).valve = 0
  dark : (v.chan c).burner.supervising = false
  burner : (u.chan c).burner.phase = .none → c ∉ u.igu.queue →
    (v.chan c).burner = (u.chan c).burner.unsupervised ∧ c ∉ v.igu.queue

theorem endProgram_ends (c : Chan) (cause : EndCause) (into : ChanState) (u : State) :
    EndsProgram cause into c u (endProgram c cause into u) := by
  have alone : raiseFor c .programEnd cause.code u = reporting (u.rpu.noting _) u := raiseFor_reporting _ _ _ u.rpu u
  obtain ⟨hvalve, hsup⟩ := quench_closed c u
  obtain ⟨-, hpgu, -⟩ := quench_chan c c u
  have ended : endProgram c cause into u = reporting (u.rpu.noting
      { kind := .programEnd, channel := some c, slot := (u.chan c).pgu.current, parameter := cause.code })
      ((quench c u).mapChan c fun ch =>
      { ch with
        pgu := ch.pgu.ended
        chc := { state := into, causes := ⟨false, false⟩, target := none, endCause := cause } }) := by
    unfold endProgram
    rw [alone, unreported_quench]
    rfl
  rw [ended]
  refine ⟨?_, ?_, ?_, ?_, fun hp hq => ⟨?_, ?_⟩⟩
  · rw [reporting_chan, State.chan_mapChan_self]
  · rw [reporting_chan, State.chan_mapChan_self]
    exact congrArg Pgu.ended hpgu
  · rw [reporting_chan, State.chan_mapChan_self]
    exact hvalve
  · rw [reporting_chan, State.chan_mapChan_self]
    exact hsup
  · rw [reporting_chan, State.chan_mapChan_self, quench_of_no_phase hp, State.chan_mapChan_self]
    rfl
  · rw [quench_of_no_phase hp]
    exact hq

/-- A driver whose channel is not RUNNING drives an element at level 0 (R100). -/
theorem followCeiling_level_of_rest (f : Option Frequency) {ch : Channel} (hk : ch.cfg.kind.isElement = true)
    (hs : ch.chc.state ≠ .running) (hl : ch.chc.state ≠ .lockout) : (followCeiling f ch).level = 0 := by
  unfold followCeiling
  rw [if_neg hl]
  cases hkind : ch.cfg.kind <;> simp_all [ChanKind.isElement, driveLimit]

/-- A program that ends in the turn of its channel has ended when the command is over. -/
theorem ended_of_turn {cause : EndCause} {c : Chan} {s u v t : State} (hu : KeepsChannel c s u)
    (waits : KeepsUnqueued c s u) (h : EndsProgram cause .idle c u v) (hcfg : (t.chan c).cfg = (s.chan c).cfg)
    (ht : AfterTurn c v t) (stays : KeepsUnqueued c v t) : Ended cause c s t := by
  obtain ⟨⟨⟨tchc, tpgu, -⟩, tvalve, -, -, tsup⟩, f, hf⟩ := ht
  obtain ⟨⟨-, upgu, -⟩, -⟩ := hu
  refine ⟨tchc.trans h.chc, tpgu.trans (by rw [h.pgu, upgu]; rfl), tvalve.trans h.valve, tsup.trans h.dark,
    fun hp hq => ?_, fun hk => ?_⟩
  · obtain ⟨huq, hub⟩ := waits hq
    obtain ⟨hvb, hvq⟩ := h.burner (by rw [hub, hp]) huq
    rw [(stays hvq).2, hvb, hub]
    rfl
  · rw [hf]
    refine followCeiling_level_of_rest f ?_ ?_ ?_
    · show (t.chan c).cfg.kind.isElement = true
      rw [hcfg]
      exact hk
    · show (t.chan c).chc.state ≠ .running
      simp [tchc, h.chc]
    · show (t.chan c).chc.state ≠ .lockout
      simp [tchc, h.chc]

/-! ### A slot that starts in its turn -/

theorem chcAfterStart_eq_of_lit {ch : Channel} {n : Slot} (hl : ch.lit = true) : chcAfterStart ch n = ch.chc := by
  have running : ch.chc.state = .running := by
    simp only [Channel.lit, Bool.and_eq_true, beq_iff_eq] at hl
    exact hl.1.1
  simp [chcAfterStart, running, hl]
  rw [← running]

/-- A slot that starts on a channel (R25, R26): its program, its controller, and the driver of an element that enters
RUNNING (R104). -/
theorem startSlot_chan (c : Chan) (n : Slot) (u : State) :
    ((startSlot c n u).chan c).pgu = startedProgram (u.chan c).pgu n ∧
    ((startSlot c n u).chan c).chc = chcAfterStart (u.chan c) n ∧
    ((u.chan c).cfg.kind ≠ .burner → (u.chan c).chc.state ≠ .running → (u.chan c).chc.state ≠ .paused →
      ((startSlot c n u).chan c).driver = (u.chan c).driver.afresh (u.chan c).cfg.kind) := by
  rw [← started_eq]
  unfold startSlot
  dsimp only
  by_cases hp : (u.chan c).chc.state = .paused
  · rw [if_pos hp, mapChan_mapChan, State.chan_mapChan_self]
    exact ⟨rfl, by simp [chcAfterStart, hp], fun _ _ h => absurd hp h⟩
  rw [if_neg hp]
  by_cases hk : (u.chan c).cfg.kind = .burner
  swap
  · rw [if_pos hk, mapChan_mapChan, State.chan_mapChan_self]
    exact ⟨rfl, by simp [chcAfterStart, hp, hk, Channel.enterRunning], fun _ hr _ => by simp [Channel.enterRunning, hr]⟩
  rw [if_neg (not_not.2 hk)]
  have level : ((u.mapChan c fun ch => { ch with pgu := ch.pgu.started n }).chan c).pgu.level = levelAt (u.chan c) n := by
    rw [State.chan_mapChan_self]
    exact started_level _ n
  rw [level]
  by_cases h0 : levelAt (u.chan c) n = 0
  · rw [if_pos h0, mapChan_mapChan, State.chan_mapChan_self]
    exact ⟨rfl, by simp [chcAfterStart, hp, h0, Channel.enterRunning, Channel.extinguished], fun h => absurd hk h⟩
  rw [if_neg h0]
  by_cases hl : (u.chan c).lit = true
  · rw [if_pos hl, mapChan_mapChan, State.chan_mapChan_self]
    exact ⟨rfl, (chcAfterStart_eq_of_lit hl).symm, fun h => absurd hk h⟩
  · obtain ⟨hchc, hpgu, -⟩ := enterIgnition_chan c (u.chan c).cfg.params.attempts
      (u.mapChan c fun ch => { ch with pgu := ch.pgu.started n })
    rw [if_neg hl, enterIgnitionConfigured, State.chan_mapChan_self]
    refine ⟨hpgu.trans ?_, hchc.trans ?_, fun h => absurd hk h⟩
    · rw [State.chan_mapChan_self]
    · rw [State.chan_mapChan_self]
      simp [chcAfterStart, hp, hk, Nat.pos_of_ne_zero h0, hl]

theorem levelAt_congr {a b : Channel} (h : b.pgu = a.pgu) (n : Slot) : levelAt b n = levelAt a n := by
  rw [levelAt, levelAt, h]

theorem lit_congr {a b : Channel} (hchc : b.chc = a.chc) (hpgu : b.pgu = a.pgu) (hcfg : b.cfg = a.cfg) :
    b.lit = a.lit := by rw [Channel.lit, Channel.lit, hchc, hpgu, hcfg]

/-- A slot that starts in the turn of its channel has started when the command is over. -/
theorem started_of_turn {c : Chan} {n : Slot} {s u t : State} (hu : BeforeTurn c s u)
    (ht : AfterTurn c (startSlot c n u) t) : Started c n s t := by
  obtain ⟨hpgu, hchc, hdriver⟩ := startSlot_chan c n u
  have ⟨⟨uchc, upgu, ucfg⟩, _⟩ := hu.channel
  have ⟨⟨⟨tchc, tpgu, tcfg⟩, _⟩, _⟩ := ht
  have cfg := ((turns_startSlot c n u).fixtures c).1
  have started : chcAfterStart (u.chan c) n = chcAfterStart (s.chan c) n := by
    rw [chcAfterStart, chcAfterStart, lit_congr uchc upgu ucfg, levelAt_congr upgu, uchc, ucfg]
  refine ⟨by rw [tpgu, hpgu, upgu], by rw [tchc, hchc, started], fun hr hp => ?_⟩
  by_cases hk : (u.chan c).cfg.kind = .burner
  · have hk' : (t.chan c).cfg.kind = .burner := by rw [tcfg, cfg, hk]
    exact ⟨fun h => by simp [hk'] at h, fun h => by simp [hk'] at h⟩
  · refine ht.afresh hu hr ?_ cfg (hdriver hk (by rwa [uchc]) (by rwa [uchc]))
    rw [hchc, chcAfterStart, uchc, if_neg hp, if_neg fun h => hk h.1]

/-! ### A step that expires, and a delay that ends, in its turn -/

theorem endProgram_of_reporting {c : Chan} {cause : EndCause} {into : ChanState} {r : Rpu} {u : State} :
    EndsProgram cause into c u (endProgram c cause into (reporting r u)) := by
  have ends := endProgram_ends c cause into (reporting r u)
  exact ⟨ends.chc, ends.pgu, ends.valve, ends.dark, ends.burner⟩

/-- The following slot, where it holds a step (R29). -/
theorem following_eq (p : Pgu) (n : Slot) :
    p.following n = if n = 7 ∨ p.slotAt (n + 1) = none then none else some (n + 1) := by
  unfold Pgu.following
  by_cases h7 : n = 7
  · simp [h7]
  · cases hs : p.slotAt (n + 1) <;> simp [h7]

/-- A step that expires in the turn of its channel has expired when the command is over (R29 to R32). -/
theorem expired_of_turn {a : EndAction} {c : Chan} {n : Slot} {s u t : State} (hcurrent : (s.chan c).pgu.current = some n)
    (hu : BeforeTurn c s u) (waits : KeepsUnqueued c s u) (hcfg : (t.chan c).cfg = (s.chan c).cfg)
    (ht : AfterTurn c (expireStep c a u) t) (stays : KeepsUnqueued c (expireStep c a u) t) : Expired a c n s t := by
  have alone : raiseFor c .stepEnd a.code u = reporting (u.rpu.noting _) u := raiseFor_reporting _ _ _ u.rpu u
  have ⟨⟨uchc, upgu, _⟩, _⟩ := hu.channel
  unfold expireStep at ht stays
  dsimp only at ht stays
  rw [alone] at ht stays
  cases a <;> dsimp only at ht stays ⊢
  case hold =>
    obtain ⟨⟨⟨tchc, tpgu, -⟩, -⟩, -⟩ := ht
    rw [State.chan_mapChan_self, reporting_chan] at tchc tpgu
    exact ⟨tpgu.trans (by rw [upgu]; rfl), tchc.trans uchc⟩
  case finish => exact ended_of_turn hu.channel waits endProgram_of_reporting hcfg ht stays
  case next =>
    rw [upgu, hcurrent, Option.bind_some, following_eq] at ht stays
    by_cases hlast : n = 7 ∨ (s.chan c).pgu.slotAt (n + 1) = none
    · rw [if_pos hlast] at ht stays
      show if _ then Ended .completed c s t else _
      rw [if_pos hlast]
      exact ended_of_turn hu.channel waits endProgram_of_reporting hcfg ht stays
    · rw [if_neg hlast] at ht
      show if _ then Ended .completed c s t else _
      rw [if_neg hlast]
      dsimp only at ht
      rw [unreported_startSlot] at ht
      exact started_of_turn hu ⟨ht.channel, ht.driver⟩

/-- A delay that ends in the turn of its channel has ended when the command is over (R35). -/
theorem endDelay_of_turn {c : Chan} {n : Slot} {s u t : State} (hcurrent : (s.chan c).pgu.current = some n)
    (hu : BeforeTurn c s u) (ht : AfterTurn c (endDelay c u) t) : Started c n s t := by
  have alone : raiseFor c .delayEnd 0 u = reporting (u.rpu.noting _) u := raiseFor_reporting _ _ _ u.rpu u
  have ⟨⟨_, upgu, _⟩, _⟩ := hu.channel
  unfold endDelay at ht
  dsimp only at ht
  rw [alone, upgu, hcurrent] at ht
  dsimp only at ht
  rw [unreported_startSlot] at ht
  exact started_of_turn hu ⟨ht.channel, ht.driver⟩

end Sys2Proof.Machine
end

section
/-! Settles O52 to O55: SKIP and ADJUST (02). -/

namespace Sys2Proof.Machine

/-! ### The ignition unit in the turns of a raising command -/

theorem IgnitionTurn.to_reporting {c : Chan} {r : Rpu} {s t : State} (h : IgnitionTurn c s t) :
    IgnitionTurn c s (reporting r t) where
  others := h.others
  cfg := h.cfg
  effect := h.effect.imp (fun k => ⟨k.igu, k.state, k.burner⟩) fun k => ⟨k.before, k.after, k.igu, k.burner⟩

theorem IgnitionTurn.of_reporting {c : Chan} {r : Rpu} {s t : State} (h : IgnitionTurn c (reporting r s) t) :
    IgnitionTurn c s t where
  others := h.others
  cfg := h.cfg
  effect := h.effect.imp (fun k => ⟨k.igu, k.state, k.burner⟩) fun k => ⟨k.before, k.after, k.igu, k.burner⟩

section
variable {c : Chan} {u : State} (hr : ReadyForTurn c u) (hs : (u.chan c).chc.state ≠ .igniting)
include hr hs

theorem ignitionTurn_endProgram (cause : EndCause) {into : ChanState} (hinto : into ≠ .igniting) :
    IgnitionTurn c u (endProgram c cause into u) := by
  have alone : raiseFor c .programEnd cause.code u = reporting (u.rpu.noting _) u := raiseFor_reporting _ _ _ u.rpu u
  unfold endProgram
  rw [alone, unreported_quench, quench_of_no_phase (hr.phase hs)]
  have ended : IgnitionTurn c u ((u.mapChan c Channel.extinguished).mapChan c fun ch =>
      { ch with
        pgu := ch.pgu.ended
        chc := { state := into, causes := ⟨false, false⟩, target := none, endCause := cause } }) := by
    rw [mapChan_mapChan]
    exact ignitionTurn_mapChan c _ u hs hinto
  exact ended.to_reporting

theorem ignitionTurn_expireStep (a : EndAction) : IgnitionTurn c u (expireStep c a u) := by
  have alone : raiseFor c .stepEnd a.code u = reporting (u.rpu.noting _) u := raiseFor_reporting _ _ _ u.rpu u
  have ends : IgnitionTurn c u (endProgram c .completed .idle u) := ignitionTurn_endProgram hr hs _ (by decide)
  unfold expireStep
  dsimp only
  rw [alone]
  cases a <;> dsimp only
  case hold =>
    exact .of_reporting (r := u.rpu.noting _) (ignitionTurn_mapChan c (fun ch => { ch with pgu := ch.pgu.held }) _ hs hs)
  case finish =>
    rw [endProgram_reporting]
    exact ends.to_reporting
  case next =>
    split
    · rw [unreported_startSlot]
      exact (ignitionTurn_startSlot c _ u hr hs).to_reporting
    · rw [endProgram_reporting]
      exact ends.to_reporting

theorem ignitionTurn_endDelay : IgnitionTurn c u (endDelay c u) := by
  have alone : raiseFor c .delayEnd 0 u = reporting (u.rpu.noting _) u := raiseFor_reporting _ _ _ u.rpu u
  unfold endDelay
  dsimp only
  rw [alone]
  split
  · rw [unreported_startSlot]
    exact (ignitionTurn_startSlot c _ u hr hs).to_reporting
  · exact .to_reporting (.refl c u)

end

theorem silently_skipChannel_ignites : IgnitesByTurns (silently skipChannel) := by
  intro c u hr
  refine .to_reporting (r := u.rpu) (t := (skipChannel c u).1) ?_
  unfold skipChannel
  split <;> dsimp only
  case h_1 hst =>
    split
    · exact ignitionTurn_expireStep hr (by simp [hst]) _
    · exact ignitionTurn_expireStep hr (by simp [hst]) _
  case h_2 hst => exact ignitionTurn_endDelay hr (by simp [hst])
  all_goals exact .refl c u

/-- An ADJUST acts on no burner in IGNITING. -/
theorem silently_adjust_ignites {act : ChannelAct}
    (h : ∀ c u, ReadyForTurn c u → (u.chan c).chc.state ≠ .igniting → IgnitionTurn c u (act c u).1) :
    IgnitesByTurns (silently (whereAdjustable act)) := by
  intro c u hr
  refine .to_reporting (r := u.rpu) (t := (whereAdjustable act c u).1) ?_
  unfold whereAdjustable
  split
  case h_1 hst | h_2 hst | h_3 hst => exact h c u hr (by simp [hst])
  all_goals exact .refl c u

theorem adjustTime_ignites (op : AdjustOperation) (v : Nat) :
    IgnitesByTurns (silently (whereAdjustable (adjustKnown .time op v))) := by
  refine silently_adjust_ignites fun c u hr hs => ?_
  unfold adjustKnown adjustDelay adjustStepTime
  dsimp only
  split <;> cases op <;> dsimp only <;> split_ifs <;> dsimp only
  any_goals exact .refl c u
  any_goals exact ignitionTurn_mapChan c _ u hs hs
  any_goals exact ignitionTurn_endDelay hr hs
  all_goals exact ignitionTurn_expireStep hr hs _

theorem adjustLevel_ignites (op : AdjustOperation) (v : Nat) :
    IgnitesByTurns (silently (whereAdjustable (adjustKnown .level op v))) := by
  refine silently_adjust_ignites fun c u hr hs => ?_
  unfold adjustKnown adjustLevel moveValve
  dsimp only
  refine .of_mapChan (f := fun ch => { ch with
    pgu := ch.pgu.withLevel (adjustedLevel ch.cfg.kind op (u.chan c).pgu.level v) }) ?_
  split_ifs
  · exact ignitionTurn_mapChan c _ _ (by simpa using hs) (by simpa using hs)
  · exact ignitionTurn_mapChan c _ _ (by simpa using hs) (by simpa [Channel.extinguished] using hs)
  · exact ignitionTurn_enterIgnition c _ hr.free (by simpa using hs)
  · exact .refl c _
  · exact .refl c _

/-! ### SKIP -/

/-- The end action of the current record. -/
theorem endAction_eq {p : Pgu} {n : Slot} {r : StepRecord} (hc : p.current = some n) (hs : p.slotAt n = some r) :
    p.endAction = r.endAction := by
  rw [Pgu.endAction, Pgu.currentRecord, hc, Option.bind_some, hs]
  rfl

/-- Settles O52: the turn of the channel, by its state. -/
theorem skipExpiresTheStep : Obligations.SkipExpiresTheStep := by
  intro s h mask c n r order ha hm hb hprogram
  obtain ⟨u, t, run, turn⟩ := raising_turn (h := h) (code := 9) ha order raises_skipChannel silently_skipChannel_turns
    skipChannel_sparesUnqueued hm hb
  have ⟨⟨uchc, upgu, _⟩, _⟩ := turn.before.channel
  have replies := turn.replies
  have after := turn.after
  have stays := turn.stays
  refine ⟨t, run, turn.cfg, turn.clockwork, turn.records, turn.follows silently_skipChannel_ignites, ?_⟩
  unfold skipChannel at replies after stays
  rw [uchc] at replies after stays
  cases hst : (s.chan c).chc.state <;> rw [hst] at replies after stays hprogram <;> dsimp only at replies after stays ⊢
  case running =>
    obtain ⟨hcurrent, hslot⟩ := hprogram rfl
    have byRecord : expireByRecord c u = expireStep c r.endAction u :=
      congrArg (expireStep c · u) (by rw [upgu, endAction_eq hcurrent hslot])
    rw [byRecord, ← apply_ite (expireStep c · u), upgu] at after stays
    exact ⟨replies, expired_of_turn hcurrent turn.before turn.waits turn.cfg after stays⟩
  case delayed =>
    obtain ⟨hcurrent, -⟩ := hprogram rfl
    exact ⟨replies, endDelay_of_turn hcurrent turn.before after⟩
  case lockout => simp [notBarred, hst] at hb
  all_goals exact ⟨replies, after.keepsChannel turn.before⟩

/-! ### ADJUST TIME -/

theorem inTurn_of_none (order : List Chan) : inTurn order [] = [] := (inTurn_perm order []).eq_nil

/-- Where no channel raises a record, turns do not matter. -/
theorem raisesOf_none {recs : Chan → Channel → List EventRecord} {mask : Byte} {s t : State}
    (hnone : ∀ c ch, recs c ch = []) (order : List Chan) (h : t.rpu = s.rpu) : RaisesOf recs mask order s t := by
  rw [RaisesOf, List.flatMap_eq_nil_iff.2 fun d _ => hnone d _, inTurn_of_none]
  exact h

theorem rpu_of_raisesOf {recs : Chan → Channel → List EventRecord} {mask : Byte} {order : List Chan} {s t : State}
    (hnone : ∀ c ch, recs c ch = []) (h : RaisesOf recs mask order s t) : t.rpu = s.rpu := by
  rw [RaisesOf, List.flatMap_eq_nil_iff.2 fun d _ => hnone d _, inTurn_of_none] at h
  exact h

theorem timeRecords_add (v : Nat) (c : Chan) (ch : Channel) : timeRecords .add v c ch = [] := by
  unfold timeRecords
  simp

section
variable {s : State} {h : CmdHeader} {mask : Byte} {value : BitVec 24} {c : Chan}

/-- An ADJUST TIME as the channel `c` sees it. -/
theorem adjustTime_turn (ha : Accepts h s) (hm : maskNames mask c = true) (hb : notBarred (s.chan c) = true)
    (op : AdjustOperation) (order : List Chan) :
    ∃ u t, exec (timeCommand op h mask value order) s = .next t ∧
      RaisingTurn h 10 mask order (whereAdjustable (adjustKnown .time op value.toNat)) (timeRecords op value.toNat) c
        s u t := by
  have turn (order : List Chan) := raising_turn (h := h) (code := 10) ha order (raises_adjustTime op value.toNat)
    (silently_adjustKnown_turns .time op value.toNat)
    (whereAdjustable_sparesUnqueued (adjustTime_sparesUnqueued op value.toNat)) hm hb
  cases op with
  | set => exact turn order
  | subtract => exact turn order
  | add =>
    obtain ⟨u, t, run, k⟩ := turn []
    exact ⟨u, t, run, { k with
      records := raisesOf_none (timeRecords_add _) order (rpu_of_raisesOf (timeRecords_add _) k.records) }⟩

end

theorem timed_of_not_opened {k : Timing} (h : k ≠ .opened) : k = .timed := by
  cases k
  case timed => rfl
  case opened => exact absurd rfl h

/-- Settles O54: the turn of the channel, by the operation. -/
theorem adjustTimeActsOnTheStep : Obligations.AdjustTimeActsOnTheStep := by
  intro s h mask value op c n r order ha hm hb hstate hcurrent hslot
  obtain ⟨u, t, run, turn⟩ := adjustTime_turn (value := value) ha hm hb op order
  have ⟨⟨uchc, upgu, _⟩, _⟩ := turn.before.channel
  have acts : whereAdjustable (adjustKnown .time op value.toNat) c u = adjustStepTime op value.toNat c u := by
    unfold whereAdjustable adjustKnown inDelay
    rw [uchc]
    obtain hst | ⟨hst, ht⟩ := hstate
    · simp [hst]
    · simp [hst, ht]
  have byRecord : expireByRecord c u = expireStep c r.endAction u :=
    congrArg (expireStep c · u) (by rw [upgu, endAction_eq hcurrent hslot])
  have replies := turn.replies
  have after := turn.after
  have stays := turn.stays
  rw [acts] at replies after stays
  refine ⟨t, run, turn.cfg, turn.clockwork, turn.records, turn.follows (adjustTime_ignites op value.toNat), ?_⟩
  have expired (k : AfterTurn c (expireByRecord c u) t) (l : KeepsUnqueued c (expireByRecord c u) t) :
      Expired r.endAction c n s t := by
    rw [byRecord] at k l
    exact expired_of_turn hcurrent turn.before turn.waits turn.cfg k l
  have put {q : Pgu} (k : AfterTurn c (u.mapChan c fun ch => { ch with pgu := q }) t) :
      (t.chan c).chc = (s.chan c).chc ∧ (t.chan c).pgu = q := by
    obtain ⟨⟨tchc, tpgu, -⟩, -⟩ := k.channel
    rw [State.chan_mapChan_self] at tchc tpgu
    exact ⟨tchc.trans uchc, tpgu⟩
  unfold adjustStepTime at replies after stays
  rw [upgu] at replies after stays
  by_cases hv : value.toNat = 0
  · cases op <;> simp only [hv, if_true, decide_true] at replies after stays ⊢
    case set => exact ⟨replies, expired after stays⟩
    case add =>
      split_ifs at replies after ⊢
      · exact ⟨replies, after.keepsChannel turn.before⟩
      · obtain ⟨⟨hchc, hpgu, -⟩, -⟩ := after.keepsChannel turn.before
        exact ⟨replies, hchc, hpgu⟩
    case subtract =>
      split_ifs at replies after ⊢
      · exact ⟨replies, after.keepsChannel turn.before⟩
      · exact ⟨replies, after.keepsChannel turn.before⟩
  · cases op <;> simp only [hv, if_false, decide_false] at replies after stays ⊢
    case set => exact ⟨replies, put after⟩
    case add =>
      by_cases ho : (s.chan c).pgu.timing = .opened
      · rw [if_pos ho] at replies after ⊢
        exact ⟨replies, after.keepsChannel turn.before⟩
      · rw [if_neg ho] at replies after ⊢
        obtain ⟨hchc, hpgu⟩ := put after
        refine ⟨replies, hchc, hpgu.trans ?_⟩
        rw [Pgu.timedFor, ← timed_of_not_opened ho]
        rfl
    case subtract =>
      by_cases ho : (s.chan c).pgu.timing = .opened
      · rw [if_pos ho] at replies after ⊢
        exact ⟨replies, after.keepsChannel turn.before⟩
      rw [if_neg ho] at replies after stays ⊢
      by_cases hd : (s.chan c).pgu.seconds ≤ value.toNat
      · rw [if_pos hd] at replies after stays ⊢
        exact ⟨replies, expired after stays⟩
      · rw [if_neg hd] at replies after ⊢
        exact ⟨replies, put after⟩

theorem adjustTargetOfByte_eq_none {b : Byte} (h : 2 ≤ b.toNat) : adjustTargetOfByte b = none := by
  unfold adjustTargetOfByte
  split
  · omega
  · omega
  · rfl

theorem adjustOperationOfByte_eq_none {b : Byte} (h : 3 ≤ b.toNat) : adjustOperationOfByte b = none := by
  unfold adjustOperationOfByte
  split
  · omega
  · omega
  · omega
  · rfl

/-- Settles O55: the turn of the channel, by its state and the operation. -/
theorem adjustTimeActsOnTheDelay : Obligations.AdjustTimeActsOnTheDelay := by
  intro s h mask target operation value op c n order ha hm hb
  refine ⟨fun hstate hcurrent => ?_, fun hstate => ?_, fun hcodes => ?_⟩
  · obtain ⟨u, t, run, turn⟩ := adjustTime_turn (value := value) ha hm hb op order
    have ⟨⟨uchc, upgu, _⟩, _⟩ := turn.before.channel
    have acts : whereAdjustable (adjustKnown .time op value.toNat) c u = adjustDelay op value.toNat c u := by
      unfold whereAdjustable adjustKnown inDelay
      rw [uchc]
      obtain hst | ⟨hst, ht⟩ := hstate
      · simp [hst]
      · simp [hst, ht]
    have replies := turn.replies
    have after := turn.after
    rw [acts] at replies after
    have started (k : AfterTurn c (endDelay c u) t) : Started c n s t := endDelay_of_turn hcurrent turn.before k
    have put {q : Pgu} (k : AfterTurn c (u.mapChan c fun ch => { ch with pgu := q }) t) :
        (t.chan c).chc = (s.chan c).chc ∧ (t.chan c).pgu = q := by
      obtain ⟨⟨tchc, tpgu, -⟩, -⟩ := k.channel
      rw [State.chan_mapChan_self] at tchc tpgu
      exact ⟨tchc.trans uchc, tpgu⟩
    unfold adjustDelay at replies after
    rw [upgu] at replies after
    have done : Replies h 10 c .done s t := by
      cases op <;> dsimp only at replies <;> split_ifs at replies <;> exact replies
    refine ⟨t, run, turn.cfg, turn.clockwork, turn.records, turn.follows (adjustTime_ignites op value.toNat), done,
      fun hv hop => ?_, fun hv hop => ?_, fun hv hop hle => ?_, fun hv hop => ?_⟩
    · subst hop
      dsimp only at after
      rw [if_pos hv] at after
      exact started after
    · cases op <;> dsimp only at after
      case set => exact absurd rfl hop
      all_goals
        rw [if_pos hv] at after
        exact after.keepsChannel turn.before
    · subst hop
      dsimp only at after
      rw [if_neg (by omega), if_pos hle] at after
      exact started after
    · cases op <;> dsimp only at after ⊢ <;> rw [if_neg (by omega)] at after
      case set => exact put after
      case add => exact put after
      case subtract =>
        have more : value.toNat < (s.chan c).pgu.delay := hop.resolve_left fun hne => hne rfl
        rw [if_neg (by omega)] at after
        exact put after
  · obtain ⟨u, t, run, turn⟩ := adjustTime_turn (value := value) ha hm hb op order
    have ⟨⟨uchc, _, _⟩, _⟩ := turn.before.channel
    have replies := turn.replies
    have after := turn.after
    unfold whereAdjustable at replies after
    rw [uchc] at replies after
    refine ⟨t, run, ?_, turn.records, ?_⟩
    all_goals cases hst : (s.chan c).chc.state <;> simp only [hst] at replies after hstate
    case refine_1.idle | refine_1.igniting | refine_1.disabled | refine_1.lockout =>
      exact after.keepsChannel turn.before
    case refine_2.idle | refine_2.igniting | refine_2.disabled => exact replies
    case refine_2.lockout => simp [notBarred, hst] at hb
    all_goals simp [ChanState.hasProgram] at hstate
  · have unknown : adjustByCodes target operation value.toNat = fun _ s => (s, .badValue) := by
      unfold adjustByCodes
      obtain ht | ho := hcodes
      · rw [adjustTargetOfByte_eq_none ht]
      · rw [adjustOperationOfByte_eq_none ho]
        cases adjustTargetOfByte target <;> rfl
    obtain ⟨u, t, run, turn⟩ := raising_turn (h := h) (code := 10) ha order raises_unknownAdjust
      silently_unknownAdjust_turns (whereAdjustable_sparesUnqueued fun _ s => .refl _ s) hm hb
    have ⟨⟨uchc, _, _⟩, _⟩ := turn.before.channel
    have replies := turn.replies
    have after := turn.after
    unfold whereAdjustable at replies after
    rw [uchc] at replies after
    have row : exec (.adjustTimeSet h mask target operation value order) s =
        live (acceptCommand h 10 (runAdjustCodes order mask target operation value)) s := rfl
    refine ⟨t, ?_, ?_, rpu_of_raisesOf (fun _ _ => rfl) turn.records, ?_⟩
    · rw [row, ← run]
      rw [runAdjustCodes_eq, unknown]
    all_goals cases hst : (s.chan c).chc.state <;> simp only [hst] at replies after
    case refine_3.lockout => simp [notBarred, hst] at hb
    case refine_3.idle | refine_3.delayed | refine_3.igniting | refine_3.running | refine_3.paused |
        refine_3.disabled => exact replies
    all_goals exact after.keepsChannel turn.before

/-! ### ADJUST LEVEL -/

theorem withLevel_eq {p : Pgu} {n : Slot} {r : StepRecord} (hc : p.current = some n) (hs : p.slotAt n = some r)
    (v : Nat) : p.withLevel v = { p with slots := p.slots.set n.val (some { r with level := v }) } := by
  simp [Pgu.withLevel, hc, hs]

theorem level_withLevel {p : Pgu} {n : Slot} {r : StepRecord} (hc : p.current = some n) (hs : p.slotAt n = some r)
    (hl : p.slots.length = 8) (v : Nat) : (p.withLevel v).level = v := by
  have hn : n.val < p.slots.length := by
    rw [hl]
    exact n.isLt
  simp [withLevel_eq hc hs, Pgu.level, Pgu.currentRecord, hc, Pgu.slotAt, List.getElem?_set_self hn]

theorem level_eq {p : Pgu} {n : Slot} {r : StepRecord} (hc : p.current = some n) (hs : p.slotAt n = some r) :
    p.level = r.level := by
  simp [Pgu.level, Pgu.currentRecord, hc, hs]

/-- An ADJUST LEVEL of a channel whose current record is `r` (R37, R40). -/
theorem adjustLevel_chan {op : AdjustOperation} {v : Nat} {c : Chan} {n : Slot} {r : StepRecord} {new : Nat}
    {u : State} (hc : (u.chan c).pgu.current = some n) (hs : (u.chan c).pgu.slotAt n = some r)
    (hl : (u.chan c).pgu.slots.length = 8) (hnew : adjustedLevel (u.chan c).cfg.kind op r.level v = new) :
    ((adjustLevel op v c u).chan c).pgu =
      { (u.chan c).pgu with slots := (u.chan c).pgu.slots.set n.val (some { r with level := new }) } ∧
    ((adjustLevel op v c u).chan c).chc =
      (if (u.chan c).chc.state = .running ∧ (u.chan c).cfg.kind = .burner ∧ r.level = 0 ∧ 0 < new then
        { (u.chan c).chc with state := .igniting }
      else (u.chan c).chc) ∧
    (¬ ((u.chan c).chc.state = .running ∧ (u.chan c).cfg.kind = .burner) →
      ((adjustLevel op v c u).chan c).valve = (u.chan c).valve) ∧
    ((u.chan c).chc.state = .running → (u.chan c).cfg.kind = .burner → 0 < r.level →
      ((adjustLevel op v c u).chan c).valve = new ∧
      (new = 0 → ((adjustLevel op v c u).chan c).burner.supervising = false)) := by
  have written := level_withLevel hc hs hl new
  have record := withLevel_eq hc hs new
  unfold adjustLevel
  dsimp only
  rw [level_eq hc hs]
  have moved : (u.mapChan c fun ch => { ch with pgu := ch.pgu.withLevel (adjustedLevel ch.cfg.kind op r.level v) }) =
      u.mapChan c fun ch => { ch with pgu := ch.pgu.withLevel new } := by
    rw [State.mapChan, State.mapChan, hnew]
  rw [moved, ← record]
  by_cases hb : (u.chan c).chc.state = .running ∧ (u.chan c).cfg.kind = .burner
  swap
  · rw [if_neg hb, if_neg fun h => hb ⟨h.1, h.2.1⟩, State.chan_mapChan_self]
    exact ⟨rfl, rfl, fun _ => rfl, fun hr hk => absurd ⟨hr, hk⟩ hb⟩
  obtain ⟨hr, hk⟩ := hb
  rw [if_pos ⟨hr, hk⟩, moveValve]
  have level : ((u.mapChan c fun ch => { ch with pgu := ch.pgu.withLevel new }).chan c).pgu.level = new := by
    rw [State.chan_mapChan_self]
    exact written
  rw [level]
  by_cases h0 : 0 < r.level
  · rw [if_neg (show ¬ (_ ∧ _ ∧ r.level = 0 ∧ _) from fun h => by omega)]
    by_cases h1 : 0 < new
    · rw [if_pos ⟨h0, h1⟩, mapChan_mapChan, State.chan_mapChan_self]
      exact ⟨rfl, rfl, fun h => absurd ⟨hr, hk⟩ h, fun _ _ _ => ⟨written, fun h => by omega⟩⟩
    · rw [if_neg fun h => h1 h.2, if_pos h0, mapChan_mapChan, State.chan_mapChan_self]
      exact ⟨rfl, rfl, fun h => absurd ⟨hr, hk⟩ h, fun _ _ _ => ⟨by show 0 = new; omega, fun _ => rfl⟩⟩
  · rw [if_neg fun h => h0 h.1, if_neg h0]
    by_cases h1 : 0 < new
    · obtain ⟨hchc, hpgu, -⟩ := enterIgnition_chan c (u.chan c).cfg.params.attempts
        (u.mapChan c fun ch => { ch with pgu := ch.pgu.withLevel new })
      rw [State.chan_mapChan_self] at hchc hpgu
      rw [if_pos h1, if_pos ⟨hr, hk, by omega, h1⟩, enterIgnitionConfigured, State.chan_mapChan_self]
      exact ⟨hpgu, hchc, fun h => absurd ⟨hr, hk⟩ h, fun _ _ h => absurd h h0⟩
    · rw [if_neg h1, if_neg fun h => h1 h.2.2.2, State.chan_mapChan_self]
      exact ⟨rfl, rfl, fun h => absurd ⟨hr, hk⟩ h, fun _ _ h => absurd h h0⟩

theorem adjustLevel_sparesUnqueued (op : AdjustOperation) (v : Nat) : SparesUnqueued (adjustKnown .level op v) := by
  intro c d hd s
  unfold adjustKnown adjustLevel moveValve
  dsimp only
  refine (keepsUnqueued_mapChan hd (fun ch => { ch with
    pgu := ch.pgu.withLevel (adjustedLevel ch.cfg.kind op (s.chan d).pgu.level v) }) s).trans ?_
  split_ifs
  · exact keepsUnqueued_mapChan hd _ _
  · exact keepsUnqueued_mapChan hd _ _
  · exact keepsUnqueued_enterIgnition hd _ _
  · exact .refl c _
  · exact .refl c _

/-- Settles O53: the turn of the channel, by its state. -/
theorem adjustLevelWritesTheRecord : Obligations.AdjustLevelWritesTheRecord := by
  intro s h mask value op c n r new ha hm hb hslots hprogram hnew
  have row : exec (levelCommand op h mask value) s = live (acceptCommand h 10 fun s => settled (raisedInTurn []
      (actOnMask mask (unlessBarred (whereAdjustable (adjustKnown .level op value.toNat)))) s)) s := by
    cases op <;> rfl
  obtain ⟨u, t, run, turn⟩ := raising_turn (h := h) (code := 10) ha [] (raises_adjustLevel op value.toNat)
    (silently_adjustKnown_turns .level op value.toNat)
    (whereAdjustable_sparesUnqueued (adjustLevel_sparesUnqueued op value.toNat)) hm hb
  have ⟨⟨uchc, upgu, ucfg⟩, uvalve, _⟩ := turn.before.channel
  have replies := turn.replies
  have after := turn.after
  refine ⟨t, row.trans run, turn.cfg, turn.clockwork, rpu_of_raisesOf (fun _ _ => rfl) turn.records,
    turn.follows (adjustLevel_ignites op value.toNat), ?_⟩
  have adjusted (k : AfterTurn c (adjustLevel op value.toNat c u) t) (hst : (s.chan c).chc.state.hasProgram = true) :
      (t.chan c).pgu =
        { (s.chan c).pgu with slots := (s.chan c).pgu.slots.set n.val (some { r with level := new }) } ∧
      (t.chan c).chc =
        (if (s.chan c).chc.state = .running ∧ (s.chan c).cfg.kind = .burner ∧ r.level = 0 ∧ 0 < new then
          { (s.chan c).chc with state := .igniting }
        else (s.chan c).chc) ∧
      (¬ ((s.chan c).chc.state = .running ∧ (s.chan c).cfg.kind = .burner) → (t.chan c).valve = (s.chan c).valve) ∧
      ((s.chan c).chc.state = .running → (s.chan c).cfg.kind = .burner → 0 < r.level →
        (t.chan c).valve = new ∧ (new = 0 → (t.chan c).burner.supervising = false)) := by
    obtain ⟨hcurrent, hslot⟩ := hprogram hst
    have level : adjustedLevel (u.chan c).cfg.kind op r.level value.toNat = new := by
      rw [ucfg, hnew]
      cases op <;> rfl
    have acted := adjustLevel_chan (u := u) (by rwa [upgu]) (by rwa [upgu]) (by rwa [upgu]) level
    obtain ⟨⟨⟨tchc, tpgu, -⟩, tvalve, -, -, tsup⟩, -⟩ := k
    rw [uchc, upgu, ucfg, uvalve] at acted
    rw [tchc, tpgu, tvalve, tsup]
    exact acted
  unfold whereAdjustable at replies after
  rw [uchc] at replies after
  cases hst : (s.chan c).chc.state <;> rw [hst] at replies after <;> dsimp only [adjustKnown] at replies after ⊢
  case lockout => simp [notBarred, hst] at hb
  case delayed | paused =>
    obtain ⟨hpgu, hchc, hvalve, -⟩ := adjusted after (by rw [hst]; rfl)
    rw [if_neg (by simp [hst])] at hchc
    exact ⟨replies, hchc, hvalve (by simp [hst]), hpgu⟩
  case running =>
    obtain ⟨hpgu, hchc, -, hvalve⟩ := adjusted after (by rw [hst]; rfl)
    simp only [hst, true_and] at hchc hvalve
    exact ⟨replies, hpgu, hchc, fun hk hr => (hvalve trivial hk hr).1, fun hk hr => (hvalve trivial hk hr).2⟩
  all_goals exact ⟨replies, after.keepsChannel turn.before⟩

end Sys2Proof.Machine
end

section
/-! Settles O51: STOP, STOP LAST and HALT (03). -/

namespace Sys2Proof.Machine

/-! ### Burners that part from the line -/

/-- From the sound state `s` the programs of the channels `gone` have ended: the line of `s` has lost them, the head of what
is left is holder, and the others are as they were (R126, R127). -/
structure Parted (s : State) (gone : List Chan) (u : State) : Prop where
  igu : u.igu =
    { s.igu.withLine (s.igu.line.filter (· ∉ gone)) with
      spark := s.igu.spark && decide ((s.igu.line.filter (· ∉ gone)).head? = s.igu.holder) }
  stays : ∀ d, d ∉ gone → (u.chan d).chc = (s.chan d).chc ∧
    (u.chan d).burner =
      if (s.igu.line.filter (· ∉ gone)).head? = some d ∧ s.igu.holder ≠ some d then (s.chan d).burner.atLineWait
      else (s.chan d).burner
  left : ∀ d ∈ gone, (u.chan d).chc.state ≠ .igniting ∧
    ((s.chan d).chc.state = .igniting →
      (u.chan d).burner = (s.chan d).burner.outOfIgnition ∧ (u.chan d).valve = 0)

theorem Parted.reporting {s u : State} {gone : List Chan} (h : Parted s gone u) (r : Rpu) :
    Parted s gone (reporting r u) := ⟨h.igu, h.stays, h.left⟩

theorem line_of_holder {s : State} {x : Chan} (h : s.igu.holder = some x) : s.igu.line = x :: s.igu.queue := by
  rw [Igu.line, h]
  rfl

section
variable {s : State} (hf : FuelSound s)
include hf

/-- Without a holder there is no line, and the spark is off (R126). -/
theorem line_of_free (h : s.igu.holder = none) : s.igu.line = [] ∧ s.igu.spark = false := by
  obtain ⟨-, hw, hs, -⟩ := hf
  refine ⟨by rw [Igu.line, h, hw h]; rfl, ?_⟩
  by_contra hspark
  obtain ⟨x, hx, -⟩ := hs (by simpa using hspark)
  simp [h] at hx

theorem line_head : s.igu.line.head? = s.igu.holder := by
  cases hh : s.igu.holder with
  | none => rw [(line_of_free hf hh).1]; rfl
  | some x => rw [line_of_holder hh]; rfl

/-- Each burner stands in the line once (R124, R125). -/
theorem line_nodup : s.igu.line.Nodup := by
  obtain ⟨hn, -, -, hc⟩ := hf
  cases hh : s.igu.holder with
  | none => simpa [Igu.line, hh] using hn
  | some x =>
    obtain ⟨hholds, hqueued, -⟩ := hc x
    rw [line_of_holder hh, List.nodup_cons]
    refine ⟨fun hx => ?_, hn⟩
    have waits := hqueued.2 hx
    have holds := hholds.2 hh
    simp [waits, IgnitionPhase.holdsUnit] at holds

/-- The line holds the burners with a phase that are not in PURGE (R124 to R126, R137). -/
theorem mem_line_iff (c : Chan) :
    c ∈ s.igu.line ↔ (s.chan c).burner.phase.holdsUnit = true ∨ (s.chan c).burner.phase = .queued := by
  obtain ⟨-, -, -, hc⟩ := hf
  obtain ⟨hholds, hqueued, -⟩ := hc c
  rw [Igu.line, List.mem_append, Option.mem_toList, hholds, hqueued]

theorem Parted.refl : Parted s [] s where
  igu := by
    have all : s.igu.line.filter (· ∉ ([] : List Chan)) = s.igu.line := List.filter_eq_self.2 (by simp)
    rw [all, Igu.withLine_line _ hf.2.1, line_head hf]
    simp
  stays d _ := by
    have all : s.igu.line.filter (· ∉ ([] : List Chan)) = s.igu.line := List.filter_eq_self.2 (by simp)
    rw [all, line_head hf, if_neg fun h => h.2 h.1]
    exact ⟨rfl, rfl⟩
  left d hd := by simp at hd

end

/-- What is left of the line when one more burner parts. -/
theorem filter_gone_cons (l : List Chan) (c : Chan) (gone : List Chan) :
    l.filter (· ∉ c :: gone) = (l.filter (· ∉ gone)).filter (· ≠ c) := by
  rw [List.filter_filter]
  refine List.filter_congr fun d _ => ?_
  simp [not_or]

/-- The record of a burner that has been quenched out of IGNITING. -/
theorem unsupervised_outOfIgnition (b : Burner) : b.outOfIgnition.unsupervised = b.outOfIgnition := rfl

/-- The end of a program of a burner outside the line leaves the line alone. -/
theorem quench_offLine {c : Chan} {u : State} (h : (u.chan c).burner.phase = .none ∨ (u.chan c).burner.phase = .purge) :
    ∃ b, quench c u = u.mapChan c (fun ch => { ch with burner := b, valve := 0 }) ∧
      ((u.chan c).burner.phase = .purge → b = (u.chan c).burner.outOfIgnition) := by
  obtain hp | hp := h
  · refine ⟨(u.chan c).burner.unsupervised, ?_, fun h => by rw [hp] at h; cases h⟩
    rw [quench_of_no_phase hp]
    rfl
  · refine ⟨(u.chan c).burner.outOfIgnition, ?_, fun _ => rfl⟩
    unfold quench leaveIgnition
    rw [hp]
    dsimp only
    rw [mapChan_mapChan]
    rfl

/-- The end of a program of a burner in the queue takes it out of the queue (R127). -/
theorem quench_queued {c : Chan} {u : State} (h : (u.chan c).burner.phase = .queued) :
    quench c u = { u with igu := { u.igu with queue := u.igu.queue.filter (· ≠ c) } }.mapChan c fun ch =>
      { ch with burner := ch.burner.outOfIgnition, valve := 0 } := by
  unfold quench leaveIgnition
  rw [h]
  dsimp only
  rw [mapChan_mapChan]
  rfl

/-- The end of a program of the holder releases the unit, and the next in the queue becomes holder (R126, R127). -/
theorem quench_holder {c : Chan} {u : State} (h : (u.chan c).burner.phase.holdsUnit = true) :
    quench c u = (releaseUnit (u.mapChan c fun ch =>
      { ch with burner := ch.burner.outOfIgnition, valve := 0 })).mapChan c Channel.extinguished := by
  unfold quench leaveIgnition
  cases hp : (u.chan c).burner.phase <;> simp_all [IgnitionPhase.holdsUnit]

/-- A free unit goes to the head of the queue (R126). -/
theorem releaseUnit_line {u : State} {l : List Chan} (h : u.igu.queue = l) :
    (releaseUnit u).igu = { queue := l.tail, holder := l.head?, spark := false } ∧
    ∀ d, (releaseUnit u).chan d =
      if l.head? = some d then { u.chan d with burner := (u.chan d).burner.atLineWait } else u.chan d := by
  subst h
  cases hq : u.igu.queue with
  | nil =>
    have same : releaseUnit u = { u with igu := { u.igu with holder := none, spark := false } } := by
      unfold releaseUnit promote
      split
      · simp_all
      · rfl
    rw [same]
    refine ⟨?_, fun d => rfl⟩
    show Igu.mk u.igu.queue none false = _
    rw [hq]
    rfl
  | cons x rest =>
    have promoted : releaseUnit u =
        ({ u with igu := { u.igu with holder := some x, queue := rest, spark := false } } : State).mapChan x fun ch =>
          { ch with burner := ch.burner.atLineWait } :=
      (promote_of_free (x := x) (rest := rest)
        (s := { u with igu := { u.igu with holder := none, spark := false } }) rfl hq).trans rfl
    rw [promoted]
    refine ⟨rfl, fun d => ?_⟩
    by_cases hd : d = x
    · subst hd
      rw [State.chan_mapChan_self]
      exact (if_pos rfl).symm
    · rw [State.chan_mapChan_ne _ _ _ _ hd]
      exact (if_neg fun h => hd (Option.some.inj h).symm).symm

theorem filter_ne_of_not_mem {l : List Chan} {c : Chan} (h : c ∉ l) : l.filter (· ≠ c) = l :=
  List.filter_eq_self.2 fun d hd => by simpa using fun hdc : d = c => h (hdc ▸ hd)

/-- A burner `c` gives up its place in the line `l`, and the head of what is left is holder (R126, R127). -/
theorem quench_line {u : State} {c : Chan} {l : List Chan} (hu : u.igu = { u.igu.withLine l with spark := u.igu.spark })
    (hn : l.Nodup) (hholds : (u.chan c).burner.phase.holdsUnit = true ↔ l.head? = some c)
    (hqueued : (u.chan c).burner.phase = .queued ↔ c ∈ l.tail) :
    (quench c u).igu =
      { u.igu.withLine (l.filter (· ≠ c)) with spark := u.igu.spark && decide (l.head? ≠ some c) } ∧
    (∀ d, d ≠ c → (quench c u).chan d =
      if (l.filter (· ≠ c)).head? = some d ∧ l.head? ≠ some d then
        { u.chan d with burner := (u.chan d).burner.atLineWait }
      else u.chan d) ∧
    ((u.chan c).burner.phase ≠ .none → ((quench c u).chan c).burner = (u.chan c).burner.outOfIgnition) ∧
    ((quench c u).chan c).valve = 0 := by
  have closed := (quench_closed c u).1
  have offLine (hoff : c ∉ l) : (u.chan c).burner.phase = .none ∨ (u.chan c).burner.phase = .purge := by
    have h1 : (u.chan c).burner.phase.holdsUnit ≠ true := fun h => hoff (List.mem_of_mem_head? (hholds.1 h))
    have h2 : (u.chan c).burner.phase ≠ .queued := fun h => hoff (List.mem_of_mem_tail (hqueued.1 h))
    cases hp : (u.chan c).burner.phase <;> simp_all [IgnitionPhase.holdsUnit]
  by_cases hoff : c ∉ l
  · obtain ⟨b, hquench, hb⟩ := quench_offLine (offLine hoff)
    have head : l.head? ≠ some c := fun h => hoff (List.mem_of_mem_head? h)
    rw [filter_ne_of_not_mem hoff, decide_eq_true head, Bool.and_true]
    refine ⟨?_, fun d hd => ?_, fun hp => ?_, closed⟩
    · rw [hquench]
      exact hu
    · rw [hquench, State.chan_mapChan_ne _ _ _ _ hd]
      exact (if_neg fun h => h.2 h.1).symm
    · rw [hquench, State.chan_mapChan_self]
      exact hb ((offLine hoff).resolve_left hp)
  rw [not_not] at hoff
  obtain ⟨x, rest, rfl⟩ : ∃ x rest, l = x :: rest := List.exists_cons_of_ne_nil (List.ne_nil_of_mem hoff)
  rw [List.nodup_cons] at hn
  have queue : u.igu.queue = rest := by rw [hu]; rfl
  have holder : u.igu.holder = some x := by rw [hu]; rfl
  by_cases hx : x = c
  · subst hx
    have hquench := quench_holder (hholds.2 rfl)
    obtain ⟨igu, chan⟩ := releaseUnit_line (u := u.mapChan x fun ch =>
      { ch with burner := ch.burner.outOfIgnition, valve := 0 }) (l := rest) queue
    have left : (x :: rest).filter (· ≠ x) = rest := by
      rw [List.filter_cons_of_neg (by simp), filter_ne_of_not_mem hn.1]
    rw [left, hquench]
    refine ⟨?_, fun d hd => ?_, fun _ => ?_, by rw [← hquench]; exact closed⟩
    · show (releaseUnit _).igu = _
      rw [igu]
      simp [Igu.withLine]
    · rw [State.chan_mapChan_ne _ _ _ _ hd, chan, State.chan_mapChan_ne _ _ _ _ hd]
      simp [Ne.symm hd]
    · have unpromoted : rest.head? ≠ some x := fun h => hn.1 (List.mem_of_mem_head? h)
      rw [State.chan_mapChan_self, chan, if_neg unpromoted, State.chan_mapChan_self]
      rfl
  · have waits : c ∈ rest := (List.mem_cons.1 hoff).resolve_left (Ne.symm hx)
    have left : (x :: rest).filter (· ≠ c) = x :: rest.filter (· ≠ c) := List.filter_cons_of_pos (by simpa using hx)
    rw [left, quench_queued (hqueued.2 waits)]
    refine ⟨?_, fun d hd => ?_, fun _ => ?_, ?_⟩
    · have head : (x :: rest).head? ≠ some c := fun h => hx (Option.some.inj h)
      rw [decide_eq_true head, Bool.and_true]
      show ({ u.igu with queue := u.igu.queue.filter (· ≠ c) } : Igu) = _
      rw [queue, Igu.withLine, List.head?_cons, ← holder]
      rfl
    · rw [State.chan_mapChan_ne _ _ _ _ hd]
      exact (if_neg fun h => h.2 h.1).symm
    · rw [State.chan_mapChan_self]
      rfl
    · rw [State.chan_mapChan_self]

/-- A program that ends: its burner has given up ignition, and its channel is IDLE. -/
theorem endProgram_eq (c : Chan) (cause : EndCause) (into : ChanState) (u : State) :
    ∃ r, endProgram c cause into u = reporting r ((quench c u).mapChan c fun ch =>
      { ch with
        pgu := ch.pgu.ended
        chc := { state := into, causes := ⟨false, false⟩, target := none, endCause := cause } }) := by
  have alone : raiseFor c .programEnd cause.code u = reporting (u.rpu.noting _) u := raiseFor_reporting _ _ _ u.rpu u
  unfold endProgram
  rw [alone, unreported_quench]
  exact ⟨_, rfl⟩

/-- The place of a burner in what is left of the line, by its phase. -/
theorem place_in_line {s : State} (hf : FuelSound s) {gone : List Chan} {c : Chan} (hc : c ∉ gone) {b : Burner}
    (hb : b = if (s.igu.line.filter (· ∉ gone)).head? = some c ∧ s.igu.holder ≠ some c then
      (s.chan c).burner.atLineWait else (s.chan c).burner) :
    (b.phase.holdsUnit = true ↔ (s.igu.line.filter (· ∉ gone)).head? = some c) ∧
    (b.phase = .queued ↔ c ∈ (s.igu.line.filter (· ∉ gone)).tail) := by
  have nodup : (s.igu.line.filter (· ∉ gone)).Nodup := (line_nodup hf).filter _
  have member : c ∈ s.igu.line.filter (· ∉ gone) ↔ s.igu.holder = some c ∨ c ∈ s.igu.queue := by
    simp [hc, Igu.line]
  have first (hh : s.igu.holder = some c) : (s.igu.line.filter (· ∉ gone)).head? = some c := by
    rw [line_of_holder hh, List.filter_cons_of_pos (by simpa using hc)]
    rfl
  have waiting (hq : c ∈ s.igu.queue) : s.igu.holder ≠ some c := fun hh => by
    have := line_nodup hf
    rw [line_of_holder hh, List.nodup_cons] at this
    exact this.1 hq
  obtain ⟨-, -, -, hfuel⟩ := hf
  obtain ⟨hholds, hqueued, -⟩ := hfuel c
  generalize s.igu.line.filter (· ∉ gone) = l at *
  have split : c ∈ l ↔ l.head? = some c ∨ c ∈ l.tail := by
    cases l <;> simp [eq_comm]
  have apart (hh : l.head? = some c) : c ∉ l.tail := by
    cases l with
    | nil => simp
    | cons x rest =>
      rw [List.nodup_cons] at nodup
      rw [← Option.some.inj hh]
      exact nodup.1
  by_cases hp : l.head? = some c ∧ s.igu.holder ≠ some c
  · rw [hb, if_pos hp]
    exact ⟨by simp [Burner.atLineWait, IgnitionPhase.holdsUnit, hp.1], by simp [Burner.atLineWait, apart hp.1]⟩
  · rw [hb, if_neg hp, hholds, hqueued]
    refine ⟨⟨first, fun hh => ?_⟩, fun hq => ?_, fun ht => ?_⟩
    · by_contra hne
      exact hp ⟨hh, hne⟩
    · exact (split.1 (member.2 (.inr hq))).resolve_left fun hh => hp ⟨hh, waiting hq⟩
    · exact (member.1 (split.2 (.inr ht))).resolve_left fun hh => apart (first hh) ht

/-- The head of the line stays its head when another burner parts. -/
theorem head_filter_ne {l : List Chan} {c d : Chan} (h : l.head? = some d) (hd : d ≠ c) :
    (l.filter (· ≠ c)).head? = some d := by
  cases l with
  | nil => cases h
  | cons x rest =>
    cases h
    rw [List.filter_cons_of_pos (by simpa using hd)]
    rfl

/-- One more channel gives up ignition and goes elsewhere. -/
theorem Parted.quenched {s u : State} {gone : List Chan} (hf : FuelSound s) (h : Parted s gone u) {c : Chan}
    (hc : c ∉ gone) {f : Channel → Channel} (hb : ∀ ch, (f ch).burner = ch.burner) (hv : ∀ ch, (f ch).valve = ch.valve)
    (hst : ∀ ch, (f ch).chc.state ≠ .igniting) : Parted s (c :: gone) ((quench c u).mapChan c f) := by
  obtain ⟨igu, stays, left⟩ := h
  obtain ⟨-, cburner⟩ := stays c hc
  have nodup : (s.igu.line.filter (· ∉ gone)).Nodup := (line_nodup hf).filter _
  obtain ⟨hholds, hqueued⟩ := place_in_line hf hc cburner
  obtain ⟨qigu, qothers, qburner, qvalve⟩ := quench_line (c := c) (l := s.igu.line.filter (· ∉ gone)) (u := u)
    (by rw [igu]; rfl) nodup hholds hqueued
  have first {d : Chan} (hd : d ∉ gone) (hh : s.igu.holder = some d) :
      (s.igu.line.filter (· ∉ gone)).head? = some d := by
    rw [line_of_holder hh, List.filter_cons_of_pos (by simpa using hd)]
    rfl
  have parted {d : Chan} (hd : d ∈ gone) : (s.igu.line.filter (· ∉ gone)).head? ≠ some d := fun hh => by
    simpa [hd] using List.mem_of_mem_head? hh
  have filtered := filter_gone_cons s.igu.line c gone
  refine ⟨?_, fun d hd => ?_, fun d hd => ?_⟩
  · show (quench c u).igu = _
    rw [qigu, filtered, igu]
    have spark : (s.igu.spark && decide ((s.igu.line.filter (· ∉ gone)).head? = s.igu.holder) &&
        decide ((s.igu.line.filter (· ∉ gone)).head? ≠ some c)) =
        (s.igu.spark && decide (((s.igu.line.filter (· ∉ gone)).filter (· ≠ c)).head? = s.igu.holder)) := by
      cases hh : s.igu.holder with
      | none => simp [(line_of_free hf hh).2]
      | some y =>
        by_cases hy : y ∈ gone
        · have rest : ((s.igu.line.filter (· ∉ gone)).filter (· ≠ c)).head? ≠ some y := fun h => by
            have := List.mem_of_mem_head? h
            simp [hy] at this
          rw [decide_eq_false (parted hy), decide_eq_false rest]
          simp
        · have hl := first hy hh
          by_cases hyc : y = c
          · subst hyc
            have rest : ((s.igu.line.filter (· ∉ gone)).filter (· ≠ y)).head? ≠ some y := fun h => by
              have := List.mem_of_mem_head? h
              simp at this
            rw [hl, decide_eq_false rest]
            simp
          · rw [head_filter_ne hl hyc, hl, decide_eq_true (p := some y ≠ some c) (by simpa using hyc), Bool.and_true]
    exact congrArg (fun x => ({ s.igu.withLine ((s.igu.line.filter (· ∉ gone)).filter (· ≠ c)) with spark := x } : Igu))
      spark
  · obtain ⟨hdc, hdg⟩ : d ≠ c ∧ d ∉ gone := by simpa using hd
    obtain ⟨dchc, dburner⟩ := stays d hdg
    rw [State.chan_mapChan_ne _ _ _ _ hdc, qothers d hdc, filtered]
    by_cases hd1 : (s.igu.line.filter (· ∉ gone)).head? = some d
    · rw [if_neg fun h => h.2 hd1, head_filter_ne hd1 hdc]
      rw [hd1] at dburner
      exact ⟨dchc, dburner⟩
    · rw [if_neg fun h => hd1 h.1] at dburner
      by_cases hd2 : ((s.igu.line.filter (· ∉ gone)).filter (· ≠ c)).head? = some d
      · rw [if_pos ⟨hd2, hd1⟩, if_pos ⟨hd2, fun hh => hd1 (first hdg hh)⟩]
        exact ⟨dchc, congrArg Burner.atLineWait dburner⟩
      · rw [if_neg fun h => hd2 h.1, if_neg fun h => hd2 h.1]
        exact ⟨dchc, dburner⟩
  · by_cases hdc : d = c
    · subst hdc
      rw [State.chan_mapChan_self, hb, hv]
      refine ⟨hst _, fun higniting => ⟨?_, qvalve⟩⟩
      obtain ⟨-, -, -, hfuel⟩ := hf
      obtain ⟨-, -, -, hin, -⟩ := hfuel d
      refine (qburner ?_).trans ?_
      · rw [cburner]
        split
        · simp [Burner.atLineWait]
        · exact (hin higniting).1
      · rw [cburner]
        split <;> rfl
    · have hdg : d ∈ gone := (List.mem_cons.1 hd).resolve_left hdc
      have unpromoted : ¬ (((s.igu.line.filter (· ∉ gone)).filter (· ≠ c)).head? = some d ∧
          (s.igu.line.filter (· ∉ gone)).head? ≠ some d) := fun h => by
        have := List.mem_of_mem_head? h.1
        simp [hdg] at this
      rw [State.chan_mapChan_ne _ _ _ _ hdc, qothers d hdc, if_neg unpromoted]
      exact left d hdg

/-- One more program ends. -/
theorem Parted.endProgram {s u : State} {gone : List Chan} (hf : FuelSound s) (h : Parted s gone u) {c : Chan}
    (hc : c ∉ gone) (cause : EndCause) : Parted s (c :: gone) (endProgram c cause .idle u) := by
  obtain ⟨r, ended⟩ := endProgram_eq c cause .idle u
  rw [ended]
  exact (h.quenched hf hc (f := fun ch =>
    { ch with
      pgu := ch.pgu.ended
      chc := { state := .idle, causes := ⟨false, false⟩, target := none, endCause := cause } })
    (fun _ => rfl) (fun _ => rfl) fun _ => nofun).reporting r

end Sys2Proof.Machine
end

section
/-! Settles O51: STOP, STOP LAST and HALT (03). -/

namespace Sys2Proof.Machine

/-! ### The line once programs have ended -/

theorem Parted.settles {s u t : State} {gone : List Chan} (h : Parted s gone u) (k : Settles u t) : Parted s gone t where
  igu := k.igu.trans h.igu
  stays d hd := by
    obtain ⟨hchc, hburner⟩ := h.stays d hd
    exact ⟨(k.channel d).1.1.trans hchc, (k.burner d).trans hburner⟩
  left d hd := by
    obtain ⟨hstate, hleft⟩ := h.left d hd
    obtain ⟨⟨kchc, -⟩, kvalve, -⟩ := k.channel d
    rw [kchc, k.burner, kvalve]
    exact ⟨hstate, hleft⟩

/-- The ignition unit has followed the burners whose programs have ended (R126, R127). -/
theorem Parted.ignitionFollows {s t : State} (h : FuelSound s → ∃ gone, Parted s gone t) : IgnitionFollows s t := by
  intro hf
  obtain ⟨gone, igu, stays, left⟩ := h hf
  have line : ignitionLine s t = s.igu.line.filter (· ∉ gone) := by
    have old : (s.igu.holder.toList ++ s.igu.queue).filter (fun d => decide ((t.chan d).chc.state = .igniting)) =
        s.igu.line.filter (· ∉ gone) := by
      refine List.filter_congr fun d hd => decide_eq_decide.2 ?_
      have igniting := igniting_of_mem_line hf (d := d) hd
      by_cases hg : d ∈ gone
      · simp [hg, (left d hg).1]
      · simp [hg, (stays d hg).1, igniting]
    have new : (([0, 1, 2, 3] : List Chan).filter fun d =>
        decide ((s.chan d).chc.state ≠ .igniting ∧ (t.chan d).chc.state = .igniting)) = [] := by
      refine List.filter_eq_nil_iff.2 fun d _ => ?_
      by_cases hg : d ∈ gone
      · simp [(left d hg).1]
      · simp [(stays d hg).1]
    rw [ignitionLine, old, new, List.append_nil]
  rw [line]
  refine ⟨igu, fun c => ⟨fun hs ht => ?_, fun hs ht => ?_, fun hs ht => ?_⟩⟩
  · by_cases hg : c ∈ gone
    · exact absurd ht (left c hg).1
    · exact absurd ((stays c hg).1 ▸ ht) hs
  · by_cases hg : c ∈ gone
    · exact (left c hg).2 hs
    · exact absurd ((stays c hg).1 ▸ hs) ht
  · by_cases hg : c ∈ gone
    · exact absurd ht (left c hg).1
    · exact (stays c hg).2

/-- In its turn a channel does nothing, or its program ends. -/
abbrev EndsByTurns (f : Chan → State → State) : Prop :=
  ∀ c u, f c u = u ∨ ∃ r cause, f c u = reporting r (endProgram c cause .idle u)

/-- The turns of all channels, in rising order, take burners out of the line alone. -/
theorem parted_forChans {f : Chan → State → State} (hends : EndsByTurns f) {s u : State} (hf : FuelSound s)
    (h : Parted s [] u) : ∃ gone, Parted s gone (forChans f u) := by
  have turn (turned : List Chan) (c : Chan) (hc : c ∉ turned) {u : State}
      (hu : ∃ gone, (∀ d ∈ gone, d ∈ turned) ∧ Parted s gone u) :
      ∃ gone, (∀ d ∈ gone, d ∈ c :: turned) ∧ Parted s gone (f c u) := by
    obtain ⟨gone, hsub, hgone⟩ := hu
    obtain hact | ⟨r, cause, hact⟩ := hends c u <;> rw [hact]
    · exact ⟨gone, fun d hd => List.mem_cons_of_mem c (hsub d hd), hgone⟩
    · refine ⟨c :: gone, fun d hd => ?_, (hgone.endProgram hf (fun hm => hc (hsub c hm)) cause).reporting r⟩
      exact List.mem_cons.2 ((List.mem_cons.1 hd).imp_right (hsub d))
  obtain ⟨gone, -, hgone⟩ := turn [2, 1, 0] 3 (by decide) <| turn [1, 0] 2 (by decide) <| turn [0] 1 (by decide) <|
    turn [] 0 (by decide) ⟨[], fun _ => id, h⟩
  exact ⟨gone, hgone⟩

theorem endIfProgram_ends (cause : EndCause) : EndsByTurns fun c => endIfProgram c cause := by
  intro c u
  dsimp only [endIfProgram]
  split
  · exact .inr ⟨_, cause, (reporting_self _).symm⟩
  · exact .inl rfl

/-- The turns of a STOP end programs alone. -/
theorem stopTurn_ends (mask : Byte) :
    EndsByTurns fun c u => (actIfNamed mask (unlessBarred (silently stopChannel)) c u).1 := by
  intro c u
  dsimp only [actIfNamed, unlessBarred]
  split_ifs
  · exact .inl rfl
  · exact .inl rfl
  · obtain hact | ⟨r, cause, hact⟩ := endIfProgram_ends .stopped c u
    · exact .inl ((congrArg (reporting u.rpu) hact).trans (reporting_self u))
    · exact .inr ⟨u.rpu, cause, (congrArg (reporting u.rpu) hact).trans rfl⟩
  · exact .inl rfl

/-! ### STOP with a mask -/

section
variable {s : State} {h : CmdHeader}

/-- What a STOP does, on the channels that it names and on the others. -/
structure Stops (h : CmdHeader) (mask : Byte) (order : List Chan) (s t : State) : Prop where
  clockwork : KeepsClockwork s t
  lastStarted : t.lastStarted = s.lastStarted
  follows : IgnitionFollows s t
  records : RaisesOf stopRecords mask order s t
  spares : ∀ c, SparesBarred h 8 mask c s t
  stopped : ∀ c, maskNames mask c = true → notBarred (s.chan c) = true →
    Replies h 8 c .done s t ∧ EndedOrKept .stopped c s t

theorem exec_stopMask (ha : Accepts h s) (order : List Chan) (mask : Byte) :
    ∃ t, live (acceptCommand h 8 (runStopMask order mask)) s = .next t ∧ Stops h mask order s t := by
  have run := live_acceptCommand_raising ha 8 order mask raises_stopChannel silently_stopChannel_turns
  have before := settles_atCommand h s
  have turns := (actOnMask_turns (actIfNamed_turns silently_stopChannel_turns mask) (atCommand h s)).station
  have after := settles_afterCommand (h := h) (code := 8) (mask := mask) (act := silently stopChannel) notesOnly_id s
  have spares (c : Chan) := afterCommand_spares (h := h) (code := 8) (mask := mask) silently_stopChannel_turns
    notesOnly_id s c
  refine ⟨_, run, (spares 0).2.2.2.1, ?_, ?_, raisesOf_reporting mask order s _, spares, fun c hm hb => ?_⟩
  · show (recompute (actOnMask mask (unlessBarred (silently stopChannel)) (atCommand h s)).1).lastStarted = _
    rw [recompute_lastStarted, turns]
    exact (atCommand_record h s).2.1
  · refine Parted.ignitionFollows fun hf => ?_
    obtain ⟨gone, parted⟩ := parted_forChans (stopTurn_ends mask) hf ((Parted.refl hf).settles before)
    exact ⟨gone, (Parted.settles parted after).reporting _⟩
  · obtain ⟨u, t, run', turn⟩ := raising_turn ha order raises_stopChannel silently_stopChannel_turns
      stopChannel_sparesUnqueued hm hb
    cases Host.Outcome.next.inj (run'.symm.trans run)
    refine ⟨turn.replies, ?_⟩
    have ⟨⟨uchc, _, _⟩, _⟩ := turn.before.channel
    have after := turn.after
    have stays := turn.stays
    unfold stopChannel endIfProgram at after stays
    dsimp only at after stays
    rw [uchc] at after stays
    by_cases hp : (s.chan c).chc.state.hasProgram = true
    · rw [if_pos hp] at after stays
      rw [EndedOrKept, if_pos hp]
      exact ended_of_turn turn.before.channel turn.waits (endProgram_ends c _ _ u) turn.cfg after stays
    · rw [if_neg hp] at after
      rw [EndedOrKept, if_neg hp]
      exact after.keepsChannel turn.before

end

/-- The record of the program of channel `x` that a STOP ends. -/
def stopRecord (s : State) (x : Chan) : EventRecord :=
  { kind := .programEnd, channel := some x, slot := (s.chan x).pgu.current, parameter := 2 }

/-- A STOP of two channels that both have a program raises their two records in rising order (R56). -/
theorem raisedRecords_two {s : State} {mask : Byte} {c d : Chan} (hlt : c < d)
    (hm : ∀ x : Chan, maskNames mask x = true ↔ x = c ∨ x = d)
    (hx : ∀ x : Chan, x = c ∨ x = d → notBarred (s.chan x) = true ∧ (s.chan x).chc.state.hasProgram = true) :
    raisedRecords stopRecords mask s = [stopRecord s c, stopRecord s d] := by
  have each (x : Chan) : namedRecords stopRecords mask x (s.chan x) =
      if x = c ∨ x = d then [stopRecord s x] else [] := by
    by_cases hxc : x = c ∨ x = d
    · obtain ⟨hb, hp⟩ := hx x hxc
      rw [if_pos hxc, namedRecords, (hm x).2 hxc, hb, stopRecords, hp]
      rfl
    · have unnamed : maskNames mask x = false := by simpa using mt (hm x).1 hxc
      rw [if_neg hxc, namedRecords, unnamed]
      rfl
  have two : ∀ c d : Chan, c < d → (([0, 1, 2, 3] : List Chan).filter fun x => decide (x = c ∨ x = d)) = [c, d] := by
    decide
  have picked (l : List Chan) : (l.flatMap fun x => if x = c ∨ x = d then [stopRecord s x] else []) =
      (l.filter fun x => decide (x = c ∨ x = d)).map (stopRecord s) := by
    induction l with
    | nil => rfl
    | cons x l ih =>
      rw [List.flatMap_cons, ih, List.filter_cons]
      by_cases hxc : x = c ∨ x = d <;> simp [hxc]
  unfold raisedRecords
  rw [show (fun x => namedRecords stopRecords mask x (s.chan x)) = _ from funext each, picked, two c d hlt]
  rfl

theorem inTurn_swap {e f : EventRecord} {d : Chan} (he : e.channel ≠ some d) (hf : f.channel = some d) :
    inTurn [d] [e, f] = [f, e] := by
  simp [inTurn, he, hf]

/-! ### HALT -/

/-- The records of the programs that a turn ends (R33). -/
def endRecords (cause : EndCause) (c : Chan) (ch : Channel) : List EventRecord :=
  if ch.chc.state.hasProgram then
    [{ kind := .programEnd, channel := some c, slot := ch.pgu.current, parameter := cause.code }]
  else []

theorem endIfProgram_rpu (c : Chan) (cause : EndCause) (u : State) :
    (endIfProgram c cause u).rpu = u.rpu.notingAll (endRecords cause c (u.chan c)) := by
  unfold endIfProgram endRecords
  split
  · exact congrArg State.rpu (endProgram_reporting c cause .idle u.rpu u)
  · rfl

theorem silentTurn_endIfProgram (c : Chan) (cause : EndCause) (u : State) : SilentTurn c u (endIfProgram c cause u) := by
  unfold endIfProgram
  split
  · exact silentTurn_endProgram c _ _ u
  · exact silentTurn_of_turns (.refl _ u)

theorem keepsUnqueued_endIfProgram {c d : Chan} (hd : d ≠ c) (cause : EndCause) (u : State) :
    KeepsUnqueued c u (endIfProgram d cause u) := by
  unfold endIfProgram
  split
  · exact keepsUnqueued_endProgram hd _ _ u
  · exact .refl c u

/-- What channel `c` sees of the turns of the others. -/
structure OthersTurned (c : Chan) (s t : State) : Prop where
  channel : KeepsChannel c s t
  waits : KeepsUnqueued c s t
  driver : (t.chan c).driver = (s.chan c).driver

theorem OthersTurned.refl (c : Chan) (s : State) : OthersTurned c s s :=
  ⟨⟨⟨rfl, rfl, rfl⟩, rfl, rfl, rfl, rfl⟩, .refl c s, rfl⟩

theorem OthersTurned.trans {c : Chan} {s t u : State} (h : OthersTurned c s t) (k : OthersTurned c t u) :
    OthersTurned c s u := ⟨h.channel.trans k.channel, h.waits.trans k.waits, k.driver.trans h.driver⟩

theorem othersTurned_endIfProgram {c d : Chan} (hd : d ≠ c) (cause : EndCause) (u : State) :
    OthersTurned c u (endIfProgram d cause u) where
  channel := (silentTurn_endIfProgram d cause u).keepsChannel (Ne.symm hd)
  waits := keepsUnqueued_endIfProgram hd cause u
  driver := (silentTurn_endIfProgram d cause u).driver (Ne.symm hd)

/-- The turns of all channels as channel `c` sees them. -/
theorem forChans_isolates {f : Chan → State → State} {c : Chan} (other : ∀ d, d ≠ c → ∀ u, OthersTurned c u (f d u))
    (s : State) : ∃ u, OthersTurned c s u ∧ OthersTurned c (f c u) (forChans f s) := by
  unfold forChans
  fin_cases c
  · exact ⟨_, .refl _ s, (other 1 (by decide) _).trans ((other 2 (by decide) _).trans (other 3 (by decide) _))⟩
  · exact ⟨_, other 0 (by decide) s, (other 2 (by decide) _).trans (other 3 (by decide) _)⟩
  · exact ⟨_, (other 0 (by decide) s).trans (other 1 (by decide) _), other 3 (by decide) _⟩
  · exact ⟨_, (other 0 (by decide) s).trans ((other 1 (by decide) _).trans (other 2 (by decide) _)), .refl _ _⟩

theorem forChans_around (cause : EndCause) (c : Chan) (s : State) :
    ∃ u, OthersTurned c s u ∧
      OthersTurned c (endIfProgram c cause u) (forChans (fun d => endIfProgram d cause) s) :=
  forChans_isolates (f := fun d => endIfProgram d cause) (fun _ hd u => othersTurned_endIfProgram hd cause u) s

/-- The turns of all channels leave alone the station but for its ignition unit and its records. -/
theorem forChans_station {f : Chan → State → State} (silent : ∀ d u, SilentTurn d u (f d u)) (s : State) :
    ∃ r, Turns (fun _ => True) s (reporting r (forChans f s)) := by
  have turn (d : Chan) {u : State} (h : ∃ r, Turns (fun _ => True) s (reporting r u)) :
      ∃ r, Turns (fun _ => True) s (reporting r (f d u)) := by
    obtain ⟨r, hr⟩ := h
    have k := (silent d u).mono (q := fun _ => True) fun _ _ => trivial
    refine ⟨r, hr.trans ⟨?_, k.fixtures, k.others⟩⟩
    exact congrArg (reporting r) k.station
  exact turn 3 (turn 2 (turn 1 (turn 0 ⟨s.rpu, .refl _ s⟩)))

/-- The records of the turns of all channels, in rising order. -/
theorem forChans_rpu {f : Chan → State → State} {recs : Chan → Channel → List EventRecord}
    (rpu : ∀ d u, (f d u).rpu = u.rpu.notingAll (recs d (u.chan d)))
    (other : ∀ {c d : Chan}, d ≠ c → ∀ u, OthersTurned c u (f d u))
    (reads : ∀ (c : Chan) {u v : State}, KeepsProgram c u v → recs c (v.chan c) = recs c (u.chan c)) (s : State) :
    (forChans f s).rpu = s.rpu.notingAll (([0, 1, 2, 3] : List Chan).flatMap fun c => recs c (s.chan c)) := by
  have e1 := reads 1 (other (c := 1) (d := 0) (by decide) s).channel.1
  have e2 := reads 2 ((other (c := 2) (d := 0) (by decide) s).trans (other (d := 1) (by decide) _)).channel.1
  have e3 := reads 3 (((other (c := 3) (d := 0) (by decide) s).trans (other (d := 1) (by decide) _)).trans
    (other (d := 2) (by decide) _)).channel.1
  simp only [forChans, rpu, e1, e2, e3, List.flatMap_cons, List.flatMap_nil, List.append_nil, Rpu.notingAll_append]

theorem endRecords_congr {cause : EndCause} (c : Chan) {u v : State} (k : KeepsProgram c u v) :
    endRecords cause c (v.chan c) = endRecords cause c (u.chan c) := by
  obtain ⟨hchc, hpgu, -⟩ := k
  rw [endRecords, endRecords, hchc, hpgu]

theorem forChans_endIfProgram_station (cause : EndCause) (s : State) :
    ∃ r, Turns (fun _ => True) s (reporting r (forChans (fun d => endIfProgram d cause) s)) :=
  forChans_station (fun d u => silentTurn_endIfProgram d cause u) s

/-- The records of all channels whose programs end, in rising order. -/
theorem forChans_endIfProgram_rpu (cause : EndCause) (s : State) :
    (forChans (fun d => endIfProgram d cause) s).rpu =
      s.rpu.notingAll (([0, 1, 2, 3] : List Chan).flatMap fun c => endRecords cause c (s.chan c)) :=
  forChans_rpu (fun d u => endIfProgram_rpu d cause u) (fun hd u => othersTurned_endIfProgram hd cause u)
    (fun c _ _ => endRecords_congr c) s

theorem length_endRecords (cause : EndCause) (s : State) :
    (([0, 1, 2, 3] : List Chan).flatMap fun c => endRecords cause c (s.chan c)).length ≤ 4 := by
  have one (c : Chan) : (endRecords cause c (s.chan c)).length ≤ 1 := by
    unfold endRecords
    split <;> simp
  have h0 := one 0
  have h1 := one 1
  have h2 := one 2
  have h3 := one 3
  simp only [List.flatMap_cons, List.flatMap_nil, List.length_append, List.length_nil]
  omega

theorem flatMap_endRecords (cause : EndCause) (s : State) (l : List Chan) :
    (l.flatMap fun c => endRecords cause c (s.chan c)) =
      (l.filter fun x => (s.chan x).chc.state.hasProgram).map fun x =>
        { kind := .programEnd, channel := some x, slot := (s.chan x).pgu.current, parameter := cause.code } := by
  induction l with
  | nil => rfl
  | cons x l ih =>
    rw [List.flatMap_cons, ih, List.filter_cons, endRecords]
    cases (s.chan x).chc.state.hasProgram <;> rfl

/-- The state after a HALT, but for the note on the event queue. -/
def halted (h : CmdHeader) (s : State) : State :=
  recompute (forChans (fun c => endIfProgram c .halted) (atCommand h s))

theorem exec_halt {s : State} (h : CmdHeader) (hs : s.held = false) (hr : receptive s = true) :
    exec (.halt h.source) s = .next { halted h s with eventsNew := s.rpu.events.isEmpty } := by
  show live (takeFrame h.source haltAll) s = _
  rw [live_powered _ _ hs, takeFrame_receptive _ _ _ hr]
  rfl

theorem halted_station (h : CmdHeader) (s : State) :
    KeepsClockwork s (halted h s) ∧ (halted h s).lif = { s.lif with line := .closed } ∧
    (halted h s).lastStarted = s.lastStarted ∧ (halted h s).configOpen = s.configOpen := by
  obtain ⟨r, turns⟩ := forChans_endIfProgram_station .halted (atCommand h s)
  have clockwork : KeepsClockwork (atCommand h s) (forChans (fun c => endIfProgram c .halted) (atCommand h s)) :=
    turns.keepsClockwork
  have station := turns.station
  have lif : (forChans (fun c => endIfProgram c .halted) (atCommand h s)).lif = (atCommand h s).lif :=
    (congrArg State.lif station :)
  have lastStarted : (forChans (fun c => endIfProgram c .halted) (atCommand h s)).lastStarted =
      (atCommand h s).lastStarted := (congrArg State.lastStarted station :)
  have configOpen : (forChans (fun c => endIfProgram c .halted) (atCommand h s)).configOpen =
      (atCommand h s).configOpen := (congrArg State.configOpen station :)
  obtain ⟨-, last, opened⟩ := atCommand_record h s
  unfold halted
  rw [recompute_lif, recompute_lastStarted, recompute_configOpen, lif, lastStarted, configOpen, atCommand_lif]
  exact ⟨(settles_atCommand h s).clockwork.trans (clockwork.trans (settles_recompute _).clockwork), rfl, last, opened⟩

theorem halted_ended (h : CmdHeader) (s : State) (c : Chan) : EndedOrKept .halted c s (halted h s) := by
  have before := settles_atCommand h s
  obtain ⟨u, hu, hv⟩ := forChans_around .halted c (atCommand h s)
  have found := (before.channel c).trans hu.channel
  have ⟨⟨uchc, _, ucfg⟩, _⟩ := found
  have settled := settles_recompute (forChans (fun c => endIfProgram c .halted) (atCommand h s))
  have left : AfterTurn c (endIfProgram c .halted u) (halted h s) :=
    ⟨hv.channel.trans (settled.channel c), _, by rw [← hv.driver]; exact recompute_driver _ c⟩
  have stays := hv.waits.trans (settled.keepsUnqueued c)
  have cfg := (((silentTurn_endIfProgram c .halted u).fixtures c).1)
  unfold endIfProgram at left stays cfg
  rw [uchc] at left stays cfg
  by_cases hp : (s.chan c).chc.state.hasProgram = true
  · rw [if_pos hp] at left stays cfg
    rw [EndedOrKept, if_pos hp]
    obtain ⟨⟨-, -, tcfg⟩, -⟩ := left.channel
    exact ended_of_turn found ((before.keepsUnqueued c).trans hu.waits) (endProgram_ends c _ _ u)
      (tcfg.trans (cfg.trans ucfg)) left stays
  · rw [if_neg hp] at left
    rw [EndedOrKept, if_neg hp]
    exact found.trans left.channel

theorem halted_follows (h : CmdHeader) (s : State) : IgnitionFollows s (halted h s) := by
  refine Parted.ignitionFollows fun hf => ?_
  obtain ⟨gone, parted⟩ := parted_forChans (endIfProgram_ends .halted) hf
    ((Parted.refl hf).settles (settles_atCommand h s))
  exact ⟨gone, parted.settles (settles_recompute _)⟩

theorem halted_events (h : CmdHeader) {s : State} (hempty : s.rpu.events = []) :
    (halted h s).rpu.events =
      (([0, 1, 2, 3] : List Chan).filter fun x => (s.chan x).chc.state.hasProgram).map fun x =>
        { kind := .programEnd, channel := some x, slot := (s.chan x).pgu.current, parameter := 3 } := by
  have before := settles_atCommand h s
  have same : (([0, 1, 2, 3] : List Chan).flatMap fun c => endRecords .halted c ((atCommand h s).chan c)) =
      ([0, 1, 2, 3] : List Chan).flatMap fun c => endRecords .halted c (s.chan c) := by
    congr 1
    funext c
    obtain ⟨⟨hchc, hpgu, -⟩, -⟩ := before.channel c
    rw [endRecords, endRecords, hchc, hpgu]
  have few := length_endRecords .halted s
  rw [halted, recompute_rpu, forChans_endIfProgram_rpu, same, before.rpu,
    Rpu.notingAll_of_room (by rw [hempty, List.length_nil]; omega), hempty, flatMap_endRecords]
  rfl

/-! ### The rows -/

theorem maskNames_maskOf (c d : Chan) : maskNames (maskOf c) d = decide (d = c) := by
  revert c d
  decide

/-- STOP_LAST is a STOP on the channel last started, and answers DONE everywhere where there is none. -/
theorem stopLast_stops {h : CmdHeader} {s : State} (ha : Accepts h s) (c : Chan) :
    ∃ t, exec (.stopLast h) s = .next t ∧ KeepsClockwork s t ∧ t.lastStarted = s.lastStarted ∧ IgnitionFollows s t ∧
      (s.lastStarted ≠ some c → KeepsChannel c s t ∧ Replies h 8 c .done s t) ∧
      (s.lastStarted = some c → notBarred (s.chan c) = true →
        Replies h 8 c .done s t ∧ EndedOrKept .stopped c s t) ∧
      (s.lastStarted = some c → (s.chan c).chc.state = .lockout →
        KeepsChannel c s t ∧ Replies h 8 c .lockedOut s t) ∧
      (s.lastStarted = some c → (s.chan c).chc.state ≠ .lockout → (s.chan c).cfg.kind = .unused →
        KeepsChannel c s t ∧ Replies h 8 c .unusedChannel s t) := by
  have last : (atCommand h s).lastStarted = s.lastStarted := (atCommand_record h s).2.1
  cases hlast : s.lastStarted with
  | none =>
    have run : runStopLast (atCommand h s) = (atCommand h s, .fill .done) := by rw [runStopLast, last, hlast]
    obtain ⟨settles, -⟩ := answered_refused (code := 8) run
    refine ⟨_, live_acceptCommand_answered ha 8 runStopLast, settles.clockwork, ?_,
      Parted.ignitionFollows fun hf => ⟨[], (Parted.refl hf).settles settles⟩,
      fun _ => ⟨settles.channel c, answered_replies run rfl (Quad.get_fill _ _)⟩,
      (fun h => nomatch h), (fun h => nomatch h), (fun h => nomatch h)⟩
    rw [answered_eq run]
    exact last.trans hlast
  | some e =>
    obtain ⟨t, run, stops⟩ := exec_stopMask ha [] (maskOf e)
    have same : exec (.stopLast h) s = live (acceptCommand h 8 (runStopMask [] (maskOf e))) s := by
      show live (acceptCommand h 8 runStopLast) s = _
      rw [live_acceptCommand_answered ha, live_acceptCommand_answered ha, answered, answered, runStopLast, last, hlast]
    obtain ⟨unnamed, lockedOut, unused, -⟩ := stops.spares c
    have names := maskNames_maskOf e c
    refine ⟨t, same.trans run, stops.clockwork, stops.lastStarted.trans hlast, stops.follows, fun hne => ?_,
      fun he hb => ?_, fun he hl => ?_, fun he hl hk => ?_⟩
    · exact unnamed (names.trans (decide_eq_false fun hce => hne (congrArg some hce.symm)))
    all_goals have named : maskNames (maskOf e) c = true := names.trans (decide_eq_true (Option.some.inj he).symm)
    · exact stops.stopped c named hb
    · exact lockedOut named hl
    · exact unused named hl hk

/-- Settles O51: the channels part one after another, in the turns of a STOP and of a HALT alike. -/
theorem stopAndHaltEndPrograms : Obligations.StopAndHaltEndPrograms := by
  intro s h selector order c d
  have masked (hsel : selector.toNat < 16) : exec (.stop h selector order) s =
      live (acceptCommand h 8 (runStopMask order selector)) s := by
    have run : runStop order selector = runStopMask order selector := funext fun s => if_pos hsel
    show live (acceptCommand h 8 (runStop order selector)) s = _
    rw [run]
  refine ⟨fun ha hsel hm hb => ?_, fun ha hsel hlt hm hx hempty => ?_, fun ha hsel hlast => ?_, fun ha => stopLast_stops ha c,
    fun hs hr => ?_⟩
  · obtain ⟨t, run, stops⟩ := exec_stopMask ha order selector
    obtain ⟨replies, ended⟩ := stops.stopped c hm hb
    exact ⟨t, (masked hsel).trans run, replies, ended, stops.follows, stops.clockwork, stops.lastStarted⟩
  · have run := live_acceptCommand_raising ha 8 order selector raises_stopChannel silently_stopChannel_turns
    have two := raisedRecords_two hlt hm hx
    have reports (es : List EventRecord) (hes : es.length ≤ 8) : s.rpu.notingAll es = { s.rpu with events := es } := by
      rw [Rpu.notingAll_of_room (by rw [hempty, List.length_nil]; omega), hempty, List.nil_append]
    refine ⟨_, stopRecord s, (masked hsel).trans run, fun x => rfl, fun ho => ?_, fun ho => ?_⟩
    · rw [reporting_rpu, two, ho, inTurn_nil, reports _ (by simp)]
    · have hcd : (stopRecord s c).channel ≠ some d := fun h => by
        have same : c = d := Option.some.inj h
        exact absurd hlt (by simp [same])
      rw [reporting_rpu, two, ho, inTurn_swap hcd rfl, reports _ (by simp)]
  · have run : runStop order selector (atCommand h s) = (atCommand h s, .fill .badValue) := by
      rw [runStop, if_neg (by omega), if_neg hlast]
    obtain ⟨settles, -⟩ := answered_refused (code := 8) run
    exact ⟨_, live_acceptCommand_answered ha 8 (runStop order selector), answered_replies run rfl (Quad.get_fill _ _),
      fun e => (settles.channel e).1, settles.clockwork, settles.rpu⟩
  · have run := exec_halt h hs hr
    have events (hempty : s.rpu.events = []) := halted_events h hempty
    have ended := halted_ended h s c
    have follows := halted_follows h s
    obtain ⟨clockwork, lif, last, opened⟩ := halted_station h s
    generalize halted h s = t at run events ended follows clockwork lif last opened
    exact ⟨_, run, events, ended, follows, lif, clockwork, last, opened⟩

end Sys2Proof.Machine
end

section
/-! Settles O20, O22 and O23: what a sample of ZX does. -/

namespace Sys2Proof.Machine

/-! ### The filter -/

/-- A sample on the filter moves the accepted sign, the candidate and the run alone. -/
theorem filterStep_apart (level : Bool) (m : Mtb) :
    (filterStep level m).1 =
      { m with
        sign := (filterStep level m).1.sign, candidate := (filterStep level m).1.candidate
        run := (filterStep level m).1.run } := by
  unfold filterStep
  split <;> split_ifs <;> rfl

/-- The filter has no part in the tick of a sample. -/
theorem filterStep_tick (level : Bool) (m : Mtb) :
    filterStep level m.tick = ((filterStep level m).1.tick, (filterStep level m).2) := by
  have sign : m.tick.sign = m.sign := rfl
  have candidate : m.tick.candidate = m.candidate := rfl
  have run : m.tick.run = m.run := rfl
  unfold filterStep
  simp only [sign, candidate, run]
  cases m.sign with
  | none => dsimp only; split_ifs <;> rfl
  | some a => dsimp only; split_ifs <;> rfl

theorem signOf_injective {a b : Bool} (h : signOf a = signOf b) : a = b := by
  revert h
  revert a b
  decide

/-- The fourth sample of the other sign produces a crossing (R1). -/
theorem filterStep_crossing {level : Bool} {m : Mtb} (hs : m.sign = some (signOf (!level))) (hr : m.run = 3) :
    filterStep level m = ({ m with sign := some (signOf level), run := 0 }, true) := by
  have other : signOf level ≠ signOf (!level) := fun h => by simpa using signOf_injective h
  unfold filterStep
  rw [hs]
  dsimp only
  rw [if_neg other, if_neg (by omega)]

theorem oppositeLevel_of_sign {level : Bool} {s : State} (hs : s.mtb.sign = some (signOf (!level))) :
    oppositeLevel s = level := by
  unfold oppositeLevel
  rw [hs]
  cases level <;> rfl

theorem crossingDue_of_sign {level : Bool} {s : State} (hs : s.mtb.sign = some (signOf (!level)))
    (hr : s.mtb.run = 3) : crossingDue s = true := by
  unfold crossingDue
  rw [hs, hr]
  rfl

/-- A crossing that is due comes with a sample of the opposite level. -/
theorem filterStep_due {s : State} (h : crossingDue s = true) : (filterStep (oppositeLevel s) s.mtb).2 = true := by
  unfold crossingDue at h
  rw [Bool.and_eq_true, beq_iff_eq] at h
  obtain ⟨hsign, hrun⟩ := h
  obtain ⟨a, ha⟩ := Option.isSome_iff_exists.mp hsign
  have hs : s.mtb.sign = some (signOf (!oppositeLevel s)) := by
    unfold oppositeLevel
    rw [ha]
    cases a <;> rfl
  rw [filterStep_crossing hs hrun]

/-! ### A sample without a crossing -/

/-- ZX_FILTER_SAMPLE, where the filter gives no crossing. -/
theorem exec_zxFilterSample {level : Bool} {s : State} {m : Mtb} (order : List Chan) (hs : s.held = false)
    (hf : filterStep level s.mtb = (m, false)) :
    exec (.zxFilterSample level order) s =
      .next
        { expireTimers order
            { s with
              mtb := if s.clockTaken then m else m.tick, pins := { s.pins with zx := level }, clockTaken := false } with
          eventsNew := s.rpu.events.isEmpty } := by
  have apart : (!(crossingDue s && level == oppositeLevel s)) = true := by
    rw [Bool.not_eq_true', Bool.eq_false_iff]
    intro h
    obtain ⟨due, same⟩ := Bool.and_eq_true_iff.mp h
    have crosses := filterStep_due due
    rw [← beq_iff_eq.mp same, hf] at crosses
    exact Bool.false_ne_true crosses
  have step : filterStep level (clocked s) = (if s.clockTaken then m else m.tick, false) := by
    unfold clocked
    split
    · exact hf
    · rw [filterStep_tick, hf]
  show live _ s = _
  rw [live_powered _ _ hs, onlyIf, if_pos apart, takeSample, step]
  rfl

theorem expireTimers_of_none {order : List Chan} {s : State} (ha : missingExpired s.mtb = false)
    (hf : rideExpired s.mtb = false) : expireTimers order s = s := by
  rw [expireTimers, if_neg (by simp [ha]), if_neg (by simp [hf])]

/-- The missing-crossing timer of a TRACKING time base and its limit (R5). -/
theorem missingExpired_iff (m : Mtb) :
    missingExpired m = true ↔ m.mode = .tracking ∧ ∃ n, m.missingTimer = some n ∧ missingLimit m.frequency ≤ n := by
  unfold missingExpired
  cases m.missingTimer <;> simp

theorem rideExpired_iff (m : Mtb) :
    rideExpired m = true ↔ m.mode = .missing ∧ ∃ n, m.rideTimer = some n ∧ 16000 ≤ n := by
  unfold rideExpired Config.rideThroughSamples
  cases m.rideTimer <;> simp

/-! ### The clock has no part in the reports of the time base -/

section
variable (m : Mtb) (p : Pins) (k : Bool) (q : Option Bool) (e : Bool)

theorem keepsClock_foldl_raise (rs : List EventRecord) : KeepsClock m p k q e (rs.foldl fun u r => raise r u) := by
  intro s
  induction rs generalizing s with
  | nil => rfl
  | cons r rs ih =>
    show rs.foldl (fun u r => raise r u) (raise r (withClock m p k q e s)) = _
    rw [keepsClock_raise]
    exact ih _

theorem keepsClock_enterPaused (c : Chan) (a : PauseCauses) : KeepsClock m p k q e (enterPaused c a) := by
  intro s
  unfold enterPaused
  rw [keepsClock_quench]
  rfl

theorem keepsClock_absentChannel (c : Chan) : KeepsClock m p k q e (absentChannel c) := by
  intro s
  have same : (withClock m p k q e s).chan c = s.chan c := rfl
  unfold absentChannel
  rw [same]
  cases (s.chan c).chc.state
  case delayed | running | igniting => exact keepsClock_enterPaused m p k q e c _ s
  all_goals rfl

/-- The mains absent report after the time base, the station and the marks have taken it. -/
def afterAbsence (s : State) : State :=
  recompute (mapChans suspendDriver (forChans absentChannel
    (raise { kind := .mainsAbsent, channel := none, slot := none, parameter := 0 } s)))

theorem reportMainsAbsent_eq (s : State) :
    reportMainsAbsent s =
      afterAbsence { s with mtb := s.mtb.mainsAbsent, ssv := s.ssv.mainsAbsent, taken := [], sparkRead := none } := rfl

theorem keepsClock_afterAbsence : KeepsClock m p k q e afterAbsence := by
  intro s
  unfold afterAbsence
  rw [keepsClock_raise, keepsClock_forChans m p k q e _ (keepsClock_absentChannel m p k q e), ← keepsClock_recompute]
  rfl

/-- The programs that a mains failure ends, with their records in the turns given. -/
def failPrograms (order : List Chan) (s : State) : State :=
  raiseInTurn order s (forChans (fun c => endIfProgram c .mains) (setAside s))

theorem keepsClock_failPrograms (order : List Chan) : KeepsClock m p k q e (failPrograms order) := by
  intro s
  have ended := keepsClock_forChans m p k q e (fun c => endIfProgram c .mains)
    (fun c => keepsClock_endIfProgram m p k q e c .mains) (setAside s)
  have aside : setAside (withClock m p k q e s) = withClock m p k q e (setAside s) := rfl
  unfold failPrograms raiseInTurn
  rw [aside, ended, ← keepsClock_foldl_raise]
  rfl

/-- The mains failed report on the station, once the programs have ended. -/
def failStation (s : State) : State :=
  let s2 := if s.ssv.station = .safe then s else enterMainsWait s
  clearHolds (recompute (clearFilters (emptyPeers { s2 with ssv := { s2.ssv with powerFail := true } })))

theorem keepsClock_failStation : KeepsClock m p k q e failStation := by
  intro s
  have safe : (withClock m p k q e s).ssv.station = s.ssv.station := rfl
  have holds (t : State) : clearHolds (withClock m p k q e t) = withClock m p k q e (clearHolds t) := rfl
  unfold failStation
  dsimp only
  rw [safe]
  by_cases h : s.ssv.station = .safe
  · rw [if_pos h, if_pos h, ← holds, ← keepsClock_recompute]
    rfl
  · rw [if_neg h, if_neg h, ← holds, ← keepsClock_recompute]
    rfl

theorem reportMainsFailed_eq (order : List Chan) (s : State) :
    reportMainsFailed order s = failStation (failPrograms order { s with mtb := s.mtb.mainsFailed }) := rfl

end

/-- What leaves the clock alone leaves the time base and the notes as they are, but for the mode, the frequency and the
prescaler. -/
theorem clock_of_keeps {f : State → State} {s : State}
    (h : KeepsClock s.mtb s.pins s.clockTaken s.sparkRead s.eventsNew f) :
    (f s).clockTaken = s.clockTaken ∧
    (f s).mtb =
      { s.mtb with
        mode := (f s).mtb.mode, frequency := (f s).mtb.frequency, prescaler := (f s).mtb.prescaler } := by
  have same : f s = withClock s.mtb s.pins s.clockTaken s.sparkRead s.eventsNew (f s) := h s
  exact ⟨(congrArg State.clockTaken same :), (congrArg State.mtb same :)⟩

theorem reportMainsAbsent_clockTaken (s : State) : (reportMainsAbsent s).clockTaken = s.clockTaken := by
  rw [reportMainsAbsent_eq]
  exact (clock_of_keeps (keepsClock_afterAbsence _ _ _ _ _)).1

theorem reportMainsFailed_keepsClock (order : List Chan) (s : State) (x : Nat) :
    (reportMainsFailed order s).clockTaken = s.clockTaken ∧
    reportMainsFailed order { s with mtb := { s.mtb with spacing := x } } =
      { reportMainsFailed order s with mtb := { (reportMainsFailed order s).mtb with spacing := x } } := by
  have keeps (m : Mtb) (p : Pins) (k : Bool) (q : Option Bool) (e : Bool) :
      KeepsClock m p k q e fun s => failStation (failPrograms order s) := fun t => by
    dsimp only
    rw [keepsClock_failPrograms, keepsClock_failStation]
  obtain ⟨taken, base⟩ := clock_of_keeps (s := { s with mtb := s.mtb.mainsFailed }) (keeps _ _ _ _ _)
  have same := keeps s.mtb.mainsFailed s.pins s.clockTaken s.sparkRead s.eventsNew { s with mtb := s.mtb.mainsFailed }
  have moved := keeps { s.mtb.mainsFailed with spacing := x } s.pins s.clockTaken s.sparkRead s.eventsNew
    { s with mtb := s.mtb.mainsFailed }
  refine ⟨taken, ?_⟩
  rw [reportMainsFailed_eq, reportMainsFailed_eq]
  refine moved.trans ?_
  dsimp only at same base ⊢
  rw [base]
  conv_rhs => rw [show failStation (failPrograms order { s with mtb := s.mtb.mainsFailed }) = _ from same]
  rfl

theorem reportMainsAbsent_mtb (s : State) : (reportMainsAbsent s).mtb = s.mtb.mainsAbsent := by
  rw [reportMainsAbsent_eq, afterAbsence, recompute_mtb]
  exact ((kept_mtb_ssv s.mtb.mainsAbsent s.ssv.mainsAbsent).afterAbsent _ ⟨rfl, rfl⟩).1

theorem failPrograms_mtb (order : List Chan) (s : State) : (failPrograms order s).mtb = s.mtb :=
  ((kept_mtb_ssv s.mtb s.ssv).programsFailed order ⟨rfl, rfl⟩ ⟨rfl, rfl⟩).1

theorem failStation_mtb (s : State) : (failStation s).mtb = s.mtb := by
  unfold failStation clearHolds
  dsimp only
  rw [recompute_mtb]
  split <;> rfl

theorem reportMainsFailed_mtb (order : List Chan) (s : State) :
    (reportMainsFailed order s).mtb = s.mtb.mainsFailed := by
  rw [reportMainsFailed_eq, failStation_mtb, failPrograms_mtb]

/-! ### The two expiries -/

theorem exec_mainsAbsent {s : State} (hs : s.held = false) (hk : s.clockTaken = false)
    (he : missingExpired s.mtb.tick = true) :
    exec .mainsAbsent s =
      .next
        { reportMainsAbsent { s with mtb := s.mtb.tick } with clockTaken := true, eventsNew := s.rpu.events.isEmpty } := by
  show live _ s = _
  rw [live_powered _ _ hs, onlyIf, if_pos (by rw [hk, he]; rfl)]
  rfl

theorem exec_mainsFailed (order : List Chan) {s : State} (hs : s.held = false) (hk : s.clockTaken = false)
    (he : rideExpired s.mtb.tick = true) :
    exec (.mainsFailed order) s =
      .next
        { reportMainsFailed order { s with mtb := s.mtb.tick } with
          clockTaken := true, eventsNew := s.rpu.events.isEmpty } := by
  show live _ s = _
  rw [live_powered _ _ hs, onlyIf, if_pos (by rw [hk, he]; rfl)]
  rfl

/-! ### The obligation on a sample without a crossing -/

/-- The five outcomes of a sample on the filter that gives no crossing (R1). -/
theorem filterStep_moves {level : Bool} {a m : Mtb}
    (h : (a.sign = some (signOf level) ∧ m = { a with run := 0 }) ∨
      (a.sign = some (signOf (!level)) ∧ a.run < 3 ∧ m = { a with run := a.run + 1 }) ∨
      (a.sign = none ∧ a.candidate = some (signOf level) ∧ a.run < 3 ∧ m = { a with run := a.run + 1 }) ∨
      (a.sign = none ∧ a.candidate = some (signOf level) ∧ a.run = 3 ∧
        m = { a with sign := some (signOf level), candidate := none, run := 0 }) ∨
      (a.sign = none ∧ a.candidate ≠ some (signOf level) ∧
        m = { a with candidate := some (signOf level), run := 1 })) :
    filterStep level a = (m, false) := by
  have other : signOf level ≠ signOf (!level) := fun h => by simpa using signOf_injective h
  unfold filterStep
  obtain ⟨hs, hm⟩ | ⟨hs, hr, hm⟩ | ⟨hs, hc, hr, hm⟩ | ⟨hs, hc, hr, hm⟩ | ⟨hs, hc, hm⟩ := h <;> rw [hm, hs] <;> dsimp only
  · rw [if_pos rfl]
  · rw [if_neg other, if_pos (by omega)]
  · rw [if_pos hc, if_pos (by omega)]
  · rw [if_pos hc, if_neg (by omega)]
  · rw [if_neg hc]

/-- Settles O20, by the outcome of the filter and then by the timers. -/
theorem zxSampleMovesTheFilter : Obligations.ZxSampleMovesTheFilter := by
  intro s level order m n hs hcases
  have filtered := filterStep_moves hcases
  have run := exec_zxFilterSample order hs filtered
  have apart := filterStep_apart level s.mtb
  rw [filtered] at apart
  dsimp only at apart
  have mode : m.mode = s.mtb.mode := (congrArg Mtb.mode apart :)
  have frequency : m.frequency = s.mtb.frequency := (congrArg Mtb.frequency apart :)
  have missingTimer : m.missingTimer = s.mtb.missingTimer := (congrArg Mtb.missingTimer apart :)
  have rideTimer : m.rideTimer = s.mtb.rideTimer := (congrArg Mtb.rideTimer apart :)
  have spacing : m.spacing = s.mtb.spacing := (congrArg Mtb.spacing apart :)
  refine ⟨fun hk ht hr => ?_, fun hk hm hn ht => ?_, fun hk hm hn ht => ?_, fun hk hn hr => ?_⟩
  · have absent : missingExpired m.tick = false := by
      rw [Bool.eq_false_iff, ne_eq, missingExpired_iff]
      rintro ⟨tracking, k, timer, limit⟩
      simp only [Mtb.tick, missingTimer, Option.map_eq_some_iff] at timer
      obtain ⟨j, hj, rfl⟩ := timer
      have expired : missingLimit s.mtb.frequency ≤ j + 1 := frequency ▸ limit
      obtain ⟨hf, short⟩ | ⟨hf, short⟩ := ht (mode.symm.trans tracking) <;> rw [hf] at expired <;>
        have := short j hj <;> simp only [missingLimit] at expired <;> omega
    have failed : rideExpired m.tick = false := by
      rw [Bool.eq_false_iff, ne_eq, rideExpired_iff]
      rintro ⟨missing, k, timer, limit⟩
      simp only [Mtb.tick, rideTimer, Option.map_eq_some_iff] at timer
      obtain ⟨j, hj, rfl⟩ := timer
      have := hr (mode.symm.trans missing) j hj
      omega
    rw [run, if_neg (by simp [hk]), expireTimers_of_none absent failed, Mtb.tick, spacing, missingTimer, rideTimer, hk]
  · have expired : missingExpired m.tick = true := by
      refine (missingExpired_iff _).mpr ⟨mode.trans hm, n + 1, ?_, ?_⟩
      · simp [Mtb.tick, missingTimer, hn]
      · show missingLimit m.frequency ≤ n + 1
        rw [frequency]
        obtain ⟨hf, limit⟩ | ⟨hf, limit⟩ := ht <;> rw [hf] <;> exact limit
    refine ⟨_, exec_mainsAbsent hs hk expired, ?_, ?_⟩
    · exact (congrArg Mtb.mode (reportMainsAbsent_mtb _) :)
    · rw [run, if_neg (by simp [hk]), expireTimers, if_pos expired]
      have taken := reportMainsAbsent_clockTaken
        { s with mtb := m.tick, pins := { s.pins with zx := level }, clockTaken := false }
      rw [hk]
      generalize reportMainsAbsent _ = t at taken ⊢
      dsimp only at taken ⊢
      rw [taken]
  · have running : ¬ missingExpired m.tick = true := by
      rw [missingExpired_iff]
      rintro ⟨tracking, -⟩
      exact absurd (tracking.symm.trans (mode.trans hm)) (by decide)
    have expired : rideExpired m.tick = true := by
      refine (rideExpired_iff _).mpr ⟨mode.trans hm, n + 1, ?_, ht⟩
      simp [Mtb.tick, rideTimer, hn]
    refine ⟨_, exec_mainsFailed order hs hk expired, ?_, ?_⟩
    · exact (congrArg Mtb.mode (reportMainsFailed_mtb _ _) :)
    · rw [run, if_neg (by simp [hk]), expireTimers, if_neg running, if_pos expired]
      obtain ⟨taken, -⟩ := reportMainsFailed_keepsClock order
        { s with mtb := m.tick, pins := { s.pins with zx := level }, clockTaken := false } 0
      rw [hk]
      generalize reportMainsFailed _ _ = t at taken ⊢
      dsimp only at taken ⊢
      rw [taken]
  · have expired : rideExpired m = false := by
      rw [Bool.eq_false_iff, ne_eq, rideExpired_iff]
      rintro ⟨-, k, timer, limit⟩
      have := hr k (rideTimer ▸ timer)
      omega
    have running : missingExpired m = false := by
      rw [Bool.eq_false_iff, ne_eq, missingExpired_iff]
      rintro ⟨-, k, timer, -⟩
      rw [missingTimer, hn] at timer
      exact nomatch timer
    rw [run, if_pos hk, expireTimers_of_none running expired]

end Sys2Proof.Machine
end

section
/-! Settles O22 and O23: an accepted crossing outside TRACKING. -/

namespace Sys2Proof.Machine

/-! ### The crossing that is due -/

/-- The state in which a crossing is handled: its sample counted, its sign accepted. -/
def crossed (level : Bool) (s : State) : State :=
  { s with
    mtb := { s.mtb.tick with sign := some (signOf level), run := 0 }, pins := { s.pins with zx := level }
    clockTaken := false }

theorem takeSample_crossing {level : Bool} {s : State} (order : List HalfCycleUnit) (turns : List Chan)
    (hk : s.clockTaken = false) (hsign : s.mtb.sign = some (signOf (!level))) (hrun : s.mtb.run = 3) :
    takeSample level order turns s = expireTimers turns (takeCrossing order (crossed level s)) := by
  have step : filterStep level (clocked s) = ({ s.mtb.tick with sign := some (signOf level), run := 0 }, true) := by
    rw [clocked, if_neg (by simp [hk])]
    exact filterStep_crossing hsign hrun
  rw [takeSample, step]
  rfl

/-- ACCEPTED_CROSSING, where the crossing is due. -/
theorem exec_acceptedCrossing {level : Bool} {s : State} (pins : InputPins) (order : List HalfCycleUnit)
    (hs : s.held = false) (hk : s.clockTaken = false) (hsign : s.mtb.sign = some (signOf (!level)))
    (hrun : s.mtb.run = 3) :
    exec (.acceptedCrossing pins order) s =
      .next
        { expireTimers (programTurns order) (takeCrossing order (crossed level (withInputs pins s))) with
          eventsNew := s.rpu.events.isEmpty } := by
  show live (onlyIf (crossingDue s) fun s =>
    takeSample (oppositeLevel s) order (programTurns order) (withInputs pins s)) s = _
  rw [live_powered _ _ hs, onlyIf, if_pos (crossingDue_of_sign hsign hrun), oppositeLevel_of_sign hsign,
    takeSample_crossing (s := withInputs pins s) order _ hk hsign hrun]

/-- With no ride-through under way the turns of a mains failure have no part in a sample. -/
theorem expireTimers_turns {s : State} (h : s.mtb.mode ≠ .missing) (turns : List Chan) :
    expireTimers turns s = expireTimers [] s := by
  have going : ¬ rideExpired s.mtb = true := by
    rw [rideExpired_iff]
    exact fun ⟨missing, _⟩ => h missing
  rw [expireTimers, expireTimers, if_neg going, if_neg going]

/-- A time base that measures has no timer to expire. -/
theorem expireTimers_measuring {s : State} (h : s.mtb.mode = .measuring) (turns : List Chan) :
    expireTimers turns s = s := by
  refine expireTimers_of_none ?_ ?_ <;> rw [Bool.eq_false_iff, ne_eq]
  · rw [missingExpired_iff]
    exact fun ⟨tracking, _⟩ => absurd (h.symm.trans tracking) (by decide)
  · rw [rideExpired_iff]
    exact fun ⟨missing, _⟩ => absurd (h.symm.trans missing) (by decide)

/-- A missing-crossing timer that has just started does not expire. -/
theorem expireTimers_started {s : State} (hm : s.mtb.mode = .tracking) (ht : s.mtb.missingTimer = some 0)
    (hf : s.mtb.frequency ≠ none) (turns : List Chan) : expireTimers turns s = s := by
  refine expireTimers_of_none ?_ ?_ <;> rw [Bool.eq_false_iff, ne_eq]
  · rw [missingExpired_iff]
    rintro ⟨-, n, timer, limit⟩
    rw [ht] at timer
    obtain rfl := Option.some.inj timer
    cases hfr : s.mtb.frequency with
    | none => exact hf hfr
    | some f => rw [hfr] at limit; cases f <;> simp [missingLimit] at limit
  · rw [rideExpired_iff]
    exact fun ⟨missing, _⟩ => absurd (hm.symm.trans missing) (by decide)

/-! ### MEASURING -/

theorem reportFrequencySet_mtb (f : Frequency) (s : State) :
    (reportFrequencySet f s).mtb = s.mtb.frequencySet f := by
  unfold reportFrequencySet
  dsimp only
  rw [recompute_mtb, mapChans_mtb, makeRequest_mtb]

theorem judgeWindow_none {n : Nat} (h : n < 540 ∨ 792 < n) : judgeWindow n = none := by
  rw [judgeWindow, if_neg (by omega), if_neg (by omega)]

theorem judgeWindow_isSome {n : Nat} (hl : 540 ≤ n) (hu : n ≤ 792) : (judgeWindow n).isSome = true := by
  rw [judgeWindow]
  by_cases h : 648 ≤ n ∧ n ≤ 792
  · rw [if_pos h]; rfl
  · rw [if_neg h, if_pos (by omega)]; rfl

/-- A crossing that is the first of a window, or the tenth of one that gives no frequency (R2). -/
theorem measureCrossing_starts {s : State}
    (h : s.mtb.windowCount = 0 ∨ 120 < s.mtb.spacing ∨
      (s.mtb.windowCount = 9 ∧
        (s.mtb.windowSum + s.mtb.spacing < 540 ∨ 792 < s.mtb.windowSum + s.mtb.spacing))) :
    measureCrossing s = { s with mtb := s.mtb.startWindow } := by
  unfold measureCrossing
  by_cases first : s.mtb.windowCount = 0 ∨ 120 < s.mtb.spacing
  · rw [if_pos first]
  · rw [if_neg first]
    obtain ⟨tenth, sum⟩ : s.mtb.windowCount = 9 ∧
        (s.mtb.windowSum + s.mtb.spacing < 540 ∨ 792 < s.mtb.windowSum + s.mtb.spacing) := by
      obtain h | h | h := h
      · exact absurd (.inl h) first
      · exact absurd (.inr h) first
      · exact h
    dsimp only
    rw [if_neg (by omega), judgeWindow_none sum]
    rfl

/-- A crossing that is neither the first of a window nor the tenth (R2). -/
theorem measureCrossing_counts {s : State} (hl : 0 < s.mtb.windowCount) (hu : s.mtb.windowCount < 9)
    (hsp : s.mtb.spacing ≤ 120) :
    measureCrossing s =
      { s with
        mtb := { s.mtb with windowCount := s.mtb.windowCount + 1, windowSum := s.mtb.windowSum + s.mtb.spacing } } := by
  unfold measureCrossing
  rw [if_neg (by omega)]
  dsimp only
  rw [if_pos (by omega)]

/-- The tenth crossing of a window that gives a frequency (R2). -/
theorem measureCrossing_sets {s : State} {f : Frequency} (hc : s.mtb.windowCount = 9) (hsp : s.mtb.spacing ≤ 120)
    (hj : judgeWindow (s.mtb.windowSum + s.mtb.spacing) = some f) :
    measureCrossing s =
      reportFrequencySet f
        { s with mtb := { s.mtb with windowCount := 10, windowSum := s.mtb.windowSum + s.mtb.spacing } } := by
  unfold measureCrossing
  rw [if_neg (by omega)]
  dsimp only
  rw [if_neg (by omega), hj, hc]

theorem takeCrossing_measuring {s : State} (h : s.mtb.mode = .measuring) (order : List HalfCycleUnit) :
    takeCrossing order s =
      { measureCrossing s with mtb := { (measureCrossing s).mtb with spacing := 0 } } := by
  rw [takeCrossing, h]

/-- The tick of a spacing, which stops at 121. -/
theorem tick_spacing {m : Mtb} (h : m.spacing + 1 ≤ 120) : m.tick.spacing = m.spacing + 1 := by
  show min 121 (m.spacing + 1) = _
  omega

theorem tick_spacing_long {m : Mtb} (h : 120 < m.spacing + 1) : 120 < m.tick.spacing := by
  show 120 < min 121 (m.spacing + 1)
  omega

/-! ### MISSING -/

theorem reportMainsRestored_mtb (s : State) : (reportMainsRestored s).mtb = s.mtb.mainsRestored := by
  unfold reportMainsRestored
  dsimp only
  rw [recompute_mtb]
  exact ((kept_mtb_ssv s.mtb.mainsRestored s.ssv.mainsRestored).afterRestored _ ⟨rfl, rfl⟩).1

theorem takeCrossing_missing {s : State} (h : s.mtb.mode = .missing) (order : List HalfCycleUnit) :
    takeCrossing order s =
      { returnCrossing s with mtb := { (returnCrossing s).mtb with spacing := 0 } } := by
  rw [takeCrossing, h]

/-- The spacings of a return run, at each frequency (R6). -/
theorem returnSpacing_tick (m : Mtb) :
    returnSpacing m.frequency m.tick.spacing = true ↔
      (m.frequency = some .hz50 ∧ 64 ≤ m.spacing + 1 ∧ m.spacing + 1 ≤ 96) ∨
        (m.frequency = some .hz60 ∧ 54 ≤ m.spacing + 1 ∧ m.spacing + 1 ≤ 80) := by
  show returnSpacing m.frequency (min 121 (m.spacing + 1)) = true ↔ _
  unfold returnSpacing
  split
  next h => simp only [h, decide_eq_true_eq, Option.some.injEq, reduceCtorEq, false_and, or_false, true_and]; omega
  next h => simp only [h, decide_eq_true_eq, Option.some.injEq, reduceCtorEq, false_and, false_or, true_and]; omega
  next h => simp [h]

/-- The return run after a crossing in MISSING that does not restore the mains. -/
def nextReturnRun (m : Mtb) : Nat :=
  if m.returnRun = 0 ∨ ¬ returnSpacing m.frequency m.spacing then 1 else m.returnRun + 1

theorem returnCrossing_counts {s : State} (h : nextReturnRun s.mtb < 10) :
    returnCrossing s = { s with mtb := { s.mtb with returnRun := nextReturnRun s.mtb } } := by
  unfold returnCrossing
  unfold nextReturnRun at h ⊢
  split
  next => rfl
  next hrun =>
    rw [if_neg hrun] at h
    rw [if_pos h]

theorem returnCrossing_restores {s : State} (h : nextReturnRun s.mtb = 10) :
    returnCrossing s = reportMainsRestored s := by
  unfold nextReturnRun at h
  unfold returnCrossing
  split
  next hrun => rw [if_pos hrun] at h; omega
  next hrun => rw [if_neg hrun] at h; rw [if_neg (by omega)]

/-- The order of the channels' program units, as the statements write it. -/
theorem programTurns_eq (order : List HalfCycleUnit) :
    (order.filterMap fun u => match u with | .program c => some c | _ => none) = programTurns order := by
  unfold programTurns
  congr 1
  funext u
  cases u <;> rfl

/-! ### The obligations -/

theorem followCeiling_suspended (f : Option Frequency) (ch : Channel) :
    (followCeiling f ch).suspended = ch.driver.suspended := by
  unfold followCeiling
  split
  · rfl
  · cases ch.cfg.kind
    case slow => dsimp only; split_ifs <;> rfl
    all_goals rfl

theorem recompute_suspended (s : State) (c : Chan) :
    ((recompute s).chan c).driver.suspended = (s.chan c).driver.suspended := by
  rw [recompute_driver, followCeiling_suspended]

/-- The state in which the tenth crossing of a window makes its report: crossed, with the last spacing counted. -/
def windowed (level : Bool) (s : State) : State :=
  { crossed level s with
    mtb := { (crossed level s).mtb with windowCount := 10, windowSum := s.mtb.windowSum + (s.mtb.spacing + 1) } }

/-- The tenth crossing of a window that gives a frequency is taken by FREQUENCY_SET as by the crossing (R2). -/
theorem takeSample_frequencySet {level : Bool} {f : Frequency} {s : State} (order : List HalfCycleUnit)
    (turns : List Chan) (hk : s.clockTaken = false) (hsign : s.mtb.sign = some (signOf (!level)))
    (hrun : s.mtb.run = 3) (hm : s.mtb.mode = .measuring) (hc : s.mtb.windowCount = 9)
    (hsp : s.mtb.spacing + 1 ≤ 120) (hj : judgeWindow (s.mtb.windowSum + (s.mtb.spacing + 1)) = some f) :
    takeSample level order turns s =
      { reportFrequencySet f (windowed level s) with
        mtb := { (reportFrequencySet f (windowed level s)).mtb with spacing := 0 } } := by
  have spacing : (crossed level s).mtb.spacing = s.mtb.spacing + 1 := tick_spacing hsp
  have judged : judgeWindow ((crossed level s).mtb.windowSum + (crossed level s).mtb.spacing) = some f := by
    rwa [spacing]
  have measured : measureCrossing (crossed level s) = reportFrequencySet f (windowed level s) := by
    rw [measureCrossing_sets (s := crossed level s) hc (spacing.le.trans hsp) judged, spacing]
    rfl
  have base := reportFrequencySet_mtb f (windowed level s)
  rw [takeSample_crossing order turns hk hsign hrun, takeCrossing_measuring (s := crossed level s) hm, measured]
  generalize reportFrequencySet f (windowed level s) = t at base
  refine expireTimers_started ?_ ?_ ?_ turns
  · exact (congrArg Mtb.mode base :)
  · exact (congrArg Mtb.missingTimer base :)
  · exact fun h => nomatch ((congrArg Mtb.frequency base).symm.trans h : some f = none)

theorem frequencyDue_iff {level : Bool} {s : State} (hk : s.clockTaken = false)
    (hsign : s.mtb.sign = some (signOf (!level))) (hrun : s.mtb.run = 3) (hm : s.mtb.mode = .measuring)
    (hc : s.mtb.windowCount = 9) (hsp : s.mtb.spacing + 1 ≤ 120) :
    frequencyDue s = (judgeWindow (s.mtb.windowSum + (s.mtb.spacing + 1))).isSome := by
  have spacing : (clocked s).spacing = s.mtb.spacing + 1 := by
    rw [clocked, if_neg (by simp [hk])]
    exact tick_spacing hsp
  rw [frequencyDue, crossingDue_of_sign hsign hrun, hm, hc, spacing, decide_eq_true hsp]
  rfl

/-- FREQUENCY_SET, where the coming crossing is the tenth of a window that gives a frequency. -/
theorem exec_frequencySet {level : Bool} {s : State} (hs : s.held = false)
    (hsign : s.mtb.sign = some (signOf (!level))) (hdue : frequencyDue s = true) :
    exec .frequencySet s = .next { takeSample level [] [] s with eventsNew := s.rpu.events.isEmpty } := by
  show live (onlyIf (frequencyDue s) fun s => takeSample (oppositeLevel s) [] [] s) s = _
  rw [live_powered _ _ hs, onlyIf, if_pos hdue, oppositeLevel_of_sign hsign]

theorem judgeWindow_of_bounds {f : Frequency} {n : Nat} (h50 : f = .hz50 → 648 ≤ n ∧ n ≤ 792)
    (h60 : f = .hz60 → 540 ≤ n ∧ n ≤ 647) : judgeWindow n = some f := by
  unfold judgeWindow
  cases f
  case hz50 => rw [if_pos (h50 rfl)]
  case hz60 =>
    have := h60 rfl
    rw [if_neg (by omega), if_pos this]

/-- What the frequency set report does to the station and the apportionment unit (R9, R15, R79 to R81). -/
theorem reportFrequencySet_station (f : Frequency) (s : State) :
    (reportFrequencySet f s).ssv = s.ssv.frequencySet ∧ (reportFrequencySet f s).apu.request = true ∧
    (reportFrequencySet f s).apu.interval = 0 ∧ (reportFrequencySet f s).apu.ownSendAge = 0 ∧
    (∀ c, ((reportFrequencySet f s).chan c).driver.suspended = false) ∧ KeepsPrograms s (reportFrequencySet f s) ∧
    KeepsLine s (reportFrequencySet f s) ∧ (reportFrequencySet f s).rpu = s.rpu ∧
    (reportFrequencySet f s).igu = s.igu := by
  have awake : s.ssv.frequencySet.station ≠ .mainsWait := by
    unfold Ssv.frequencySet
    split
    next h => rw [h]; decide
    next => exact (nomatch ·)
  unfold reportFrequencySet
  dsimp only
  refine ⟨by simp, ?_, ?_, ?_, fun c => ?_, fun c => ?_, ?_, by simp, by simp⟩
  · rw [recompute_request_iff]
    exact .inl ((makeRequest_request_iff _).mpr (.inr awake))
  · simp [mapChans, makeRequest, awake]
  · simp [mapChans, makeRequest, awake]
  · rw [recompute_suspended]
    simp [resumeDriver]
  · simp [KeepsProgram, resumeDriver]
    exact ⟨rfl, rfl, rfl⟩
  · simp [KeepsLine]

/-- Settles O23. -/
theorem frequencySetStartsTracking : Obligations.FrequencySetStartsTracking := by
  intro s level f hs hk hsign hrun hm hc hsp h50 h60
  have judged := judgeWindow_of_bounds h50 h60
  have due : frequencyDue s = true := by rw [frequencyDue_iff hk hsign hrun hm hc hsp, judged]; rfl
  have base := reportFrequencySet_mtb f (windowed level s)
  obtain ⟨station, request, interval, ownSendAge, resumed, programs, line, rpu, igu⟩ := reportFrequencySet_station f (windowed level s)
  have row := exec_frequencySet hs hsign due
  rw [takeSample_frequencySet [] [] hk hsign hrun hm hc hsp judged] at row
  generalize reportFrequencySet f (windowed level s) = t at base station request interval ownSendAge resumed programs line rpu igu row
  refine ⟨_, row, ?_, ?_, ?_, ?_, fun hst => ?_, fun hst => ?_, request, interval, ownSendAge, resumed, programs, line,
    rpu, igu⟩
  · exact (congrArg Mtb.frequency base :)
  · exact (congrArg Mtb.mode base :)
  · exact (congrArg Mtb.prescaler base :)
  · exact (congrArg Mtb.missingTimer base :)
  · have listens : t.ssv = { s.ssv with station := .listen, listenCount := 0, prior := none } :=
      station.trans (if_neg hst)
    exact ⟨(congrArg Ssv.station listens :), (congrArg Ssv.listenCount listens :)⟩
  · exact (congrArg Ssv.station (station.trans (if_pos hst)) :).trans hst

/-- The frequency is known where a spacing is judged correct (R6). -/
theorem frequency_of_returnSpacing {f : Option Frequency} {n : Nat} (h : returnSpacing f n = true) : f ≠ none := by
  rintro rfl
  exact nomatch (h : false = true)

/-- The crossing is the tenth of a return run: the ninth stands, and its spacing is correct (R6). -/
theorem nextReturnRun_ten {m : Mtb} (h : nextReturnRun m = 10) :
    m.returnRun = 9 ∧ returnSpacing m.frequency m.spacing = true := by
  unfold nextReturnRun at h
  split at h
  next => omega
  next hrun =>
    rw [not_or, not_not] at hrun
    exact ⟨by omega, hrun.2⟩

/-- The tenth crossing of a return run is taken by MAINS_RESTORED as by the crossing (R6). -/
theorem takeSample_mainsRestored {level : Bool} {s : State} (order : List HalfCycleUnit) (turns : List Chan)
    (hk : s.clockTaken = false) (hsign : s.mtb.sign = some (signOf (!level))) (hrun : s.mtb.run = 3)
    (hm : s.mtb.mode = .missing) (hten : nextReturnRun (crossed level s).mtb = 10) :
    takeSample level order turns s =
      { reportMainsRestored (crossed level s) with
        mtb := { (reportMainsRestored (crossed level s)).mtb with spacing := 0 } } := by
  have known := frequency_of_returnSpacing (nextReturnRun_ten hten).2
  have base := reportMainsRestored_mtb (crossed level s)
  rw [takeSample_crossing order turns hk hsign hrun, takeCrossing_missing (s := crossed level s) hm,
    returnCrossing_restores hten]
  generalize reportMainsRestored (crossed level s) = t at base
  refine expireTimers_started ?_ ?_ ?_ turns
  · exact (congrArg Mtb.mode base :)
  · exact (congrArg Mtb.missingTimer base :)
  · exact fun h => known ((congrArg Mtb.frequency base).symm.trans h)

/-- MAINS_RESTORED, where the coming crossing is the tenth of a return run. -/
theorem exec_mainsRestored {level : Bool} {s : State} (hs : s.held = false) (hk : s.clockTaken = false)
    (hsign : s.mtb.sign = some (signOf (!level))) (hrun : s.mtb.run = 3) (hm : s.mtb.mode = .missing)
    (hten : nextReturnRun (crossed level s).mtb = 10) :
    exec .mainsRestored s = .next { takeSample level [] [] s with eventsNew := s.rpu.events.isEmpty } := by
  obtain ⟨nine, correct⟩ := nextReturnRun_ten hten
  have due : restoreDue s = true := by
    have ticked : clocked s = s.mtb.tick := if_neg (by simp [hk])
    rw [restoreDue, crossingDue_of_sign hsign hrun, hm, ticked,
      show s.mtb.returnRun = 9 from nine, show returnSpacing s.mtb.frequency s.mtb.tick.spacing = true from correct]
    rfl
  show live (onlyIf (restoreDue s) fun s => takeSample (oppositeLevel s) [] [] s) s = _
  rw [live_powered _ _ hs, onlyIf, if_pos due, oppositeLevel_of_sign hsign]

/-- The state in which a mains failure at a crossing is reported, before the crossing's spacing starts anew. -/
def returned (level : Bool) (r : Nat) (s : State) : State :=
  { s with
    mtb := { s.mtb.tick with sign := some (signOf level), run := 0, returnRun := r }
    pins := { s.pins with zx := level } }

/-- A mains failure reported at a crossing, and the same taken ahead of it: the spacing and the mark of the sample are
all that tells them apart. -/
theorem reportMainsFailed_returned (turns : List Chan) (level : Bool) (r : Nat) {s : State} (hk : s.clockTaken = false) :
    (reportMainsFailed turns (returned level r s)).clockTaken = false ∧
    reportMainsFailed turns
        { crossed level s with mtb := { (crossed level s).mtb with returnRun := r, spacing := 0 } } =
      { reportMainsFailed turns (returned level r s) with
        mtb := { (reportMainsFailed turns (returned level r s)).mtb with spacing := 0 } } := by
  obtain ⟨taken, moved⟩ := reportMainsFailed_keepsClock turns (returned level r s) 0
  have same : { crossed level s with mtb := { (crossed level s).mtb with returnRun := r, spacing := 0 } } =
      { returned level r s with mtb := { (returned level r s).mtb with spacing := 0 } } := by
    rw [crossed, returned, ← hk]
  rw [same]
  exact ⟨taken.trans hk, moved⟩

/-- MAINS_FAILED ahead of a crossing that the filter has accepted. -/
theorem exec_mainsFailed_returned (turns : List Chan) {level : Bool} {r : Nat} {s : State} (pins : InputPins)
    (hs : s.held = false) (hk : s.clockTaken = false) (he : rideExpired (returned level r s).mtb = true) :
    exec (.mainsFailed turns)
        { s with
          mtb := { s.mtb with sign := some (signOf level), run := 0, returnRun := r }
          pins := { (withInputs pins s).pins with zx := level } } =
      .next
        { reportMainsFailed turns (returned level r (withInputs pins s)) with
          clockTaken := true, eventsNew := s.rpu.events.isEmpty } :=
  exec_mainsFailed turns (s :=
    { s with
      mtb := { s.mtb with sign := some (signOf level), run := 0, returnRun := r }
      pins := { (withInputs pins s).pins with zx := level } }) hs hk he

/-- Settles O22, by the mode and by what the crossing finds there. -/
theorem crossingOutsideTracking : Obligations.CrossingOutsideTracking := by
  intro s pins order level r n hs hk hsign hrun
  have run := exec_acceptedCrossing pins order hs hk hsign hrun
  have taken : (crossed level (withInputs pins s)).clockTaken = s.clockTaken := hk.symm
  refine ⟨fun hm hstart => ?_, fun hm hc hsp hl hu => ?_, fun hm hl hu hsp => ?_, fun hm h9 hr => ?_⟩
  · rw [run, takeCrossing_measuring (s := crossed level (withInputs pins s)) hm, measureCrossing_starts ?starts]
    case starts =>
      by_cases long : 120 < s.mtb.spacing + 1
      · exact .inr (.inl (tick_spacing_long long))
      · have spacing : (crossed level (withInputs pins s)).mtb.spacing = s.mtb.spacing + 1 := tick_spacing (Nat.le_of_not_lt long)
        rw [spacing]
        exact hstart
    rw [expireTimers_measuring (by exact hm), taken]
    rfl
  · have judged := judgeWindow_isSome hl hu
    have due : frequencyDue (withInputs pins s) = true :=
      (frequencyDue_iff (s := withInputs pins s) hk hsign hrun hm hc hsp).trans judged
    obtain ⟨f, hf⟩ := Option.isSome_iff_exists.mp judged
    rw [run, exec_frequencySet (s := withInputs pins s) hs hsign due,
      takeSample_frequencySet (s := withInputs pins s) [] [] hk hsign hrun hm hc hsp hf,
      ← takeSample_frequencySet (s := withInputs pins s) order (programTurns order) hk hsign hrun hm hc hsp hf,
      takeSample_crossing (s := withInputs pins s) order _ hk hsign hrun]
    rfl
  · have spacing : (crossed level (withInputs pins s)).mtb.spacing = s.mtb.spacing + 1 := tick_spacing hsp
    rw [run, takeCrossing_measuring (s := crossed level (withInputs pins s)) hm,
      measureCrossing_counts (s := crossed level (withInputs pins s)) hl hu (spacing.le.trans hsp), spacing,
      expireTimers_measuring (by exact hm), taken]
    rfl
  · have next : nextReturnRun (crossed level (withInputs pins s)).mtb = r := by
      rw [hr]
      unfold nextReturnRun
      exact if_congr (or_congr_right (not_congr (returnSpacing_tick s.mtb))) rfl rfl
    have going (k : Nat) : ¬ missingExpired { (crossed level (withInputs pins s)).mtb with returnRun := k, spacing := 0 } =
        true := by
      rw [missingExpired_iff]
      exact fun ⟨tracking, _⟩ => absurd (hm.symm.trans tracking) (by decide)
    refine ⟨fun ten => ?_, fun ten ride => ?_, fun ten ride expired => ?_⟩
    · have row := exec_mainsRestored (s := withInputs pins s) hs hk hsign hrun hm (next.trans ten)
      rw [run, row, takeSample_mainsRestored (s := withInputs pins s) [] [] hk hsign hrun hm (next.trans ten),
        ← takeSample_mainsRestored (s := withInputs pins s) order (programTurns order) hk hsign hrun hm (next.trans ten),
        takeSample_crossing (s := withInputs pins s) order _ hk hsign hrun]
      rfl
    · have still : ¬ rideExpired { (crossed level (withInputs pins s)).mtb with returnRun := r, spacing := 0 } = true := by
        rw [rideExpired_iff]
        rintro ⟨-, j, timer, limit⟩
        obtain ⟨i, hi, rfl⟩ := Option.map_eq_some_iff.mp (timer : s.mtb.rideTimer.map (· + 1) = some j)
        have := ride i hi
        omega
      rw [run, takeCrossing_missing (s := crossed level (withInputs pins s)) hm, returnCrossing_counts (next ▸ ten), next,
        expireTimers, if_neg (going r), if_neg still, taken]
      rfl
    · have timer : s.mtb.tick.rideTimer = some (n + 1) := by rw [Mtb.tick, ride]; rfl
      have due (m : Mtb) (hmode : m.mode = s.mtb.mode) (htimer : m.rideTimer = s.mtb.tick.rideTimer) :
          rideExpired m = true := (rideExpired_iff m).mpr ⟨hmode.trans hm, n + 1, htimer.trans timer, expired⟩
      generalize hturns : order.filterMap _ = turns
      have same : programTurns order = turns := by
        rw [← hturns]
        exact (programTurns_eq order).symm
      have row := exec_mainsFailed_returned turns (r := r) (level := level) pins hs hk (due _ rfl rfl)
      obtain ⟨still, moved⟩ := reportMainsFailed_returned turns level r (s := withInputs pins s) hk
      have base := reportMainsFailed_mtb turns (returned level r (withInputs pins s))
      rw [run, takeCrossing_missing (s := crossed level (withInputs pins s)) hm, returnCrossing_counts (next ▸ ten),
        next, expireTimers, if_neg (going r),
        if_pos (due { (crossed level (withInputs pins s)).mtb with returnRun := r, spacing := 0 } rfl rfl), same, moved]
      generalize reportMainsFailed turns (returned level r (withInputs pins s)) = t at row still base ⊢
      refine ⟨_, row, ?_, ?_⟩
      · exact (congrArg Mtb.mode base :)
      · rw [← still]

end Sys2Proof.Machine
end

section
/-! Settles O24: the mains absent report. -/

namespace Sys2Proof.Machine

/-! ### What giving up ignition leaves alone -/

/-- No channel has changed but in its burner's record and its valve. -/
abbrev FuelOnly (s t : State) : Prop :=
  ∀ d, t.chan d = { s.chan d with burner := (t.chan d).burner, valve := (t.chan d).valve }

theorem FuelOnly.trans {s t u : State} (h : FuelOnly s t) (k : FuelOnly t u) : FuelOnly s u := fun d => by
  rw [k d, h d]

theorem fuelOnly_mapChan (c : Chan) (f : Channel → Channel) (s : State)
    (hf : ∀ ch, f ch = { ch with burner := (f ch).burner, valve := (f ch).valve }) : FuelOnly s (s.mapChan c f) := by
  intro d
  by_cases hd : d = c
  · subst hd
    rw [State.chan_mapChan_self]
    exact hf _
  · rw [State.chan_mapChan_ne _ _ _ _ hd]

theorem fuelOnly_promote (s : State) : FuelOnly s (promote s) := by
  unfold promote
  split
  · exact fuelOnly_mapChan _ _ { s with igu := _ } fun _ => rfl
  · exact fun _ => rfl

theorem fuelOnly_leaveIgnition (c : Chan) (s : State) : FuelOnly s (leaveIgnition c s) := by
  have cleared (u : State) : FuelOnly u (u.mapChan c fun ch => { ch with burner := ch.burner.outOfIgnition, valve := 0 }) :=
    fuelOnly_mapChan c _ u fun _ => rfl
  have released (u : State) : FuelOnly u (releaseUnit u) := fun d =>
    fuelOnly_promote { u with igu := { u.igu with holder := none, spark := false } } d
  unfold leaveIgnition
  dsimp only
  split
  · exact fun _ => rfl
  · exact cleared _
  · exact (cleared s).trans (released _)
  · exact (cleared s).trans (released _)
  · exact (cleared s).trans (released _)
  · exact cleared s

theorem fuelOnly_quench (c : Chan) (s : State) : FuelOnly s (quench c s) :=
  (fuelOnly_leaveIgnition c s).trans (fuelOnly_mapChan c _ _ fun _ => rfl)

/-- A driver follows its ceiling by its level and its on-time alone (R100, R108). -/
theorem followCeiling_apart (f : Option Frequency) (ch : Channel) :
    followCeiling f ch =
      { ch.driver with level := (followCeiling f ch).level, onTime := (followCeiling f ch).onTime } := by
  unfold followCeiling
  split
  · rfl
  · cases ch.cfg.kind
    case slow => dsimp only; split_ifs <;> rfl
    all_goals rfl

/-! ### A channel on the report -/

theorem turns_absentChannel (c : Chan) (s : State) : Turns (· = c) s (absentChannel c s) := by
  unfold absentChannel
  split
  case h_1 | h_2 | h_3 => exact (turns_quench c s).trans (turns_mapChan c _ _)
  case h_4 => exact turns_mapChan c _ s
  all_goals exact .refl _ s

theorem othersTurned_absentChannel {c d : Chan} (hd : d ≠ c) (u : State) : OthersTurned c u (absentChannel d u) where
  channel := (turns_absentChannel d u).keepsChannel (Ne.symm hd)
  waits := by
    unfold absentChannel
    split
    case h_1 | h_2 | h_3 => exact (keepsUnqueued_quench hd u).trans (keepsUnqueued_mapChan hd _ _)
    case h_4 => exact keepsUnqueued_mapChan hd _ u
    all_goals exact .refl c u
  driver := by rw [(turns_absentChannel d u).others c (Ne.symm hd)]

/-- The controller of a channel after the mains absent report (R11, R55). -/
def Chc.mainsAbsent (k : Chc) : Chc :=
  match k.state with
  | .delayed | .running | .igniting =>
    { k with state := .paused, causes := ⟨false, true⟩, target := resumeTargetOf k.state }
  | .paused => { k with causes := { k.causes with mains := true } }
  | .idle | .lockout | .disabled => k

/-- What the report does to a channel: its controller, and the valve and the burner of one that was lit or igniting. -/
theorem absentChannel_chan (c : Chan) (s : State) :
    ((absentChannel c s).chan c).chc = (s.chan c).chc.mainsAbsent ∧
    ((absentChannel c s).chan c).pgu = (s.chan c).pgu ∧ ((absentChannel c s).chan c).driver = (s.chan c).driver ∧
    ((s.chan c).chc.state = .running ∨ (s.chan c).chc.state = .igniting →
      ((absentChannel c s).chan c).valve = 0 ∧
      ((absentChannel c s).chan c).burner = ((absentChannel c s).chan c).burner.unsupervised) := by
  have paused : ((enterPaused c ⟨false, true⟩ s).chan c).driver = (s.chan c).driver := by
    rw [enterPaused, State.chan_mapChan_self]
    dsimp only
    rw [fuelOnly_quench c s c]
  have dark : ((enterPaused c ⟨false, true⟩ s).chan c).burner =
      ((enterPaused c ⟨false, true⟩ s).chan c).burner.unsupervised := by
    rw [enterPaused, State.chan_mapChan_self, quench, State.chan_mapChan_self]
    rfl
  obtain ⟨hchc, hpgu, hvalve, -⟩ := enterPaused_chan c ⟨false, true⟩ s
  unfold absentChannel Chc.mainsAbsent
  cases hst : (s.chan c).chc.state
  case delayed | running | igniting =>
    dsimp only
    rw [hst] at hchc
    exact ⟨hchc, hpgu, paused, fun _ => ⟨hvalve, dark⟩⟩
  case paused =>
    dsimp only
    rw [State.chan_mapChan_self]
    exact ⟨by rw [← hst], rfl, rfl, fun h => by simp at h⟩
  all_goals exact ⟨rfl, rfl, rfl, fun h => by simp at h⟩

theorem mainsAbsent_state (k : Chc) :
    k.mainsAbsent.state ≠ .running ∧ k.mainsAbsent.state ≠ .igniting ∧
    (k.mainsAbsent.state = .lockout ↔ k.state = .lockout) := by
  unfold Chc.mainsAbsent
  cases hst : k.state <;> simp [hst]

/-- The turns of all channels leave alone the station but for its ignition unit. -/
theorem turns_forChans {f : Chan → State → State} (h : ∀ c s, Turns (· = c) s (f c s)) (s : State) :
    Turns (fun _ => True) s (forChans f s) := by
  have turn (c : Chan) (s : State) := (h c s).mono (q := fun _ => True) fun _ _ => trivial
  exact (turn 0 s).trans ((turn 1 _).trans ((turn 2 _).trans (turn 3 _)))

/-! ### The line on the report -/

/-- A channel outside IGNITING changes, and stays outside. -/
theorem Parted.touched {s u : State} {gone : List Chan} (hf : FuelSound s) (h : Parted s gone u) {c : Chan}
    (hi : (s.chan c).chc.state ≠ .igniting) {f : Channel → Channel} (hfi : (f (u.chan c)).chc.state ≠ .igniting) :
    Parted s (c :: gone) (u.mapChan c f) := by
  have outside : c ∉ s.igu.line.filter (· ∉ gone) := fun hm =>
    hi (igniting_of_mem_line hf (List.mem_of_mem_filter hm))
  have same : s.igu.line.filter (· ∉ c :: gone) = s.igu.line.filter (· ∉ gone) := by
    rw [filter_gone_cons, filter_ne_of_not_mem outside]
  refine ⟨by rw [same]; exact h.igu, fun d hd => ?_, fun d hd => ?_⟩
  · obtain ⟨hdc, hdg⟩ : d ≠ c ∧ d ∉ gone := by simpa using hd
    rw [same, State.chan_mapChan_ne _ _ _ _ hdc]
    exact h.stays d hdg
  · by_cases hdc : d = c
    · subst hdc
      rw [State.chan_mapChan_self]
      exact ⟨hfi, fun higniting => absurd higniting hi⟩
    · rw [State.chan_mapChan_ne _ _ _ _ hdc]
      exact h.left d ((List.mem_cons.1 hd).resolve_left hdc)

theorem Parted.absentChannel {s u : State} {gone : List Chan} (hf : FuelSound s) (h : Parted s gone u) {c : Chan}
    (hc : c ∉ gone) : Parted s gone (absentChannel c u) ∨ Parted s (c :: gone) (absentChannel c u) := by
  have left : Parted s (c :: gone) (enterPaused c ⟨false, true⟩ u) :=
    h.quenched hf hc (f := fun ch =>
      { ch with
        chc := { ch.chc with state := .paused, causes := ⟨false, true⟩, target := resumeTargetOf (u.chan c).chc.state } })
      (fun _ => rfl) (fun _ => rfl) fun _ => nofun
  obtain ⟨hchc, -⟩ := h.stays c hc
  unfold Machine.absentChannel
  split
  case h_1 | h_2 | h_3 => exact .inr left
  case h_4 hst =>
    refine .inr (h.touched hf ?_ ?_)
    · rw [← hchc, hst]; decide
    · dsimp only; rw [hst]; decide
  all_goals exact .inl h

theorem parted_absent {s u : State} (hf : FuelSound s) (h : Parted s [] u) :
    ∃ gone, Parted s gone (forChans absentChannel u) := by
  have turn (turned : List Chan) (c : Chan) (hc : c ∉ turned) {u : State}
      (hu : ∃ gone, (∀ d ∈ gone, d ∈ turned) ∧ Parted s gone u) :
      ∃ gone, (∀ d ∈ gone, d ∈ c :: turned) ∧ Parted s gone (absentChannel c u) := by
    obtain ⟨gone, hsub, hgone⟩ := hu
    obtain hact | hact := hgone.absentChannel hf (c := c) fun hm => hc (hsub c hm)
    · exact ⟨gone, fun d hd => List.mem_cons_of_mem c (hsub d hd), hact⟩
    · exact ⟨c :: gone, fun d hd => List.mem_cons.2 ((List.mem_cons.1 hd).imp_right (hsub d)), hact⟩
  obtain ⟨gone, -, hgone⟩ := turn [2, 1, 0] 3 (by decide) <| turn [1, 0] 2 (by decide) <| turn [0] 1 (by decide) <|
    turn [] 0 (by decide) ⟨[], fun _ => id, h⟩
  exact ⟨gone, hgone⟩

/-- With no channel left in IGNITING the ignition unit is empty (R127). -/
theorem IgnitionFollows.empty {s t : State} (h : IgnitionFollows s t) (hf : FuelSound s)
    (hout : ∀ c, (t.chan c).chc.state ≠ .igniting) :
    t.igu = { queue := [], holder := none, spark := false } ∧
    ∀ c, (s.chan c).chc.state = .igniting →
      (t.chan c).burner = { Burner.reset with allowed := (s.chan c).burner.allowed } := by
  obtain ⟨higu, hburner⟩ := h hf
  have line : ignitionLine s t = [] := by
    simp [ignitionLine, hout]
  refine ⟨?_, fun c hc => ((hburner c).2.1 hc (hout c)).1⟩
  rw [higu, line]
  have spark : (s.igu.spark && decide ((none : Option Chan) = s.igu.holder)) = false := by
    by_cases hh : s.igu.holder = none
    · rw [(line_of_free hf hh).2]; rfl
    · rw [decide_eq_false (Ne.symm hh), Bool.and_false]
  exact congrArg (Igu.mk [] none) spark

/-! ### The report -/

/-- The state in which the channels take the mains absent report: the time base, the station and the marks have taken it,
and MAINS_ABSENT is raised. -/
def absenceRaised (s : State) : State :=
  raise { kind := .mainsAbsent, channel := none, slot := none, parameter := 0 }
    { s with mtb := s.mtb.mainsAbsent, ssv := s.ssv.mainsAbsent, taken := [], sparkRead := none }

/-- The station once the channels and their drivers have taken the report, before the recomputation. -/
def absenceTaken (s : State) : State := mapChans suspendDriver (forChans absentChannel (absenceRaised s))

theorem reportMainsAbsent_recompute (s : State) : reportMainsAbsent s = recompute (absenceTaken s) := rfl

@[simp] theorem absenceRaised_chan (s : State) (c : Chan) : (absenceRaised s).chan c = s.chan c := by
  simp [absenceRaised, State.chan]

theorem absenceTaken_suspended (s : State) (c : Chan) :
    (absenceTaken s).chan c = suspendDriver ((forChans absentChannel (absenceRaised s)).chan c) := by
  simp [absenceTaken]

theorem suspendDriver_kept (ch : Channel) :
    (suspendDriver ch).chc = ch.chc ∧ (suspendDriver ch).burner = ch.burner ∧ (suspendDriver ch).valve = ch.valve := by
  unfold suspendDriver
  split <;> exact ⟨rfl, rfl, rfl⟩

/-- The station but for its ignition unit (R11, R15). -/
theorem absenceTaken_station (s : State) :
    (absenceTaken s).ssv = s.ssv.mainsAbsent ∧
    (absenceTaken s).rpu =
      (raise { kind := .mainsAbsent, channel := none, slot := none, parameter := 0 } s).rpu ∧
    KeepsLine s (absenceTaken s) := by
  have station := (turns_forChans turns_absentChannel (absenceRaised s)).station
  have raised : (absenceRaised s).rpu =
      (raise { kind := .mainsAbsent, channel := none, slot := none, parameter := 0 } s).rpu := by
    rw [absenceRaised, raise_eq, raise_eq]
    rfl
  refine ⟨(congrArg State.ssv station).trans ?_, (congrArg State.rpu station).trans raised,
    (congrArg State.lif station).trans ?_, (congrArg State.configOpen station).trans ?_,
    (congrArg State.stationConfigured station).trans ?_, (congrArg State.lastStarted station).trans ?_,
    (congrArg State.pending station).trans ?_⟩ <;> simp [absenceRaised]

/-- A channel once it and its driver have taken the report (R11, R55, R111, R113). -/
theorem absenceTaken_chan (s : State) (c : Chan) :
    ((absenceTaken s).chan c).cfg = (s.chan c).cfg ∧
    ((absenceTaken s).chan c).chc = (s.chan c).chc.mainsAbsent ∧ ((absenceTaken s).chan c).pgu = (s.chan c).pgu ∧
    ((s.chan c).chc.state = .running ∨ (s.chan c).chc.state = .igniting → ((absenceTaken s).chan c).valve = 0) ∧
    (driverWorks (s.chan c) = true →
      ((absenceTaken s).chan c).driver = (s.chan c).driver.mainsAbsent (s.chan c).cfg.kind) := by
  obtain ⟨hcfg, -⟩ := (turns_forChans turns_absentChannel (absenceRaised s)).fixtures c
  obtain ⟨u, hu, hv⟩ := forChans_isolates (f := absentChannel) (c := c) (fun d hd v => othersTurned_absentChannel hd v)
    (absenceRaised s)
  obtain ⟨⟨uchc, upgu, -⟩, -⟩ := hu.channel
  obtain ⟨⟨vchc, vpgu, -⟩, vvalve, -⟩ := hv.channel
  obtain ⟨hchc, hpgu, hdriver, hdark⟩ := absentChannel_chan c u
  have udriver := hu.driver
  rw [absenceRaised_chan] at hcfg uchc upgu udriver
  have chc := vchc.trans (hchc.trans (congrArg Chc.mainsAbsent uchc))
  have driver := hv.driver.trans (hdriver.trans udriver)
  have valve := fun h => vvalve.trans (hdark (uchc ▸ h)).1
  have pgu := vpgu.trans (hpgu.trans upgu)
  rw [absenceTaken_suspended]
  generalize (forChans absentChannel (absenceRaised s)).chan c = ch at hcfg chc driver valve pgu
  have works : driverWorks ch = driverWorks (s.chan c) := by
    have lockout : (ch.chc.state != .lockout) = ((s.chan c).chc.state != .lockout) := by
      rw [chc, Bool.eq_iff_iff, bne_iff_ne, bne_iff_ne, not_iff_not]
      exact (mainsAbsent_state _).2.2
    rw [driverWorks, driverWorks, hcfg, lockout]
  unfold suspendDriver
  rw [works]
  by_cases hw : driverWorks (s.chan c) = true
  · rw [if_pos hw]
    exact ⟨hcfg, chc, pgu, valve, fun _ => by rw [← driver, ← hcfg]⟩
  · rw [if_neg hw]
    exact ⟨hcfg, chc, pgu, valve, fun h => absurd h hw⟩

/-- A lit burner once it has taken the report: no phase, no supervision and no runs (R140). -/
theorem absenceTaken_burner {s : State} (hf : FuelSound s) {c : Chan} (hst : (s.chan c).chc.state = .running) :
    ((absenceTaken s).chan c).burner = (s.chan c).burner.unsupervised ∧ (s.chan c).burner.phase = .none := by
  have phase : (s.chan c).burner.phase = .none := phase_none_of_state hf (by rw [hst]; decide)
  obtain ⟨-, -, -, hc⟩ := hf
  obtain ⟨-, hqueued, -⟩ := hc c
  have unqueued : c ∉ (absenceRaised s).igu.queue := by
    simp only [absenceRaised, raise_igu]
    exact fun h => by simp [phase] at hqueued; exact hqueued h
  obtain ⟨u, hu, hv⟩ := forChans_isolates (f := absentChannel) (c := c) (fun d hd v => othersTurned_absentChannel hd v)
    (absenceRaised s)
  obtain ⟨uqueue, uburner⟩ := hu.waits unqueued
  obtain ⟨⟨uchc, -⟩, -⟩ := hu.channel
  rw [absenceRaised_chan] at uburner uchc
  have turn : absentChannel c u = enterPaused c ⟨false, true⟩ u := by
    unfold absentChannel
    rw [uchc, hst]
  have quenched := quench_of_no_phase (c := c) (s := u) (by rw [uburner, phase])
  rw [turn, enterPaused, quenched] at hv
  obtain ⟨-, vburner⟩ := hv.waits uqueue
  have taken : ((absenceTaken s).chan c).burner = ((forChans absentChannel (absenceRaised s)).chan c).burner := by
    rw [absenceTaken_suspended]
    exact (suspendDriver_kept _).2.1
  refine ⟨taken.trans (vburner.trans ?_), phase⟩
  rw [State.chan_mapChan_self]
  dsimp only
  rw [State.chan_mapChan_self, ← uburner]
  rfl

theorem Parted.congr {s u v : State} {gone : List Chan} (h : Parted s gone u) (higu : v.igu = u.igu)
    (hchan : ∀ d, (v.chan d).chc = (u.chan d).chc ∧ (v.chan d).burner = (u.chan d).burner ∧
      (v.chan d).valve = (u.chan d).valve) : Parted s gone v where
  igu := higu.trans h.igu
  stays d hd := by
    obtain ⟨hchc, hburner, -⟩ := hchan d
    rw [hchc, hburner]
    exact h.stays d hd
  left d hd := by
    obtain ⟨hchc, hburner, hvalve⟩ := hchan d
    rw [hchc, hburner, hvalve]
    exact h.left d hd

theorem ignitionFollows_reportMainsAbsent (s : State) : IgnitionFollows s (reportMainsAbsent s) := by
  refine Parted.ignitionFollows fun hf => ?_
  have raised : Parted s [] (absenceRaised s) :=
    (Parted.refl hf).congr (by simp [absenceRaised]) fun d => by rw [absenceRaised_chan]; exact ⟨rfl, rfl, rfl⟩
  obtain ⟨gone, parted⟩ := parted_absent hf raised
  have taken : Parted s gone (absenceTaken s) := parted.congr (mapChans_igu suspendDriver _) fun d => by
    rw [absenceTaken_suspended]
    exact suspendDriver_kept _
  exact ⟨gone, taken.settles (settles_recompute (absenceTaken s))⟩

/-- What the mains absent report does to the station, to channel `c`, and to the ignition unit. -/
structure AbsenceReported (c : Chan) (s t : State) : Prop where
  mtb : t.mtb = s.mtb.mainsAbsent
  ssv : t.ssv = s.ssv.mainsAbsent
  rpu : t.rpu = (raise { kind := .mainsAbsent, channel := none, slot := none, parameter := 0 } s).rpu
  line : KeepsLine s t
  cfg : (t.chan c).cfg = (s.chan c).cfg
  chc : (t.chan c).chc = (s.chan c).chc.mainsAbsent
  pgu : (t.chan c).pgu = (s.chan c).pgu
  valve : (s.chan c).chc.state = .running ∨ (s.chan c).chc.state = .igniting → (t.chan c).valve = 0
  driver : driverWorks (s.chan c) = true →
    (t.chan c).driver =
      { (s.chan c).driver.mainsAbsent (s.chan c).cfg.kind with
        level := (t.chan c).driver.level, onTime := (t.chan c).driver.onTime }
  lit : FuelSound s → (s.chan c).chc.state = .running →
    (t.chan c).burner = (s.chan c).burner.unsupervised ∧ (s.chan c).burner.phase = .none
  ignition : FuelSound s →
    t.igu = { queue := [], holder := none, spark := false } ∧
    ((s.chan c).chc.state = .igniting →
      (t.chan c).burner = { Burner.reset with allowed := (s.chan c).burner.allowed })

theorem absenceReported (c : Chan) (s : State) : AbsenceReported c s (reportMainsAbsent s) := by
  have settled := settles_recompute (absenceTaken s)
  obtain ⟨ssv, rpu, line⟩ := absenceTaken_station s
  have chan (d : Chan) := absenceTaken_chan s d
  have chc (d : Chan) : ((reportMainsAbsent s).chan d).chc = (s.chan d).chc.mainsAbsent :=
    (settled.channel d).1.1.trans (chan d).2.1
  obtain ⟨cfg, -, pgu, valve, driver⟩ := chan c
  obtain ⟨⟨-, tpgu, tcfg⟩, tvalve, -⟩ := settled.channel c
  refine
    { mtb := reportMainsAbsent_mtb s, ssv := ?_, rpu := settled.rpu.trans rpu, line := ?_, cfg := tcfg.trans cfg
      chc := chc c, pgu := tpgu.trans pgu, valve := fun h => tvalve.trans (valve h), driver := fun h => ?_
      lit := fun hf h => ?_, ignition := fun hf => ?_ }
  · rw [reportMainsAbsent_recompute, recompute_ssv, ssv]
  · rw [reportMainsAbsent_recompute]
    simpa [KeepsLine] using line
  · rw [reportMainsAbsent_recompute, recompute_driver, followCeiling_apart, ← driver h]
  · obtain ⟨burner, phase⟩ := absenceTaken_burner hf h
    exact ⟨(settled.burner c).trans burner, phase⟩
  · obtain ⟨igu, burner⟩ := (ignitionFollows_reportMainsAbsent s).empty hf fun d => by
      rw [chc]
      exact (mainsAbsent_state _).2.1
    exact ⟨igu, burner c⟩

/-- Settles O24. -/
theorem mainsAbsentPausesTheStation : Obligations.MainsAbsentPausesTheStation := by
  intro s c n hs hk hm hn
  have timer : s.mtb.tick.missingTimer = some (n + 1) := by rw [Mtb.tick, hn]; rfl
  have expires : missingExpired s.mtb.tick = decide (missingLimit s.mtb.frequency ≤ n + 1) := by
    rw [Bool.eq_iff_iff, missingExpired_iff, decide_eq_true_iff, timer]
    exact ⟨fun ⟨_, k, hk, limit⟩ => Option.some.inj hk ▸ limit, fun limit => ⟨hm, n + 1, rfl, limit⟩⟩
  refine ⟨fun hf => by rw [expires, hf]; rfl, fun hf => by rw [expires, hf]; rfl, fun early => ?_, fun h50 h60 => ?_⟩
  · show live (onlyIf (!s.clockTaken && missingExpired s.mtb.tick) (takeExpiry reportMainsAbsent)) s = _
    rw [live_powered _ _ hs, onlyIf, if_neg (by simp [early])]
  have due : missingExpired s.mtb.tick = true := by
    rw [expires, decide_eq_true_iff]
    cases hf : s.mtb.frequency with
    | none => exact Nat.zero_le _
    | some f =>
      cases f
      case hz50 => exact h50 hf
      case hz60 => exact h60 hf
  have row := exec_mainsAbsent hs hk due
  have reported := absenceReported c { s with mtb := s.mtb.tick }
  generalize reportMainsAbsent { s with mtb := s.mtb.tick } = t at row reported
  refine ⟨_, row, ?_, ?_, ?_, ?_, fun hst => ?_, fun hst => ?_, reported.rpu.trans ?_, reported.chc.trans ?_,
    reported.pgu, reported.valve, fun hw => ?_, fun hf => ?_, reported.cfg, reported.line⟩
  · exact (congrArg Mtb.mode reported.mtb :)
  · exact (congrArg Mtb.missingTimer reported.mtb :)
  · exact (congrArg Mtb.rideTimer reported.mtb :)
  · exact (congrArg Mtb.returnRun reported.mtb :)
  · have moved : t.ssv = { s.ssv with station := .rideThrough, prior := some s.ssv.station } := by
      rw [reported.ssv, Ssv.mainsAbsent]
      obtain h | h := hst <;> simp [h]
    exact ⟨(congrArg Ssv.station moved :), (congrArg Ssv.prior moved :)⟩
  · have stays : t.ssv = s.ssv := by rw [reported.ssv, Ssv.mainsAbsent, hst]
    exact (congrArg Ssv.station stays :).trans hst
  · rw [raise_eq, raise_eq]; rfl
  · rfl
  · have driver := reported.driver hw
    exact ⟨(congrArg Driver.output driver :), (congrArg Driver.suspended driver :), (congrArg Driver.settle driver :)⟩
  · obtain ⟨igu, igniting⟩ := reported.ignition hf
    refine ⟨igu, fun hst => ?_, igniting⟩
    obtain hrun | hign := hst
    · obtain ⟨burner, phase⟩ := reported.lit hf hrun
      exact ⟨(congrArg Burner.phase burner :).trans phase, (congrArg Burner.supervising burner :),
        (congrArg Burner.onRun burner :), (congrArg Burner.offRun burner :), (congrArg Burner.blankRun burner :)⟩
    · have burner := igniting hign
      exact ⟨(congrArg Burner.phase burner :), (congrArg Burner.supervising burner :),
        (congrArg Burner.onRun burner :), (congrArg Burner.offRun burner :), (congrArg Burner.blankRun burner :)⟩

end Sys2Proof.Machine
end

section
/-! Settles O25: the mains restored report. -/

namespace Sys2Proof.Machine

/-! ### A channel on the report -/

theorem turns_restoredChannel (c : Chan) (s : State) : Turns (· = c) s (restoredChannel c s) := by
  unfold restoredChannel removeCause
  dsimp only
  split_ifs
  · exact turns_mapChan c _ s
  · exact (turns_mapChan c _ s).trans (turns_leavePaused c _)
  · exact .refl _ s

theorem keepsUnqueued_leavePaused {c d : Chan} (hd : d ≠ c) (s : State) : KeepsUnqueued c s (leavePaused d s) := by
  unfold leavePaused
  dsimp only
  refine (keepsUnqueued_mapChan hd (fun ch => { ch with chc := { ch.chc with target := none } }) s).trans ?_
  split_ifs
  · exact keepsUnqueued_mapChan hd _ _
  · exact keepsUnqueued_enterIgnition hd _ _
  · exact keepsUnqueued_mapChan hd _ _

theorem othersTurned_restoredChannel {c d : Chan} (hd : d ≠ c) (u : State) : OthersTurned c u (restoredChannel d u) where
  channel := (turns_restoredChannel d u).keepsChannel (Ne.symm hd)
  waits := by
    unfold restoredChannel removeCause
    dsimp only
    split_ifs
    · exact keepsUnqueued_mapChan hd _ u
    · exact (keepsUnqueued_mapChan hd _ u).trans (keepsUnqueued_leavePaused hd _)
    · exact .refl c u
  driver := by rw [(turns_restoredChannel d u).others c (Ne.symm hd)]

/-- The state of a channel that leaves PAUSED (R54). -/
def resumedState (ch : Channel) : ChanState :=
  if ch.chc.target = some .delayed then .delayed
  else if ch.cfg.kind = .burner ∧ 0 < ch.pgu.level then .igniting
  else .running

/-- What the report does to a channel (R12, R54, R55). -/
theorem restoredChannel_chan (c : Chan) (s : State) :
    ((restoredChannel c s).chan c).pgu = (s.chan c).pgu ∧
    ((s.chan c).chc.state ≠ .paused →
      ((restoredChannel c s).chan c).chc = (s.chan c).chc) ∧
    ((s.chan c).chc.state = .paused → (s.chan c).chc.causes.command = true →
      ((restoredChannel c s).chan c).chc = { (s.chan c).chc with causes := ⟨true, false⟩ }) ∧
    ((s.chan c).chc.state = .paused → (s.chan c).chc.causes.command = false →
      ((restoredChannel c s).chan c).chc =
        { (s.chan c).chc with causes := ⟨false, false⟩, target := none, state := resumedState (s.chan c) }) ∧
    ((s.chan c).chc.state = .paused → ((restoredChannel c s).chan c).chc.state = .running →
      ((restoredChannel c s).chan c).driver = (s.chan c).driver.afresh (s.chan c).cfg.kind) := by
  unfold restoredChannel removeCause
  dsimp only
  by_cases hp : (s.chan c).chc.state = .paused
  · rw [if_pos hp]
    cases hcmd : (s.chan c).chc.causes.command
    · rw [if_neg (by simp)]
      obtain ⟨pgu, chc, driver⟩ := leavePaused_chan c
        (s.mapChan c fun ch => { ch with chc := { ch.chc with causes := ⟨false, false⟩ } }) (by simp [hp])
      rw [State.chan_mapChan_self] at pgu chc driver
      exact ⟨pgu, fun h => absurd hp h, fun _ h => Bool.noConfusion h, fun _ _ => chc, fun _ => driver⟩
    · rw [if_pos (by simp), State.chan_mapChan_self]
      exact ⟨rfl, fun h => absurd hp h, fun _ _ => rfl, fun _ h => Bool.noConfusion h,
        fun _ h => by simp [hp] at h⟩
  · rw [if_neg hp]
    exact ⟨rfl, fun _ => rfl, fun h => absurd h hp, fun h => absurd h hp, fun h => absurd h hp⟩

theorem restoredChannel_ignites (c : Chan) (s : State) (hr : ReadyForTurn c s) :
    IgnitionTurn c s (restoredChannel c s) := by
  unfold restoredChannel removeCause
  dsimp only
  split
  next hs =>
    split
    · exact ignitionTurn_mapChan c _ s (by simp [hs]) (by simp [hs])
    · refine .of_mapChan (ignitionTurn_leavePaused c _ ⟨hr.free, ?_⟩ (by simp [hs]))
      simpa using hr.phase
  next => exact .refl c s

/-! ### The report -/

/-- The state in which the channels take the mains restored report. -/
def returnRaised (s : State) : State :=
  raise { kind := .mainsRestored, channel := none, slot := none, parameter := s.mtb.rideTimer.getD 0 / 800 }
    { s with mtb := s.mtb.mainsRestored, ssv := s.ssv.mainsRestored }

/-- The station once the channels and their drivers have taken the report, before the recomputation. -/
def returnTaken (s : State) : State := mapChans resumeDriver (forChans restoredChannel (returnRaised s))

theorem reportMainsRestored_recompute (s : State) : reportMainsRestored s = recompute (returnTaken s) := rfl

@[simp] theorem returnRaised_chan (s : State) (c : Chan) : (returnRaised s).chan c = s.chan c := by
  simp [returnRaised, State.chan]

theorem returnTaken_resumed (s : State) (c : Chan) :
    (returnTaken s).chan c = resumeDriver ((forChans restoredChannel (returnRaised s)).chan c) := by
  simp [returnTaken]

theorem resumeDriver_kept (ch : Channel) :
    (resumeDriver ch).cfg = ch.cfg ∧ (resumeDriver ch).chc = ch.chc ∧ (resumeDriver ch).pgu = ch.pgu ∧
    (resumeDriver ch).burner = ch.burner ∧ (resumeDriver ch).driver = { ch.driver with suspended := false } :=
  ⟨rfl, rfl, rfl, rfl, rfl⟩

/-- Turns leave alone the station but for its ignition unit. -/
theorem Turns.keepsStation {q : Chan → Prop} {s t : State} (h : Turns q s t) :
    t.ssv = s.ssv ∧ t.rpu = s.rpu ∧ KeepsLine s t := by
  have station := h.station
  exact ⟨(congrArg State.ssv station :), (congrArg State.rpu station :), (congrArg State.lif station :),
    (congrArg State.configOpen station :), (congrArg State.stationConfigured station :),
    (congrArg State.lastStarted station :), (congrArg State.pending station :)⟩

theorem returnTaken_station (s : State) :
    (returnTaken s).ssv = s.ssv.mainsRestored ∧
    (returnTaken s).rpu =
      (raise { kind := .mainsRestored, channel := none, slot := none, parameter := s.mtb.rideTimer.getD 0 / 800 } s).rpu ∧
    KeepsLine s (returnTaken s) := by
  obtain ⟨ssv, rpu, line⟩ := (turns_forChans turns_restoredChannel (returnRaised s)).keepsStation
  have raised : (returnRaised s).ssv = s.ssv.mainsRestored ∧
      (returnRaised s).rpu =
        (raise { kind := .mainsRestored, channel := none, slot := none, parameter := s.mtb.rideTimer.getD 0 / 800 } s).rpu ∧
      KeepsLine s (returnRaised s) := by
    rw [returnRaised, raise_eq, raise_eq]
    exact ⟨rfl, rfl, rfl, rfl, rfl, rfl, rfl⟩
  obtain ⟨rssv, rrpu, rline⟩ := raised
  unfold returnTaken
  generalize forChans restoredChannel (returnRaised s) = u at ssv rpu line
  generalize returnRaised s = r at ssv rpu line rssv rrpu rline
  exact ⟨ssv.trans rssv, rpu.trans rrpu, line.1.trans rline.1, line.2.1.trans rline.2.1, line.2.2.1.trans rline.2.2.1,
    line.2.2.2.1.trans rline.2.2.2.1, line.2.2.2.2.trans rline.2.2.2.2⟩

/-- What the mains restored report does to the station, to channel `c`, and to the ignition unit. -/
structure ReturnReported (c : Chan) (s t : State) : Prop where
  mtb : t.mtb = s.mtb.mainsRestored
  ssv : t.ssv = s.ssv.mainsRestored
  rpu : t.rpu =
    (raise { kind := .mainsRestored, channel := none, slot := none, parameter := s.mtb.rideTimer.getD 0 / 800 } s).rpu
  line : KeepsLine s t
  cfg : (t.chan c).cfg = (s.chan c).cfg
  pgu : (t.chan c).pgu = (s.chan c).pgu
  going : (s.chan c).chc.state ≠ .paused → (t.chan c).chc = (s.chan c).chc
  commanded : (s.chan c).chc.state = .paused → (s.chan c).chc.causes.command = true →
    (t.chan c).chc = { (s.chan c).chc with causes := ⟨true, false⟩ }
  resumed : (s.chan c).chc.state = .paused → (s.chan c).chc.causes.command = false →
    (t.chan c).chc =
      { (s.chan c).chc with causes := ⟨false, false⟩, target := none, state := resumedState (s.chan c) }
  afresh : (s.chan c).chc.state = .paused → (t.chan c).chc.state = .running →
    Afresh { (s.chan c).driver with suspended := false } (t.chan c)
  suspended : (t.chan c).driver.suspended = false
  follows : IgnitionFollows s t

theorem Joined.congr {s u v : State} {turned : List Chan} (h : Joined s turned u) (higu : v.igu = u.igu)
    (hchan : ∀ d, (v.chan d).chc = (u.chan d).chc ∧ (v.chan d).burner = (u.chan d).burner ∧
      (v.chan d).cfg = (u.chan d).cfg) : Joined s turned v := by
  have chc (d : Chan) := (hchan d).1
  have burner (d : Chan) := (hchan d).2.1
  have cfg (d : Chan) := (hchan d).2.2
  have entered : enteredIgnition s v turned = enteredIgnition s u turned := by simp only [enteredIgnition, chc]
  refine ⟨?_, fun d => ?_, fun d => ?_, fun d => ?_, fun d => ?_⟩
  · rw [higu, entered, h.igu]
  · rw [cfg, h.cfg]
  · rw [chc, burner]; exact h.stays d
  · rw [chc, burner, higu]; exact h.enters d
  · rw [chc, burner]; exact h.waits d

theorem joined_forChans_restored {s u : State} (hf : FuelSound s) (h : Joined s [] u) :
    Joined s [0, 1, 2, 3] (forChans restoredChannel u) := by
  have turn {u : State} {turned : List Chan} (c : Chan) (hu : Joined s turned u) (hc : c ∉ turned) :
      Joined s (turned ++ [c]) (restoredChannel c u) := hu.turn hf hc (restoredChannel_ignites c u (hu.ready hf hc))
  exact turn 3 (turn 2 (turn 1 (turn 0 h (by decide)) (by decide)) (by decide)) (by decide)

theorem joined_returnTaken {s : State} (hf : FuelSound s) : Joined s [0, 1, 2, 3] (returnTaken s) := by
  have raised : Joined s [] (returnRaised s) :=
    (Joined.refl hf).congr (by simp [returnRaised]) fun d => by rw [returnRaised_chan]; exact ⟨rfl, rfl, rfl⟩
  refine (joined_forChans_restored hf raised).congr (mapChans_igu resumeDriver _) fun d => ?_
  rw [returnTaken_resumed]
  exact ⟨rfl, rfl, rfl⟩

theorem ignitionFollows_reportMainsRestored (s : State) : IgnitionFollows s (reportMainsRestored s) := by
  have joined (hf : FuelSound s) : Joined s [0, 1, 2, 3] (reportMainsRestored s) :=
    (joined_returnTaken hf).settles (settles_recompute (returnTaken s))
  generalize reportMainsRestored s = t at joined ⊢
  exact Joined.ignitionFollows joined

/-- A driver started afresh is the same whether its checks resume before or after. -/
theorem afresh_suspended (k : ChanKind) (d : Driver) :
    { d.afresh k with suspended := false } = ({ d with suspended := false } : Driver).afresh k := by
  cases k <;> rfl

theorem returnReported (c : Chan) (s : State) : ReturnReported c s (reportMainsRestored s) := by
  have base := reportMainsRestored_mtb s
  have follow := ignitionFollows_reportMainsRestored s
  obtain ⟨ssv, rpu, line⟩ := returnTaken_station s
  obtain ⟨hcfg, -⟩ := (turns_forChans turns_restoredChannel (returnRaised s)).fixtures c
  obtain ⟨u, hu, hv⟩ := forChans_isolates (f := restoredChannel) (c := c)
    (fun d hd v => othersTurned_restoredChannel hd v) (returnRaised s)
  obtain ⟨⟨uchc, upgu, ucfg⟩, -⟩ := hu.channel
  obtain ⟨⟨vchc, vpgu, -⟩, -⟩ := hv.channel
  obtain ⟨hpgu, going, commanded, resumed, driver⟩ := restoredChannel_chan c u
  have udriver := hu.driver
  have vdriver := hv.driver
  rw [returnRaised_chan] at hcfg uchc upgu ucfg udriver
  have same : resumedState (u.chan c) = resumedState (s.chan c) := by
    rw [resumedState, resumedState, uchc, upgu, ucfg]
  rw [uchc] at going commanded resumed driver
  have taken := returnTaken_resumed s c
  obtain ⟨rcfg, rchc, rpgu, -, rdriver⟩ := resumeDriver_kept ((forChans restoredChannel (returnRaised s)).chan c)
  rw [← taken] at rcfg rchc rpgu rdriver
  generalize forChans restoredChannel (returnRaised s) = v at hcfg vchc vpgu vdriver rcfg rchc rpgu rdriver
  rw [reportMainsRestored_recompute] at base follow ⊢
  generalize returnTaken s = r at base follow ssv rpu line rcfg rchc rpgu rdriver
  obtain ⟨⟨tchc, tpgu, tcfg⟩, -⟩ := (settles_recompute r).channel c
  have chc : ((recompute r).chan c).chc = ((restoredChannel c u).chan c).chc := tchc.trans (rchc.trans vchc)
  have cfg : ((recompute r).chan c).cfg = (s.chan c).cfg := tcfg.trans (rcfg.trans hcfg)
  refine
    { mtb := base, ssv := (recompute_ssv r).trans ssv, rpu := (recompute_rpu r).trans rpu
      line := by simpa [KeepsLine] using line, cfg := cfg, pgu := tpgu.trans (rpgu.trans (vpgu.trans (hpgu.trans upgu)))
      going := fun h => chc.trans (going h), commanded := fun h hc => chc.trans (commanded h hc)
      resumed := fun h hc => chc.trans ((resumed h hc).trans (by rw [same])), afresh := fun h hr => ?_
      suspended := ?_, follows := follow }
  · have running : ((restoredChannel c u).chan c).chc.state = .running := by rwa [chc] at hr
    have started := vdriver.trans (driver h running)
    rw [udriver, ucfg] at started
    refine afresh_of_followCeiling (f := r.mtb.frequency) (e := { (s.chan c).driver with suspended := false })
      ⟨rfl, id⟩ hr ?_
    have start : ({ (s.chan c).driver with suspended := false } : Driver).afresh ((recompute r).chan c).cfg.kind =
        (r.chan c).driver := by rw [cfg, ← afresh_suspended, ← started, ← rdriver]
    rw [start]
    exact recompute_driver r c
  · rw [recompute_suspended, rdriver]

/-- Settles O25. -/
theorem mainsRestoredResumesTheStation : Obligations.MainsRestoredResumesTheStation := by
  intro s c level n hs hk hsign hrun hm hr hn hsp
  have ten : nextReturnRun (crossed level s).mtb = 10 := by
    have correct : returnSpacing (crossed level s).mtb.frequency (crossed level s).mtb.spacing = true :=
      (returnSpacing_tick s.mtb).mpr hsp
    have nine : (crossed level s).mtb.returnRun = 9 := hr
    rw [nextReturnRun, correct, nine]
    rfl
  have row := exec_mainsRestored hs hk hsign hrun hm ten
  have timer : (crossed level s).mtb.rideTimer = some (n + 1) := by
    show s.mtb.rideTimer.map (· + 1) = _
    rw [hn]
    rfl
  have reported := returnReported c (crossed level s)
  rw [takeSample_mainsRestored [] [] hk hsign hrun hm ten] at row
  generalize reportMainsRestored (crossed level s) = t at row reported
  have rpu := reported.rpu
  rw [timer] at rpu
  refine ⟨_, row, ?_, ?_, ?_, fun hst => ?_, fun hst => ?_, rpu.trans ?_, reported.going, reported.commanded,
    reported.resumed, reported.afresh, reported.follows, reported.pgu, reported.suspended, reported.cfg, reported.line⟩
  · exact (congrArg Mtb.mode reported.mtb :)
  · exact (congrArg Mtb.rideTimer reported.mtb :)
  · exact (congrArg Mtb.missingTimer reported.mtb :)
  · have back : t.ssv = { s.ssv with station := s.ssv.prior.getD .rideThrough, prior := none } :=
      reported.ssv.trans (if_pos hst)
    exact ⟨(congrArg Ssv.station back :), (congrArg Ssv.prior back :)⟩
  · have stays : t.ssv = s.ssv := reported.ssv.trans (if_neg fun h => by
      have h : s.ssv.station = .rideThrough := h
      rw [hst] at h
      exact nomatch h)
    exact (congrArg Ssv.station stays :).trans hst
  · rw [raise_eq, raise_eq]; rfl

end Sys2Proof.Machine
end

section
/-! Settles O26: the mains failed report. -/

namespace Sys2Proof.Machine

/-! ### The programs end -/

/-- What the queue holds stays at its front (R193, R194). -/
theorem Rpu.prefix_notingAll (r : Rpu) (es : List EventRecord) : r.events <+: (r.notingAll es).events := by
  induction es generalizing r with
  | nil => exact List.prefix_refl _
  | cons e es ih =>
    have one : r.events <+: (r.noting e).events := by
      unfold Rpu.noting
      split
      · exact List.prefix_append _ _
      · exact List.prefix_refl _
    exact one.trans (ih _)

/-- The PROGRAM_END records of the programs that a mains failure ends, in rising order. -/
def failRecords (s : State) : List EventRecord :=
  (([0, 1, 2, 3] : List Chan).filter fun x => (s.chan x).chc.state.hasProgram).map fun x =>
    { kind := .programEnd, channel := some x, slot := (s.chan x).pgu.current, parameter := 4 }

theorem length_failRecords (s : State) : (failRecords s).length ≤ 4 := by
  unfold failRecords
  rw [List.length_map]
  exact List.length_filter_le _ _

theorem mem_channels : ∀ c : Chan, c ∈ ([0, 1, 2, 3] : List Chan) := by decide

theorem mem_failRecords {s : State} {c : Chan} (hp : (s.chan c).chc.state.hasProgram = true) :
    { kind := .programEnd, channel := some c, slot := (s.chan c).pgu.current, parameter := 4 } ∈ failRecords s :=
  List.mem_map.mpr ⟨c, List.mem_filter.mpr ⟨mem_channels c, hp⟩, rfl⟩

/-- The turns of all channels, with the report unit set aside. -/
def programsEnded (s : State) : State := forChans (fun c => endIfProgram c .mains) (setAside s)

theorem programsEnded_rpu (s : State) : (programsEnded s).rpu = { events := failRecords s, lost := false } := by
  have same (c : Chan) : (setAside s).chan c = s.chan c := rfl
  have few := length_endRecords .mains (setAside s)
  rw [programsEnded, forChans_endIfProgram_rpu,
    Rpu.notingAll_of_room (by rw [show (setAside s).rpu.events = [] from rfl, List.length_nil]; omega), flatMap_endRecords]
  simp only [same]
  rfl

theorem failPrograms_eq (order : List Chan) (s : State) :
    failPrograms order s = reporting (s.rpu.notingAll (inTurn order (failRecords s))) (programsEnded s) := by
  unfold failPrograms raiseInTurn
  rw [show forChans (fun c => endIfProgram c .mains) (setAside s) = programsEnded s from rfl, foldl_raise_eq,
    programsEnded_rpu]
  rfl

/-- A channel whose program a mains failure has ended (R13, R33). -/
theorem programsEnded_chan (s : State) (c : Chan) :
    ((programsEnded s).chan c).cfg = (s.chan c).cfg ∧
    ((s.chan c).chc.state.hasProgram = true →
      ((programsEnded s).chan c).chc = { state := .idle, causes := ⟨false, false⟩, target := none, endCause := .mains } ∧
      ((programsEnded s).chan c).pgu = (s.chan c).pgu.ended ∧ ((programsEnded s).chan c).valve = 0) ∧
    ((s.chan c).chc.state.hasProgram = false → KeepsProgram c s (programsEnded s)) := by
  obtain ⟨u, hu, hv⟩ := forChans_around .mains c (setAside s)
  have same : (setAside s).chan c = s.chan c := rfl
  obtain ⟨⟨uchc, upgu, ucfg⟩, -⟩ := hu.channel
  obtain ⟨⟨vchc, vpgu, vcfg⟩, vvalve, -⟩ := hv.channel
  have turned := ((silentTurn_endIfProgram c .mains u).fixtures c).1
  rw [same] at uchc upgu ucfg
  refine ⟨vcfg.trans (turned.trans ucfg), fun hp => ?_, fun hp => ?_⟩
  · have ends : endIfProgram c .mains u = endProgram c .mains .idle u := if_pos (by rw [uchc]; exact hp)
    obtain ⟨chc, pgu, -, valve, -⟩ := endProgram_self c .mains .idle u
    rw [ends] at vchc vpgu vvalve
    exact ⟨vchc.trans chc, vpgu.trans (pgu.trans (congrArg Pgu.ended upgu)), vvalve.trans valve⟩
  · have stays : endIfProgram c .mains u = u := if_neg (by rw [uchc, hp]; decide)
    rw [stays] at vchc vpgu vcfg
    exact ⟨vchc.trans uchc, vpgu.trans upgu, vcfg.trans ucfg⟩

theorem programsEnded_station (s : State) :
    (programsEnded s).ssv = s.ssv ∧ (programsEnded s).gib = s.gib ∧ KeepsLine s (programsEnded s) := by
  obtain ⟨r, turns⟩ := forChans_endIfProgram_station .mains (setAside s)
  have station := turns.station
  unfold programsEnded
  generalize forChans (fun c => endIfProgram c .mains) (setAside s) = t at station
  exact ⟨(congrArg State.ssv station :), (congrArg State.gib station :), (congrArg State.lif station :),
    (congrArg State.configOpen station :), (congrArg State.stationConfigured station :),
    (congrArg State.lastStarted station :), (congrArg State.pending station :)⟩

/-! ### The station -/

/-- The supervisor after a mains failure (R13, R15). -/
def Ssv.mainsFailed (v : Ssv) : Ssv :=
  { (if v.station = .safe then v else { v with station := .mainsWait, listenCount := 0, prior := none }) with
    powerFail := true }

/-- The station with the failure noted, before the recomputation. -/
def failNoted (s : State) : State :=
  let s2 := if s.ssv.station = .safe then s else enterMainsWait s
  clearFilters (emptyPeers { s2 with ssv := { s2.ssv with powerFail := true } })

theorem failStation_eq (s : State) : failStation s = clearHolds (recompute (failNoted s)) := rfl

theorem failNoted_station (s : State) :
    (failNoted s).ssv = s.ssv.mainsFailed ∧ (failNoted s).gib = (clearFilters s).gib ∧ (failNoted s).rpu = s.rpu ∧
    (failNoted s).apu.peers = List.replicate 16 none ∧ (∀ c, (failNoted s).chan c = s.chan c) ∧
    KeepsLine s (failNoted s) ∧
    (s.ssv.station ≠ .safe →
      (failNoted s).apu.request = false ∧ (failNoted s).apu.interval = 0 ∧ (failNoted s).apu.ownSendAge = 0) := by
  unfold failNoted Ssv.mainsFailed
  by_cases hsafe : s.ssv.station = .safe
  · rw [if_pos hsafe, if_pos hsafe]
    exact ⟨rfl, rfl, rfl, rfl, fun _ => rfl, ⟨rfl, rfl, rfl, rfl, rfl⟩, fun h => absurd hsafe h⟩
  · rw [if_neg hsafe, if_neg hsafe]
    exact ⟨rfl, rfl, rfl, rfl, fun _ => rfl, ⟨rfl, rfl, rfl, rfl, rfl⟩, fun _ => ⟨rfl, rfl, rfl⟩⟩

/-- The station after a mains failure, its programs ended before. -/
theorem failStation_station (s : State) :
    (failStation s).ssv = s.ssv.mainsFailed ∧ (failStation s).gib = (clearFilters s).gib ∧
    (failStation s).rpu = s.rpu ∧ (failStation s).apu.peers = List.replicate 16 none ∧
    KeepsLine s (failStation s) ∧
    (s.ssv.station ≠ .safe →
      (failStation s).apu.request = false ∧ (failStation s).apu.interval = 0 ∧ (failStation s).apu.ownSendAge = 0) ∧
    ∀ c, KeepsProgram c s (failStation s) ∧ ((failStation s).chan c).valve = (s.chan c).valve ∧
      ((failStation s).chan c).claim.stage = .clear ∧
      ((failStation s).chan c).claim.settled = ((failStation s).chan c).claim.announced := by
  obtain ⟨ssv, gib, rpu, peers, chan, line, outside⟩ := failNoted_station s
  rw [failStation_eq]
  generalize failNoted s = u at ssv gib rpu peers chan line outside
  have settled := settles_recompute u
  have request : (recompute u).apu.request = true ↔ _ := recompute_request_iff u
  have waits (h : s.ssv.station ≠ .safe) : u.ssv.station = .mainsWait := by
    rw [ssv, Ssv.mainsFailed, if_neg h]
  refine ⟨?_, ?_, ?_, ?_, ?_, fun h => ?_, fun c => ?_⟩
  · exact (recompute_ssv u).trans ssv
  · exact (recompute_gib u).trans gib
  · exact (recompute_rpu u).trans rpu
  · exact (recompute_apu_peers u).trans peers
  · obtain ⟨lif, configOpen, stationConfigured, lastStarted, pending⟩ := line
    exact ⟨(recompute_lif u).trans lif, (recompute_configOpen u).trans configOpen,
      (recompute_stationConfigured u).trans stationConfigured, (recompute_lastStarted u).trans lastStarted,
      (recompute_pending u).trans pending⟩
  · obtain ⟨none, interval, age⟩ := outside h
    refine ⟨?_, (recompute_apu_interval u).trans interval, (recompute_apu_ownSendAge u).trans age⟩
    show (recompute u).apu.request = false
    rw [Bool.eq_false_iff]
    intro hr
    obtain hr | ⟨hw, -⟩ := request.mp hr
    · rw [none] at hr; exact Bool.false_ne_true hr
    · exact hw (waits h)
  · have cleared : (clearHolds (recompute u)).chan c =
        { (recompute u).chan c with
          claim := { ((recompute u).chan c).claim with
            stage := .clear, carried := false, count := 0, settled := ((recompute u).chan c).claim.announced } } := by
      simp [clearHolds, State.chan]
    obtain ⟨⟨chc, pgu, cfg⟩, valve, -⟩ := settled.channel c
    rw [KeepsProgram, cleared, ← chan c]
    exact ⟨⟨chc, pgu, cfg⟩, valve, rfl, rfl⟩

/-- Settles O26. -/
theorem mainsFailedEndsPrograms : Obligations.MainsFailedEndsPrograms := by
  intro s c n order hs hk hm hn hover
  have timer : s.mtb.tick.rideTimer = some (n + 1) := by rw [Mtb.tick, hn]; rfl
  have row := exec_mainsFailed order hs hk ((rideExpired_iff _).mpr ⟨hm, n + 1, timer, hover⟩)
  have base := reportMainsFailed_mtb order { s with mtb := s.mtb.tick }
  have programs := failPrograms_eq order { s with mtb := s.mtb.tick.mainsFailed }
  obtain ⟨pcfg, ended, kept⟩ := programsEnded_chan { s with mtb := s.mtb.tick.mainsFailed } c
  obtain ⟨pssv, pgib, pline⟩ := programsEnded_station { s with mtb := s.mtb.tick.mainsFailed }
  obtain ⟨ssv, gib, rpu, peers, line, outside, chan⟩ :=
    failStation_station (failPrograms order { s with mtb := s.mtb.tick.mainsFailed })
  rw [reportMainsFailed_eq] at row base
  generalize failStation (failPrograms order { s with mtb := s.mtb.tick.mainsFailed }) = t at *
  rw [programs] at ssv gib rpu line outside chan
  generalize programsEnded { s with mtb := s.mtb.tick.mainsFailed } = p at *
  have records : t.rpu = s.rpu.notingAll (inTurn order (failRecords s)) := rpu
  have ssv : t.ssv = s.ssv.mainsFailed := ssv.trans (congrArg Ssv.mainsFailed pssv)
  have joined (room : s.rpu.events.length + 4 ≤ 8) : t.rpu.events = s.rpu.events ++ inTurn order (failRecords s) := by
    have few := length_failRecords s
    rw [records, Rpu.notingAll_of_room (by rw [(inTurn_perm order _).length_eq]; omega)]
  obtain ⟨⟨tchc, tpgu, tcfg⟩, tvalve, stage, settled⟩ := chan c
  obtain ⟨lif, configOpen, stationConfigured, lastStarted, pending⟩ := line
  obtain ⟨plif, pconfigOpen, pstationConfigured, plastStarted, ppending⟩ := pline
  refine ⟨_, row, ?_, ?_, ?_, ?_, ?_, ?_, fun hst => ?_, gib.trans ?_, fun hst => ?_, ?_, fun q => ?_, fun hp => ?_,
    fun hp => ?_, ?_, joined, stage, settled, tcfg.trans pcfg, lif.trans plif, configOpen.trans pconfigOpen,
    stationConfigured.trans pstationConfigured, lastStarted.trans plastStarted, pending.trans ppending⟩
  · exact (congrArg Mtb.mode base :)
  · exact (congrArg Mtb.frequency base :)
  · exact (congrArg Mtb.rideTimer base :)
  · exact (congrArg Mtb.windowCount base :)
  · exact (congrArg Mtb.windowSum base :)
  · exact (congrArg Mtb.prescaler base :)
  · obtain ⟨request, interval, age⟩ := outside fun h => hst ((congrArg Ssv.station pssv).symm.trans h)
    rw [Ssv.mainsFailed, if_neg hst] at ssv
    exact ⟨(congrArg Ssv.station ssv :), request, (congrArg Ssv.listenCount ssv :), (congrArg Ssv.prior ssv :), interval,
      age⟩
  · have same : p.gib = s.gib := pgib
    exact congrArg (fun g : Gib =>
      ({ g with gates := .ofFn fun k => { g.gates.get k with run := 0 }, mrOn := 0, mrOff := 0 } : Gib)) same
  · rw [Ssv.mainsFailed, if_pos hst] at ssv
    exact (congrArg Ssv.station ssv :).trans hst
  · exact (congrArg Ssv.powerFail ssv :)
  · rw [show ({ t with clockTaken := true, eventsNew := s.rpu.events.isEmpty } : State).apu.peers =
      List.replicate 16 none from peers, List.getElem?_replicate]
    split <;> rfl
  · obtain ⟨chc, pgu, valve⟩ := ended hp
    refine ⟨tchc.trans chc, tpgu.trans pgu, tvalve.trans valve, fun room => ?_⟩
    rw [joined room]
    exact List.mem_append_right _ ((inTurn_perm order _).mem_iff.mpr (mem_failRecords hp))
  · obtain ⟨chc, pgu, cfg⟩ := kept hp
    exact ⟨tchc.trans chc, tpgu.trans pgu, tcfg.trans cfg⟩
  · rw [records]
    exact Rpu.prefix_notingAll _ _

end Sys2Proof.Machine
end

section
/-! Settles O28 and O29: the interval event. -/

namespace Sys2Proof.Machine

/-! ### Rows that are one unit's share -/

/-- `s` with the note of an empty event queue set to `e` (log entry 19). -/
def noted (e : Bool) (s : State) : State := { s with eventsNew := e }

/-- The note of an empty event queue has no part in what comes after a share in its event. -/
theorem trail_noted (e : Bool) (rising : Bool) (u : HalfCycleUnit) (s : State) :
    trail rising u (noted e s) = noted e (trail rising u s) := by
  have same : ∀ t : State, noted e t = withClock t.mtb t.pins t.clockTaken t.sparkRead e t := fun _ => rfl
  have kept := keepsClock_trail s.mtb s.pins s.clockTaken s.sparkRead e rising u s fun _ => rfl
  have quiet : trail rising u s =
      withClock s.mtb s.pins s.clockTaken s.sparkRead s.eventsNew (trail rising u s) :=
    keepsClock_trail s.mtb s.pins s.clockTaken s.sparkRead s.eventsNew rising u s fun _ => rfl
  rw [same s, kept]
  conv_rhs => rw [quiet]
  rfl

/-- The unit's share in `s`, with the note of an empty event queue. -/
def tookShare (rising : Bool) (u : HalfCycleUnit) (s : State) : State :=
  noted s.rpu.events.isEmpty (deliverOne rising u s)

theorem tookShare_eq {rising : Bool} {u : HalfCycleUnit} {s : State} (h : u ∉ s.taken) :
    tookShare rising u s =
      { unitShare rising u s with
        taken := u :: (begun s (unitShare rising u s) ++ s.taken), eventsNew := s.rpu.events.isEmpty } := by
  rw [tookShare, deliverOne_untaken _ _ _ h]
  rfl

theorem mayTake_of_shares {u : HalfCycleUnit} {s : State} (h : Shares u s) : mayTake u s = true := by
  obtain ⟨-, hm, -, hu⟩ := h
  exact mayTake_iff.2 ⟨hm, hu⟩

/-- A row that is one unit's share, where nothing leads it and it is due. -/
theorem live_takeShare {u : HalfCycleUnit} {due : State → Bool} {s : State} (h : Shares u s) (hlead : earlierShares u = [])
    (hdue : due s = true) :
    live (takeShare u due) s = .next (trail (comingRising s) u (tookShare (comingRising s) u s)) := by
  have lead : lead (comingRising s) u s = s := lead_of_taken _ _ _ (by simp [hlead])
  obtain ⟨-, -, taken⟩ | ⟨off, -⟩ := takeShare_cases u due s s lead.symm
  · rw [live_powered _ _ h.1, taken, tookShare, trail_noted]
    rfl
  · rw [mayTake_of_shares h, hdue] at off
    exact absurd off (by decide)

/-! ### What the apportionment unit leaves alone -/

/-- Nothing but the apportionment unit, the supervisor and the element drivers has moved. -/
structure Apportioned (s t : State) : Prop where
  channel : ∀ d, KeepsChannel d s t
  line : KeepsLine s t
  rpu : t.rpu = s.rpu
  igu : t.igu = s.igu
  mtb : t.mtb = s.mtb
  gib : t.gib = s.gib

theorem Apportioned.programs {s t : State} (h : Apportioned s t) : KeepsPrograms s t := fun d => (h.channel d).1

theorem Apportioned.refl (s : State) : Apportioned s s :=
  ⟨fun _ => ⟨⟨rfl, rfl, rfl⟩, rfl, rfl, rfl, rfl⟩, ⟨rfl, rfl, rfl, rfl, rfl⟩, rfl, rfl, rfl, rfl⟩

theorem KeepsLine.trans {s t u : State} (h : KeepsLine s t) (k : KeepsLine t u) : KeepsLine s u := by
  obtain ⟨h1, h2, h3, h4, h5⟩ := h
  obtain ⟨k1, k2, k3, k4, k5⟩ := k
  exact ⟨k1.trans h1, k2.trans h2, k3.trans h3, k4.trans h4, k5.trans h5⟩

theorem Apportioned.trans {s t u : State} (h : Apportioned s t) (k : Apportioned t u) : Apportioned s u :=
  ⟨fun d => (h.channel d).trans (k.channel d), h.line.trans k.line, k.rpu.trans h.rpu, k.igu.trans h.igu,
    k.mtb.trans h.mtb, k.gib.trans h.gib⟩

theorem apportioned_recompute (s : State) : Apportioned s (recompute s) where
  channel := (settles_recompute s).channel
  line := by simp [KeepsLine]
  rpu := by simp
  igu := by simp
  mtb := by simp
  gib := by simp

theorem apportioned_of_eq (s : State) (a : Apu) (v : Ssv) : Apportioned s { s with apu := a, ssv := v } :=
  ⟨fun _ => ⟨⟨rfl, rfl, rfl⟩, rfl, rfl, rfl, rfl⟩, ⟨rfl, rfl, rfl, rfl, rfl⟩, rfl, rfl, rfl, rfl⟩

theorem apportioned_makeRequest (s : State) : Apportioned s (makeRequest s) := by
  unfold makeRequest
  split
  · exact .refl s
  · exact apportioned_of_eq s _ s.ssv

/-- The counts of the apportionment unit stay, and a request that stands is not withdrawn. -/
structure KeepsCounts (s t : State) : Prop where
  peers : t.apu.peers = s.apu.peers
  interval : t.apu.interval = s.apu.interval
  ownSendAge : t.apu.ownSendAge = s.apu.ownSendAge
  request : s.apu.request = true → t.apu.request = true

theorem KeepsCounts.trans {s t u : State} (h : KeepsCounts s t) (k : KeepsCounts t u) : KeepsCounts s u :=
  ⟨k.peers.trans h.peers, k.interval.trans h.interval, k.ownSendAge.trans h.ownSendAge, fun r => k.request (h.request r)⟩

theorem KeepsCounts.refl (s : State) : KeepsCounts s s := ⟨rfl, rfl, rfl, id⟩

theorem keepsCounts_recompute (s : State) : KeepsCounts s (recompute s) :=
  ⟨recompute_apu_peers s, recompute_apu_interval s, recompute_apu_ownSendAge s,
    fun h => (recompute_request_iff s).2 (.inl h)⟩

theorem keepsCounts_of_apu {s t : State} (h : t.apu = s.apu) : KeepsCounts s t :=
  ⟨by rw [h], by rw [h], by rw [h], fun r => by rwa [h]⟩

theorem keepsCounts_recompute_of {s t : State} (h : t.apu = s.apu) : KeepsCounts s (recompute t) :=
  (keepsCounts_of_apu h).trans (keepsCounts_recompute t)

theorem keepsCounts_makeRequest (s : State) : KeepsCounts s (makeRequest s) := by
  refine ⟨?_, ?_, ?_, fun h => (makeRequest_request_iff s).2 (.inl h)⟩ <;> unfold makeRequest <;> split <;> rfl

/-! ### The parts of the interval event -/

theorem agePeers_eq (s : State) :
    agePeers s = { s with apu := { s.apu with peers := s.apu.peers.map agedRow } } ∨
    agePeers s = recompute { s with apu := { s.apu with peers := s.apu.peers.map agedRow } } := by
  unfold agePeers
  dsimp only
  split
  · exact .inr rfl
  · exact .inl rfl

theorem agePeers_moves (s : State) :
    Apportioned s (agePeers s) ∧ (agePeers s).ssv = s.ssv ∧
    KeepsCounts { s with apu := { s.apu with peers := s.apu.peers.map agedRow } } (agePeers s) := by
  have aged := apportioned_of_eq s { s.apu with peers := s.apu.peers.map agedRow } s.ssv
  obtain h | h := agePeers_eq s <;> rw [h]
  · exact ⟨aged, rfl, .refl _⟩
  · exact ⟨aged.trans (apportioned_recompute _), recompute_ssv _, keepsCounts_recompute _⟩

theorem ageOwnSend_moves (s : State) :
    Apportioned s (ageOwnSend s) ∧ (ageOwnSend s).ssv = s.ssv ∧
    KeepsCounts { s with apu := { s.apu with ownSendAge := min 2 (s.apu.ownSendAge + 1) } } (ageOwnSend s) := by
  have aged := apportioned_of_eq s { s.apu with ownSendAge := min 2 (s.apu.ownSendAge + 1) } s.ssv
  unfold ageOwnSend
  dsimp only
  split
  · exact ⟨aged.trans (apportioned_recompute _), recompute_ssv _, keepsCounts_recompute _⟩
  · exact ⟨aged, rfl, .refl _⟩

/-- LISTEN after an interval event (R10). -/
def Ssv.listened (v : Ssv) : Ssv :=
  if v.station = .listen then
    if v.listenCount + 1 < 3 then { v with listenCount := v.listenCount + 1 }
    else { v with listenCount := 3, station := .active }
  else v

theorem countListen_moves (s : State) :
    Apportioned s (countListen s) ∧ (countListen s).ssv = s.ssv.listened ∧ KeepsCounts s (countListen s) := by
  unfold countListen Ssv.listened
  split_ifs
  · exact ⟨apportioned_of_eq s s.apu _, rfl, keepsCounts_of_apu rfl⟩
  · exact ⟨(apportioned_of_eq s s.apu _).trans (apportioned_recompute _), recompute_ssv _,
      keepsCounts_recompute_of (by rfl)⟩
  · exact ⟨.refl s, rfl, .refl s⟩

/-- The interval event up to its count of LISTEN: the ages, and the request. -/
def agesTaken (s : State) : State := makeRequest (ageOwnSend (agePeers s))

theorem agesTaken_moves (s : State) :
    Apportioned s (agesTaken s) ∧ (agesTaken s).ssv = s.ssv ∧ (agesTaken s).apu.peers = s.apu.peers.map agedRow ∧
    (agesTaken s).apu.interval = s.apu.interval ∧
    (agesTaken s).apu.ownSendAge = min 2 (s.apu.ownSendAge + 1) ∧
    (s.ssv.station ≠ .mainsWait → (agesTaken s).apu.request = true) := by
  obtain ⟨first, ssv1, counts1⟩ := agePeers_moves s
  obtain ⟨second, ssv2, counts2⟩ := ageOwnSend_moves (agePeers s)
  have third := apportioned_makeRequest (ageOwnSend (agePeers s))
  have counts3 := keepsCounts_makeRequest (ageOwnSend (agePeers s))
  have ssv : (ageOwnSend (agePeers s)).ssv = s.ssv := ssv2.trans ssv1
  refine ⟨first.trans (second.trans third), (makeRequest_ssv _).trans ssv, ?_, ?_, ?_, fun h => ?_⟩
  · exact counts3.peers.trans (counts2.peers.trans counts1.peers)
  · exact counts3.interval.trans (counts2.interval.trans counts1.interval)
  · refine counts3.ownSendAge.trans (counts2.ownSendAge.trans ?_)
    show min 2 ((agePeers s).apu.ownSendAge + 1) = _
    rw [counts1.ownSendAge]
  · exact (makeRequest_request_iff _).2 (.inr (by rwa [ssv]))

/-- What the interval event does (R79). -/
structure IntervalTaken (s t : State) : Prop where
  apportioned : Apportioned s t
  interval : t.apu.interval = 0
  peers : t.apu.peers = s.apu.peers.map agedRow
  ownSendAge : t.apu.ownSendAge = min 2 (s.apu.ownSendAge + 1)
  request : s.ssv.station ≠ .mainsWait → t.apu.request = true
  ssv : t.ssv = { s.ssv.listened with clashQuiet := min 4 (s.ssv.clashQuiet + 1) }

theorem listened_clashQuiet (v : Ssv) : v.listened.clashQuiet = v.clashQuiet := by
  unfold Ssv.listened
  split_ifs <;> rfl

theorem intervalShare_taken {s : State} (h : s.apu.interval = 49) : IntervalTaken s (intervalShare s) := by
  have start := apportioned_of_eq s { s.apu with interval := 0 } s.ssv
  obtain ⟨ages, ssv1, peers, interval, age, request⟩ := agesTaken_moves { s with apu := { s.apu with interval := 0 } }
  obtain ⟨listen, ssv2, counts⟩ := countListen_moves (agesTaken { s with apu := { s.apu with interval := 0 } })
  have share : intervalShare s =
      countClashQuiet (countListen (agesTaken { s with apu := { s.apu with interval := 0 } })) := by
    rw [intervalShare, if_neg (by rw [h]; decide)]
    rfl
  rw [share]
  generalize agesTaken { s with apu := { s.apu with interval := 0 } } = u at *
  generalize countListen u = v at *
  have quiet := apportioned_of_eq v v.apu { v.ssv with clashQuiet := min 4 (v.ssv.clashQuiet + 1) }
  refine ⟨start.trans (ages.trans (listen.trans quiet)), counts.interval.trans interval, counts.peers.trans peers,
    counts.ownSendAge.trans age, fun hst => counts.request (request hst), ?_⟩
  show { v.ssv with clashQuiet := min 4 (v.ssv.clashQuiet + 1) } = _
  rw [ssv2, ssv1, listened_clashQuiet]

/-! ### The holds after it -/

/-- What the holds leave alone of an interval event. -/
structure HoldsCounted (s t : State) : Prop where
  apportioned : Apportioned s t
  counts : KeepsCounts s t
  ssv : t.ssv = s.ssv
  barred : ceilingsBarred s = true → ∀ c, (s.chan c).claim.ceiling = 0 → (t.chan c).claim.ceiling = 0

theorem HoldsCounted.refl (s : State) : HoldsCounted s s := ⟨.refl s, .refl s, rfl, fun _ _ h => h⟩

theorem ceilingsBarred_congr {s t : State} (hssv : t.ssv = s.ssv) (hage : t.apu.ownSendAge = s.apu.ownSendAge) :
    ceilingsBarred t = ceilingsBarred s := by
  rw [ceilingsBarred, ceilingsBarred, starved, starved, hssv, hage]

theorem HoldsCounted.trans {s t u : State} (h : HoldsCounted s t) (k : HoldsCounted t u) : HoldsCounted s u :=
  ⟨h.apportioned.trans k.apportioned, h.counts.trans k.counts, k.ssv.trans h.ssv, fun hb c hc =>
    k.barred (by rwa [ceilingsBarred_congr h.ssv h.counts.ownSendAge]) c (h.barred hb c hc)⟩

theorem apportioned_claim (c : Chan) (f : Channel → Claim) (s : State) :
    Apportioned s (s.mapChan c fun ch => { ch with claim := f ch }) where
  channel d := by
    by_cases hd : d = c
    · subst hd
      simp [KeepsChannel, KeepsProgram]
    · simp [KeepsChannel, KeepsProgram, hd]
  line := ⟨rfl, rfl, rfl, rfl, rfl⟩
  rpu := rfl
  igu := rfl
  mtb := rfl
  gib := rfl

theorem holdShare_counted (c : Chan) (s : State) : HoldsCounted s (holdShare c s) := by
  unfold holdShare clearHold
  split_ifs
  · refine ⟨apportioned_claim c _ s, keepsCounts_of_apu rfl, rfl, fun _ d hd => ?_⟩
    by_cases hdc : d = c
    · subst hdc
      rwa [State.chan_mapChan_self]
    · rwa [State.chan_mapChan_ne _ _ _ _ hdc]
  · have cleared := apportioned_claim c
      (fun ch => { ch.claim with stage := .clear, count := 0, settled := ch.claim.announced }) s
    exact ⟨cleared.trans (apportioned_recompute _), keepsCounts_recompute_of (by rfl), recompute_ssv _,
      fun hb d _ => recompute_ceiling_barred (by exact hb) d⟩
  · exact .refl s

theorem deliverOne_hold_counted (rising : Bool) (c : Chan) (s : State) :
    HoldsCounted s (deliverOne rising (.hold c) s) := by
  have share := holdShare_counted c s
  by_cases h : HalfCycleUnit.hold c ∈ s.taken
  · rw [deliverOne_taken _ _ _ h]
    exact .refl s
  · rw [deliverOne_untaken _ _ _ h]
    show HoldsCounted s { holdShare c s with taken := _ }
    generalize holdShare c s = t at share
    exact ⟨⟨share.apportioned.channel, share.apportioned.line, share.apportioned.rpu, share.apportioned.igu,
      share.apportioned.mtb, share.apportioned.gib⟩, ⟨share.counts.peers, share.counts.interval,
      share.counts.ownSendAge, share.counts.request⟩, share.ssv, share.barred⟩

/-- The holds that trail an interval event leave it alone (R77). -/
theorem trail_interval_counted (rising : Bool) (s : State) : HoldsCounted s (trail rising .interval s) := by
  have fold (cs : List Chan) (s : State) :
      HoldsCounted s ((cs.map HalfCycleUnit.hold).foldl (fun s v => deliverOne rising v s) s) := by
    induction cs generalizing s with
    | nil => exact .refl s
    | cons c cs ih => exact (deliverOne_hold_counted rising c s).trans (ih _)
  exact fold allChans s

/-! ### The obligations -/

theorem aged_row (ps : List (Option PeerRow)) (n : Nat) : ((ps.map agedRow)[n]?).join = agedRow (ps[n]?).join := by
  rw [List.getElem?_map]
  cases ps[n]? <;> rfl

theorem intervalDue_of_shares {s : State} (h : Shares .interval s) (hi : s.apu.interval = 49) : intervalDue s = true := by
  rw [intervalDue, mayTake_of_shares h, hi]
  rfl

/-- The share of the interval event in its row. -/
theorem tookShare_interval (rising : Bool) {s : State} (h : Shares .interval s) (hi : s.apu.interval = 49) :
    IntervalTaken s (tookShare rising .interval s) ∧
    ∀ c, ((tookShare rising .interval s).chan c) = (intervalShare s).chan c := by
  have taken := intervalShare_taken hi
  rw [tookShare_eq h.2.2.2]
  show IntervalTaken s { intervalShare s with taken := _, eventsNew := _ } ∧ _
  refine ⟨?_, fun c => rfl⟩
  generalize intervalShare s = t at taken
  exact ⟨⟨taken.apportioned.channel, taken.apportioned.line, taken.apportioned.rpu, taken.apportioned.igu,
    taken.apportioned.mtb, taken.apportioned.gib⟩, taken.interval, taken.peers, taken.ownSendAge, taken.request, taken.ssv⟩

/-- Settles O28. -/
theorem intervalEventAgesAndRequests : Obligations.IntervalEventAgesAndRequests := by
  intro s p h hi hlen
  have row := live_takeShare (u := .interval) (due := intervalDue) h rfl (intervalDue_of_shares h hi)
  obtain ⟨took, -⟩ := tookShare_interval (comingRising s) h hi
  generalize tookShare (comingRising s) .interval s = t at row took
  have after := trail_interval_counted (comingRising s) t
  refine ⟨t, row, ⟨after.counts.peers, after.counts.interval, after.counts.ownSendAge, after.counts.request, after.ssv,
    after.apportioned.programs, after.apportioned.line, after.apportioned.rpu, after.apportioned.igu⟩, took.interval, ?_,
    took.ownSendAge, took.request, ?_, ?_, fun hst hl => ?_, took.apportioned.programs, took.apportioned.line,
    took.apportioned.rpu, took.apportioned.igu, took.apportioned.mtb, took.apportioned.gib⟩
  · rw [took.peers, aged_row]
    cases (s.apu.peers[p.toNat]?).join <;> rfl
  · exact (congrArg Ssv.clashQuiet took.ssv :)
  · have station : t.ssv.station = s.ssv.listened.station := (congrArg Ssv.station took.ssv :)
    rw [station, Ssv.listened]
    by_cases hst : s.ssv.station = .listen
    · rw [if_pos hst]
      by_cases hl : s.ssv.listenCount + 1 < 3
      · rw [if_pos hl, if_neg (by omega)]
      · rw [if_neg hl, if_pos ⟨hst, by omega⟩]
    · rw [if_neg hst, if_neg fun h => hst h.1]
  · have count : t.ssv.listenCount = s.ssv.listened.listenCount := (congrArg Ssv.listenCount took.ssv :)
    rw [count, Ssv.listened, if_pos hst, if_pos (by omega)]

/-- A row that is the interval event where it has a further outcome. -/
theorem live_interval {s : State} {due : State → Bool} (h : Shares .interval s) (hi : s.apu.interval = 49)
    (hdue : due s = true) :
    live (takeShare .interval fun s => intervalDue s && due s) s = exec .intervalEvent s ∧
    exec .intervalEvent s =
      .next (trail (comingRising s) .interval (tookShare (comingRising s) .interval s)) := by
  have row := live_takeShare (u := .interval) (due := intervalDue) h rfl (intervalDue_of_shares h hi)
  refine ⟨(live_takeShare h rfl ?_).trans row.symm, row⟩
  rw [intervalDue_of_shares h hi, hdue]
  rfl

theorem recompute_target (s : State) (c : Chan) :
    ((recompute s).chan c).claim.target = targetLevel s.ssv.station (s.chan c) := by
  obtain ⟨grant, hclaim⟩ := recompute_claim s c
  rw [hclaim]
  show (declareDemand s.ssv.station (s.chan c)).1.claim.target = _
  unfold declareDemand demandChange
  dsimp only
  split_ifs <;> rfl

/-- The third interval event of LISTEN works the targets out for ACTIVE (R10, R69). -/
theorem intervalShare_target {s : State} (hi : s.apu.interval = 49) (hst : s.ssv.station = .listen)
    (hl : s.ssv.listenCount = 2) (c : Chan) :
    ((intervalShare s).chan c).claim.target = targetLevel .active (s.chan c) := by
  have start := apportioned_of_eq s { s.apu with interval := 0 } s.ssv
  obtain ⟨ages, ssv, -⟩ := agesTaken_moves { s with apu := { s.apu with interval := 0 } }
  have share : intervalShare s =
      countClashQuiet (countListen (agesTaken { s with apu := { s.apu with interval := 0 } })) := by
    rw [intervalShare, if_neg (by rw [hi]; decide)]
    rfl
  obtain ⟨⟨chc, pgu, cfg⟩, -, gated, -⟩ := (start.trans ages).channel c
  rw [share]
  generalize agesTaken { s with apu := { s.apu with interval := 0 } } = u at *
  have station : u.ssv.station = .listen := (congrArg Ssv.station ssv).trans hst
  have count : u.ssv.listenCount = 2 := (congrArg Ssv.listenCount ssv).trans hl
  have active : countListen u = becomeActive u := by
    rw [countListen, if_pos station, if_neg (by omega)]
  show ((countListen u).chan c).claim.target = _
  rw [active, becomeActive, recompute_target]
  show targetLevel .active (u.chan c) = _
  rw [targetLevel, targetLevel, chc, pgu, cfg, gated]

/-- Where starvation begins with an interval event, no ceiling is left above 0 (R81, R89). -/
theorem intervalShare_starves {s : State} (hi : s.apu.interval = 49) (ha : s.apu.ownSendAge = 1) (c : Chan) :
    ((intervalShare s).chan c).claim.ceiling = 0 := by
  have share : intervalShare s = countClashQuiet (countListen (makeRequest (ageOwnSend (agePeers
      { s with apu := { s.apu with interval := 0 } })))) := by
    rw [intervalShare, if_neg (by rw [hi]; decide)]
    rfl
  obtain ⟨-, -, counts1⟩ := agePeers_moves { s with apu := { s.apu with interval := 0 } }
  rw [share]
  generalize agePeers { s with apu := { s.apu with interval := 0 } } = u at *
  have age : u.apu.ownSendAge = 1 := counts1.ownSendAge.trans ha
  have begins : ageOwnSend u = recompute { u with apu := { u.apu with ownSendAge := 2 } } := by
    unfold ageOwnSend
    rw [if_pos age, age]
    rfl
  have starves {v : State} (h : v.apu.ownSendAge = 2) : ceilingsBarred v = true := by
    simp [ceilingsBarred, starved, h]
  have ended : ((makeRequest (ageOwnSend u)).chan c).claim.ceiling = 0 := by
    rw [makeRequest_chan, begins]
    exact recompute_ceiling_barred (starves rfl) c
  have old : (makeRequest (ageOwnSend u)).apu.ownSendAge = 2 := by
    rw [(keepsCounts_makeRequest _).ownSendAge, begins, recompute_apu_ownSendAge]
  generalize makeRequest (ageOwnSend u) = v at ended old
  show ((countListen v).chan c).claim.ceiling = 0
  unfold countListen becomeActive
  split_ifs
  · exact ended
  · exact recompute_ceiling_barred (starves (by exact old)) c
  · exact ended

/-- Settles O29. -/
theorem intervalThresholds : Obligations.IntervalThresholds := by
  intro s p r c h hi
  obtain ⟨took, chan⟩ := tookShare_interval (comingRising s) h hi
  have share := tookShare_interval (comingRising s) h hi
  refine ⟨fun hst hl => ?_, fun hlen hr hage => ?_, fun ha => ?_⟩
  · obtain ⟨same, row⟩ := live_interval (due := fun s => s.ssv.station == .listen && s.ssv.listenCount == 2) h hi
      (by simp [hst, hl])
    have target := chan c ▸ intervalShare_target hi hst hl c
    have station : exec .stationActive s = exec .intervalEvent s := by
      rw [← same]
      show live (takeShare .interval fun s => intervalDue s && s.ssv.station == .listen && s.ssv.listenCount == 2) s = _
      simp only [Bool.and_assoc]
    rw [station]
    generalize tookShare (comingRising s) .interval s = t at took row target
    have moved : t.ssv = { s.ssv with station := .active, listenCount := 3, clashQuiet := min 4 (s.ssv.clashQuiet + 1) } := by
      rw [took.ssv, Ssv.listened, if_pos hst, if_neg (by omega)]
    refine ⟨rfl, t, row, (congrArg Ssv.station moved :), (congrArg Ssv.listenCount moved :),
      (congrArg Ssv.clashQuiet moved :), ?_, took.apportioned.programs, took.apportioned.line, took.apportioned.rpu,
      took.apportioned.igu, took.apportioned.mtb⟩
    rw [target, targetLevel]
    simp only [and_true]
  · have expires : (fun s : State => rowExpires (s.apu.peers[p.toNat]?).join) s = true := by
      dsimp only
      rw [hr]
      exact decide_eq_true (by omega)
    obtain ⟨same, row⟩ := live_interval (due := fun s => rowExpires (s.apu.peers[p.toNat]?).join) h hi expires
    have station : exec (.peerRowRemoved p) s = exec .intervalEvent s := same
    rw [station]
    generalize tookShare (comingRising s) .interval s = t at took row
    have after := trail_interval_counted (comingRising s) t
    have peers := after.counts.peers.trans took.peers
    have moved := took.apportioned.trans after.apportioned
    refine ⟨rfl, _, row, peers, ?_, after.counts.interval.trans took.interval, moved.programs, moved.line, moved.rpu⟩
    rw [peers, aged_row, hr, agedRow]
    exact if_neg (by omega)
  · obtain ⟨same, row⟩ := live_interval (due := fun s => s.apu.ownSendAge == 1) h hi (by simp [ha])
    have station : exec .starvationBegin s = exec .intervalEvent s := same
    have ceiling := chan c ▸ intervalShare_starves hi ha c
    rw [station]
    generalize tookShare (comingRising s) .interval s = t at took row ceiling
    have after := trail_interval_counted (comingRising s) t
    have age : t.apu.ownSendAge = 2 := by rw [took.ownSendAge, ha]; rfl
    have barred : ceilingsBarred t = true := by simp [ceilingsBarred, starved, age]
    have moved := took.apportioned.trans after.apportioned
    have old := after.counts.ownSendAge.trans age
    exact ⟨rfl, _, row, old, by rw [starved, old]; rfl, after.barred barred c ceiling, moved.programs, moved.line,
      moved.rpu⟩

end Sys2Proof.Machine
end

section
/-! Settles O30: holds, the recomputation, and the driver that follows a ceiling. -/

namespace Sys2Proof.Machine

/-! ### A recomputation, item by item -/

/-- What a channel declares, item by item (R69 to R74). -/
theorem declareDemand_claim (station : StationState) (ch : Channel) :
    (declareDemand station ch).1.claim =
      { ch.claim with
        target := targetLevel station ch
        needed := neededDemand station ch
        announced := neededDemand station ch
        stage := if ch.claim.announced < neededDemand station ch then .pendingSend else ch.claim.stage
        carried := if ch.claim.announced < neededDemand station ch then false else ch.claim.carried
        count := if ch.claim.announced < neededDemand station ch then 0 else ch.claim.count
        settled :=
          if neededDemand station ch < ch.claim.announced then min ch.claim.settled (neededDemand station ch)
          else ch.claim.settled } := by
  unfold declareDemand demandChange
  dsimp only
  by_cases hlt : neededDemand station ch < ch.claim.announced
  · have hge : ¬ ch.claim.announced < neededDemand station ch := by omega
    simp only [if_pos hlt, if_neg hge]
  · by_cases hgt : ch.claim.announced < neededDemand station ch
    · simp only [if_neg hlt, if_pos hgt]
    · have heq : ch.claim.announced = neededDemand station ch := by omega
      simp [← heq]

theorem declareDemand_apart (station : StationState) (ch : Channel) :
    (declareDemand station ch).1 = { ch with claim := (declareDemand station ch).1.claim } := rfl

/-- A channel's record in the division is not moved by the division. -/
theorem ownRecord_settleChannel (f : Option Frequency) (barred : Bool) (a : Apu) (chans : Quad Channel) (ch : Channel) :
    ownRecord (settleChannel f barred a chans ch) = ownRecord ch ∧
    ownCircuit (settleChannel f barred a chans ch) = ownCircuit ch := by
  have uncontrolled : (settleChannel f barred a chans ch).driver.uncontrolled = ch.driver.uncontrolled := by
    rw [settleChannel, followCeiling_apart]
  refine ⟨?_, rfl⟩
  rw [ownRecord, ownRecord, ownClass, ownClass, uncontrolled]
  rfl

/-- The grant a channel keeps is the one its records give after the recomputation as within it (R86). -/
theorem recompute_grant (s : State) (c : Chan) :
    channelGrant (declareDemands s).apu (declareDemands s).chans ((declareDemands s).chan c) =
      channelGrant (recompute s).apu (recompute s).chans ((recompute s).chan c) := by
  have chan (d : Chan) : (recompute s).chans.get d =
      settleChannel (declareDemands s).mtb.frequency (ceilingsBarred (declareDemands s)) (declareDemands s).apu
        (declareDemands s).chans ((declareDemands s).chan d) := by
    simp [recompute]
  have record (d : Chan) : ownRecord ((recompute s).chans.get d) = ownRecord ((declareDemands s).chans.get d) := by
    rw [chan]
    exact (ownRecord_settleChannel _ _ _ _ _).1
  have circuit : ownCircuit ((recompute s).chan c) = ownCircuit ((declareDemands s).chan c) := by
    rw [State.chan, chan]
    exact (ownRecord_settleChannel _ _ _ _ _).2
  have announced : ((recompute s).chan c).claim.announced = ((declareDemands s).chan c).claim.announced :=
    congrArg DemandRecord.demand (record c)
  have records (C : Circuit) : circuitRecords C (recompute s).chans (declareDemands s).apu.peers =
      circuitRecords C (declareDemands s).chans (declareDemands s).apu.peers := by
    unfold circuitRecords
    simp only [record]
  have same : (recompute s).apu = (declareDemands s).apu := rfl
  have own : ownRecord ((recompute s).chan c) = ownRecord ((declareDemands s).chan c) := record c
  rw [channelGrant, channelGrant, announced, same, circuit, own, records]

theorem recompute_claim_grant (s : State) (c : Chan) :
    ((recompute s).chan c).claim =
      settleClaim (ceilingsBarred s) (channelGrant (recompute s).apu (recompute s).chans ((recompute s).chan c))
        (declareDemand s.ssv.station (s.chan c)).1 := by
  rw [← recompute_grant, ← declareDemands_chan, ← ceilingsBarred_declareDemands]
  simp [recompute, State.chan, settleChannel]

theorem ceilingsBarred_iff (s : State) :
    ceilingsBarred s = true ↔ s.ssv.station ≠ .active ∨ s.apu.ownSendAge = 2 ∨ s.ssv.clash = true := by
  simp [ceilingsBarred, starved, or_assoc]

/-- With no raise a recomputation leaves the apportionment unit as it is (R74). -/
theorem recompute_apu_quiet {s : State} (h : ∀ d, neededDemand s.ssv.station (s.chan d) ≤ (s.chan d).claim.announced) :
    (recompute s).apu = s.apu := by
  show (declareDemands s).apu = s.apu
  unfold declareDemands
  dsimp only
  rw [if_neg]
  simp only [allChans, List.any_cons, List.any_nil, Bool.or_false, Bool.or_eq_true, declareDemand_raises_iff]
  have (d : Chan) := Nat.not_lt.2 (h d)
  simp [this]

/-- How a driver follows a ceiling (R100, R108, R109). -/
theorem followCeiling_eq (f : Option Frequency) (ch : Channel) :
    followCeiling f ch =
      if ch.chc.state = .lockout then ch.driver
      else if ch.cfg.kind = .cycle then { ch.driver with level := driveLimit ch }
      else if ch.cfg.kind = .slow ∧ ch.chc.state ≠ .running then { ch.driver with level := 0 }
      else if ch.cfg.kind = .slow ∧ driveLimit ch < ch.driver.level then
        { ch.driver with
          level := driveLimit ch
          onTime := slowOnTime (ch.cfg.period * perSecond f) (ch.cfg.minSwitch * perSecond f) (driveLimit ch) }
      else ch.driver := by
  unfold followCeiling
  by_cases hl : ch.chc.state = .lockout
  · rw [if_pos hl, if_pos hl]
  · rw [if_neg hl, if_neg hl]
    cases hk : ch.cfg.kind
    case cycle => rw [if_pos rfl]
    case slow =>
      by_cases hr : ch.chc.state = .running
      · by_cases hd : driveLimit ch < ch.driver.level
        · simp [hr, hd, slowPeriod, slowMinSwitch]
        · simp [hr, hd]
      · simp [hr]
    all_goals simp

/-! ### A hold that clears -/

theorem holdShare_clears {s : State} {c : Chan} (hst : (s.chan c).claim.stage = .counting)
    (hc : (s.chan c).claim.count = 1) :
    holdShare c s =
      recompute (s.mapChan c fun ch =>
        { ch with claim := { ch.claim with stage := .clear, count := 0, settled := ch.claim.announced } }) := by
  rw [holdShare, if_pos hst, if_neg (by omega)]
  rfl

/-- Settles O30. -/
theorem raiseHoldClearsAfterItsCount : Obligations.RaiseHoldClearsAfterItsCount := by
  intro s c
  refine ⟨fun h hst hcount hneed => ?_, fun hst hcount => ?_, fun hst => ?_, ?_⟩
  · have due : ((s.chan c).claim.stage == .counting && decide ((s.chan c).claim.count ≤ 1)) = true := by
      simp [hst, hcount]
    have row := live_takeShare (u := .hold c)
      (due := fun s => (s.chan c).claim.stage == .counting && decide ((s.chan c).claim.count ≤ 1)) h rfl due
    have share := holdShare_clears hst hcount
    have claim := recompute_claim_grant (s.mapChan c fun ch =>
      { ch with claim := { ch.claim with stage := .clear, count := 0, settled := ch.claim.announced } }) c
    have moved := (holdShare_counted c s).apportioned
    have ssv := (holdShare_counted c s).ssv
    have took := tookShare_eq (rising := comingRising s) h.2.2.2
    rw [← share, State.chan_mapChan_self, State.mapChan_ssv] at claim
    have declared := declareDemand_claim s.ssv.station { s.chan c with
      claim := { (s.chan c).claim with stage := .clear, count := 0, settled := (s.chan c).claim.announced } }
    have need : neededDemand s.ssv.station { s.chan c with
      claim := { (s.chan c).claim with stage := .clear, count := 0, settled := (s.chan c).claim.announced } } =
        (s.chan c).claim.announced := hneed
    rw [need] at declared
    have keeps : ((holdShare c s).chan c).claim.stage = .clear ∧ ((holdShare c s).chan c).claim.count = 0 ∧
        ((holdShare c s).chan c).claim.settled = (s.chan c).claim.announced ∧
        ((holdShare c s).chan c).claim.announced = (s.chan c).claim.announced := by
      rw [claim, settleClaim, declared]
      simp
    rw [took] at row
    change _ = Host.Outcome.next (trail (comingRising s) (.hold c) { holdShare c s with taken := _, eventsNew := _ }) at row
    generalize holdShare c s = t at row moved ssv keeps
    obtain ⟨stage, count, settled, announced⟩ := keeps
    exact ⟨_, row, stage, count, settled, announced, moved.programs, moved.line, moved.rpu, ssv⟩
  · rw [holdShare, if_pos hst, if_pos hcount]
    rfl
  · rw [holdShare, if_neg hst]
  · have moved := apportioned_recompute s
    have claim := recompute_claim_grant s c
    have follow := recompute_driver s c
    have settled := settles_recompute s
    have request := recompute_request_iff s
    have quiet := recompute_apu_quiet (s := s)
    have ssv := recompute_ssv s
    obtain ⟨⟨chc, pgu, cfg⟩, valve, gated, -⟩ := moved.channel c
    generalize recompute s = t at moved claim follow settled request quiet chc pgu cfg valve gated ssv
    refine ⟨t, targetLevel s.ssv.station (s.chan c), neededDemand s.ssv.station (s.chan c), driveLimit (t.chan c), rfl,
      ?_, ?_, ?_, ?_, ?_, settled.burner c, valve, gated, moved.mtb, fun hr hw => request.2 (.inr ⟨hw, c, hr⟩), quiet,
      moved.programs, moved.line, moved.rpu, ssv, moved.igu, moved.gib⟩
    · simp only [targetLevel, Bool.not_eq_true]
    · rfl
    · have ceiling : (t.chan c).claim.ceiling =
          if ceilingsBarred s = true then 0
          else min (t.chan c).claim.paid ((t.chan c).claim.settled * 100 / (s.chan c).cfg.load) := by
        rw [claim]
        rfl
      simp only [ceilingsBarred_iff] at ceiling
      rw [← ceiling]
      have all := declareDemand_claim s.ssv.station (s.chan c)
      rw [claim, settleClaim, all]
      rfl
    · simp only [driveLimit, chc, gated, Bool.not_eq_true]
    · rw [follow, followCeiling_eq]
      simp only [driveLimit, chc, gated, cfg]

end Sys2Proof.Machine
end

section
/-! Settles O31, O32 and O33: the rows of the program unit. -/

namespace Sys2Proof.Machine

/-! ### A channel that its program unit moves -/

/-- A single channel's turn, as the ignition unit follows it. -/
theorem Joined.single {c : Chan} {s v : State} (hf : FuelSound s) (k : ReadyForTurn c s → IgnitionTurn c s v) :
    Joined s [0, 1, 2, 3] v := by
  have free : s.igu.holder = none → s.igu.queue = [] := hf.2.1
  have turn : IgnitionTurn c s v := k ⟨free, phase_none_of_state hf⟩
  have start := Joined.refl hf
  fin_cases c
  · exact (((start.turn hf (by decide) turn).turn hf (by decide) (.refl 1 v)).turn hf (by decide) (.refl 2 v)).turn hf
      (by decide) (.refl 3 v)
  · exact (((start.turn hf (by decide) (.refl 0 s)).turn hf (by decide) turn).turn hf (by decide) (.refl 2 v)).turn hf
      (by decide) (.refl 3 v)
  · exact (((start.turn hf (by decide) (.refl 0 s)).turn hf (by decide) (.refl 1 s)).turn hf (by decide) turn).turn hf
      (by decide) (.refl 3 v)
  · exact (((start.turn hf (by decide) (.refl 0 s)).turn hf (by decide) (.refl 1 s)).turn hf (by decide)
      (.refl 2 s)).turn hf (by decide) turn

/-- Channel `c` has moved from `s` to `v`, and the station has settled in `t`. -/
structure ChannelTurned (c : Chan) (s v t : State) : Prop where
  after : AfterTurn c v t
  burner : (t.chan c).burner = (v.chan c).burner
  unqueued : KeepsUnqueued c v t
  rpu : t.rpu = v.rpu
  cfg : (t.chan c).cfg = (s.chan c).cfg
  others : KeepsOthers c s t
  line : KeepsLine s t
  inputs : KeepsInputsAndPeers s t
  mtb : t.mtb = s.mtb
  ssv : t.ssv = s.ssv
  follows : (ReadyForTurn c s → IgnitionTurn c s v) → IgnitionFollows s t

theorem channelTurned_recompute {c : Chan} {s v : State} (h : SilentTurn c s v) : ChannelTurned c s v (recompute v) := by
  have settles := settles_recompute v
  have station := h.station
  have at_ : Turns (· = c) s (reporting s.rpu v) := h
  have mtb : v.mtb = s.mtb := (congrArg State.mtb station :)
  have ssv : v.ssv = s.ssv := (congrArg State.ssv station :)
  have gib : v.gib = s.gib := (congrArg State.gib station :)
  have apu : v.apu = s.apu := (congrArg State.apu station :)
  have held : v.held = s.held := (congrArg State.held station :)
  have pins : v.pins = s.pins := (congrArg State.pins station :)
  have line : KeepsLine s v := ⟨(congrArg State.lif station :), (congrArg State.configOpen station :),
    (congrArg State.stationConfigured station :), (congrArg State.lastStarted station :),
    (congrArg State.pending station :)⟩
  have cfg : (v.chan c).cfg = (s.chan c).cfg := (at_.fixtures c).1
  refine ⟨⟨settles.channel c, _, recompute_driver v c⟩, settles.burner c, settles.keepsUnqueued c, settles.rpu, ?_,
    fun d hd => ?_, line.trans (apportioned_recompute v).line, ?_, ?_, ?_, fun k => ?_⟩
  · rw [recompute_chan_cfg, cfg]
  · exact (at_.keepsChannel hd).trans (settles.channel d)
  · simp [KeepsInputsAndPeers, gib, apu, held, pins]
  · rw [recompute_mtb, mtb]
  · rw [recompute_ssv, ssv]
  · exact Joined.ignitionFollows fun hf => (Joined.single hf k).settles settles

/-- The marks and the note of an empty event queue are no part of what a turn moves. -/
theorem ChannelTurned.marked {c : Chan} {s v t : State} (h : ChannelTurned c s v t) (l : List HalfCycleUnit) (e : Bool) :
    ChannelTurned c s v { t with taken := l, eventsNew := e } :=
  ⟨⟨h.after.channel, h.after.driver⟩, h.burner, h.unqueued, h.rpu, h.cfg, h.others, h.line, h.inputs, h.mtb, h.ssv,
    h.follows⟩

/-- A row of the program unit whose share moves its channel and settles. -/
theorem live_programShare {c : Chan} {due : State → Bool} {s v : State} (h : Shares (.program c) s)
    (hdue : due s = true) (hv : SilentTurn c s v) (hshare : programShare c s = recompute v) :
    ∃ t, live (takeShare (.program c) due) s = .next t ∧ ChannelTurned c s v t := by
  refine ⟨_, live_takeShare h rfl hdue, ?_⟩
  have share : unitShare (comingRising s) (.program c) s = recompute v := hshare
  have trails : ∀ t, trail (comingRising s) (.program c) t = t := fun _ => rfl
  have turned := channelTurned_recompute hv
  rw [trails, tookShare_eq h.2.2.2, share]
  generalize recompute v = r at turned
  exact turned.marked _ _

/-! ### The last half-cycle of a step -/

/-- The step timer of channel `c` at its end. -/
def stepOver (c : Chan) (s : State) : State :=
  s.mapChan c fun ch => { ch with pgu := { ch.pgu with phase := 0, seconds := 0 } }

theorem mapChan_congr {c : Chan} {f g : Channel → Channel} {s : State} (h : f (s.chan c) = g (s.chan c)) :
    s.mapChan c f = s.mapChan c g := congrArg (s.setChan c) h

theorem lastHalfCycle_one {f : Option Frequency} {phase : Nat} (h : phase + 1 = perSecond f) :
    lastHalfCycle f 1 phase = true := by simp [lastHalfCycle, h]

section
variable {s : State} {c : Chan} (hruns : stepTimerRuns (s.chan c) = true) (hsec : (s.chan c).pgu.seconds = 1)
  (hphase : (s.chan c).pgu.phase + 1 = perSecond s.mtb.frequency)
include hruns hsec hphase

theorem stepExpires_last : stepExpires s.mtb.frequency (s.chan c) = true := by
  rw [stepExpires, hruns, hsec, lastHalfCycle_one hphase]
  rfl

theorem programShare_expires {a : EndAction} (ha : (s.chan c).pgu.endAction = a) :
    programShare c s = recompute (expireStep c a (stepOver c s)) := by
  have counted : (s.mapChan c fun ch => { ch with pgu := ch.pgu.countStep s.mtb.frequency }) = stepOver c s := by
    refine mapChan_congr ?_
    rw [Pgu.countStep, if_neg (by omega), hsec]
  rw [programShare, if_pos hruns]
  dsimp only
  rw [if_pos (stepExpires_last hruns hsec hphase), counted, expireByRecord, stepOver, State.chan_mapChan_self]
  exact congrArg (fun b => recompute (expireStep c b _)) ha

end

theorem silentTurn_stepExpires (c : Chan) (a : EndAction) (s : State) : SilentTurn c s (expireStep c a (stepOver c s)) :=
  (turns_mapChan c _ s).trans (silentTurn_expireStep c a (stepOver c s))

theorem expireStep_rpu (c : Chan) (a : EndAction) (u : State) :
    (expireStep c a u).rpu = u.rpu.notingAll (expiryRecords a c (u.chan c)) :=
  (congrArg State.rpu (expireStep_reporting c a u.rpu u) :)

theorem ignitionTurn_stepExpires {c : Chan} {s : State} (hst : (s.chan c).chc.state ≠ .igniting) (a : EndAction)
    (hr : ReadyForTurn c s) : IgnitionTurn c s (expireStep c a (stepOver c s)) := by
  have ready : ReadyForTurn c (stepOver c s) := by
    refine ⟨hr.free, fun _ => ?_⟩
    rw [stepOver, State.chan_mapChan_self]
    exact hr.phase hst
  have unlit : ((stepOver c s).chan c).chc.state ≠ .igniting := by
    rw [stepOver, State.chan_mapChan_self]
    exact hst
  exact IgnitionTurn.of_mapChan (ignitionTurn_expireStep ready unlit a)

theorem running_of_stepTimerRuns {ch : Channel} (h : stepTimerRuns ch = true) : ch.chc.state = .running := by
  simp only [stepTimerRuns, Bool.and_eq_true, beq_iff_eq] at h
  exact h.1.1

/-- The row of a step expiry, at the last half-cycle of a step whose record ends with `a`. -/
theorem exec_stepExpiry {s : State} {c : Chan} {n : Slot} {r : StepRecord} (h : Shares (.program c) s)
    (hruns : stepTimerRuns (s.chan c) = true) (hsec : (s.chan c).pgu.seconds = 1)
    (hphase : (s.chan c).pgu.phase + 1 = perSecond s.mtb.frequency) (hcur : (s.chan c).pgu.current = some n)
    (hslot : (s.chan c).pgu.slotAt n = some r) :
    ∃ t, exec (.stepExpiry c) s = .next t ∧ ChannelTurned c s (expireStep c r.endAction (stepOver c s)) t ∧
      t.rpu = s.rpu.notingAll (expiryRecords r.endAction c (s.chan c)) ∧ IgnitionFollows s t := by
  have ends := endAction_eq hcur hslot
  obtain ⟨t, row, turned⟩ := live_programShare (due := fun s => stepExpires s.mtb.frequency (s.chan c)) h
    (stepExpires_last hruns hsec hphase) (silentTurn_stepExpires c r.endAction s)
    (programShare_expires hruns hsec hphase ends)
  have quiet : (s.chan c).chc.state ≠ .igniting := by simp [running_of_stepTimerRuns hruns]
  have records : expiryRecords r.endAction c ((stepOver c s).chan c) = expiryRecords r.endAction c (s.chan c) := by
    rw [stepOver, State.chan_mapChan_self]
    rfl
  refine ⟨t, row, turned, ?_, turned.follows (ignitionTurn_stepExpires quiet r.endAction)⟩
  rw [turned.rpu, expireStep_rpu, records]
  rfl

/-- What the expiry has done to its channel. -/
theorem ChannelTurned.expired {a : EndAction} {c : Chan} {n : Slot} {s t : State}
    (h : ChannelTurned c s (expireStep c a (stepOver c s)) t) (hcur : (s.chan c).pgu.current = some n) :
    Expired a c n (stepOver c s) t := by
  have start : BeforeTurn c (stepOver c s) (stepOver c s) :=
    ⟨⟨⟨rfl, rfl, rfl⟩, rfl, rfl, rfl, rfl⟩, by simp [KeepsClockwork], rfl, fun _ => ⟨rfl, id⟩⟩
  refine expired_of_turn ?_ start (.refl c _) ?_ h.after h.unqueued
  · rw [stepOver, State.chan_mapChan_self]
    exact hcur
  · rw [h.cfg, stepOver, State.chan_mapChan_self]

@[simp] theorem stepOver_chan (c : Chan) (s : State) :
    (stepOver c s).chan c = { s.chan c with pgu := { (s.chan c).pgu with phase := 0, seconds := 0 } } :=
  State.chan_mapChan_self _ _ _

/-- Settles O31. -/
theorem stepExpiryCompletesOrHolds : Obligations.StepExpiryCompletesOrHolds := by
  intro s c n r h hruns hsec hphase hcur hslot
  obtain ⟨t, row, turned, rpu, -⟩ := exec_stepExpiry h hruns hsec hphase hcur hslot
  have expired := turned.expired hcur
  have kept := turned.after.channel
  have burner := turned.burner
  have completes (hend : r.endAction = .finish ∨ (r.endAction = .next ∧ (s.chan c).pgu.following n = none)) :
      Ended .completed c (stepOver c s) t := by
    obtain hfin | ⟨hnext, hnone⟩ := hend
    · rwa [hfin] at expired
    · have last : n = 7 ∨ ((stepOver c s).chan c).pgu.slotAt (n + 1) = none := by
        by_contra hmore
        rw [following_eq, if_neg (by simpa [Pgu.slotAt] using hmore)] at hnone
        exact nomatch hnone
      rw [hnext] at expired
      dsimp only [Expired] at expired
      rwa [if_pos last] at expired
  have records (hend : r.endAction = .finish ∨ (r.endAction = .next ∧ (s.chan c).pgu.following n = none)) :
      expiryRecords r.endAction c (s.chan c) =
        [{ kind := .stepEnd, channel := some c, slot := some n, parameter := r.endAction.code },
          { kind := .programEnd, channel := some c, slot := some n, parameter := 1 }] := by
    have last : r.endAction = .finish ∨
        (r.endAction = .next ∧ (s.chan c).pgu.current.bind (s.chan c).pgu.following = none) := by
      rwa [hcur]
    unfold expiryRecords
    rw [if_pos last, hcur]
    cases r.endAction <;> rfl
  refine ⟨fun hend => ⟨t, row, ?_⟩, fun hhold => ⟨t, row, ?_⟩⟩
  · obtain ⟨chc, pgu, valve, -⟩ := completes hend
    refine ⟨chc, ?_, ?_, valve, turned.cfg, turned.others, turned.line, turned.inputs, turned.mtb, turned.ssv⟩
    · rw [pgu, stepOver_chan]
    · rw [rpu, records hend, raise_eq, raise_eq]
      rfl
  · rw [hhold] at kept burner expired rpu
    obtain ⟨pgu, chc⟩ := expired
    have stays : (expireStep c .hold (stepOver c s)).chan c = { (stepOver c s).chan c with
        pgu := ((stepOver c s).chan c).pgu.held } := by
      show (State.mapChan (raiseFor c .stepEnd _ _) c _).chan c = _
      rw [State.chan_mapChan_self, raiseFor, raise_eq, reporting_chan]
    refine ⟨?_, ?_, ?_, ?_, ?_, turned.cfg, turned.others, turned.line, turned.inputs, turned.mtb, turned.ssv⟩
    · rw [pgu, stepOver_chan]
    · rw [chc, stepOver_chan]
    · rw [kept.2.1, stays, stepOver_chan]
    · rw [burner, stays, stepOver_chan]
    · have record : expiryRecords .hold c (s.chan c) =
          [{ kind := .stepEnd, channel := some c, slot := some n, parameter := 2 }] := by
        unfold expiryRecords
        rw [if_neg (by simp), hcur]
      rw [rpu, record, raise_eq]
      rfl

/-! ### The burner of a slot that starts -/

/-- A promotion moves a phase and a quiet count alone (R126). -/
theorem promote_keeps_burner (c : Chan) (u : State) :
    (promote u).chan c =
      { u.chan c with
        burner := { (u.chan c).burner with
          phase := ((promote u).chan c).burner.phase, quiet := ((promote u).chan c).burner.quiet } } :=
  (turns_promote (c + 1) u).others c (by fin_cases c <;> decide)

theorem enterIgnition_attempts (c : Chan) (k : Nat) (u : State) :
    ((enterIgnition c k u).chan c).burner.attempt = 1 ∧ ((enterIgnition c k u).chan c).burner.allowed = k := by
  rw [enterIgnition_eq_promote, promote_keeps_burner, State.chan_mapChan_self]
  exact ⟨rfl, rfl⟩

/-- What the start of slot `n` does to the burner and the valve of a RUNNING channel (R26). -/
theorem startSlot_burner {c : Chan} (n : Slot) {u : State} (hk : (u.chan c).cfg.kind = .burner)
    (hr : (u.chan c).chc.state = .running) :
    (levelAt (u.chan c) n = 0 →
      ((startSlot c n u).chan c).valve = 0 ∧ ((startSlot c n u).chan c).burner.supervising = false) ∧
    (0 < levelAt (u.chan c) n → (u.chan c).lit = true →
      ((startSlot c n u).chan c).valve = levelAt (u.chan c) n ∧ ((startSlot c n u).chan c).burner = (u.chan c).burner) ∧
    (0 < levelAt (u.chan c) n → (u.chan c).lit = false →
      ((startSlot c n u).chan c).burner.attempt = 1 ∧
      ((startSlot c n u).chan c).burner.allowed = (u.chan c).cfg.params.attempts) := by
  have level : ((u.mapChan c fun ch => { ch with pgu := ch.pgu.started n }).chan c).pgu.level = levelAt (u.chan c) n := by
    rw [State.chan_mapChan_self]
    exact started_level _ n
  have started : startSlot c n u =
      if levelAt (u.chan c) n = 0 then
        u.mapChan c fun ch => ({ ch with pgu := ch.pgu.started n } : Channel).extinguished.enterRunning
      else if (u.chan c).lit = true then
        u.mapChan c fun ch => { ch with pgu := ch.pgu.started n, valve := (ch.pgu.started n).level }
      else enterIgnitionConfigured c (u.mapChan c fun ch => { ch with pgu := ch.pgu.started n }) := by
    unfold startSlot
    dsimp only
    rw [if_neg (by simp [hr]), if_neg (by simp [hk]), level, mapChan_mapChan, mapChan_mapChan]
  refine ⟨fun h0 => ?_, fun hpos hlit => ?_, fun hpos hlit => ?_⟩
  · rw [started, if_pos h0, State.chan_mapChan_self]
    exact ⟨rfl, rfl⟩
  · rw [started, if_neg (by omega), if_pos hlit, State.chan_mapChan_self]
    exact ⟨rfl, rfl⟩
  · rw [started, if_neg (by omega), if_neg (by simp [hlit]), enterIgnitionConfigured, State.chan_mapChan_self]
    exact enterIgnition_attempts c _ _

theorem lit_of_running {ch : Channel} {n : Slot} (hr : ch.chc.state = .running) (hk : ch.cfg.kind = .burner)
    (hcur : ch.pgu.current = some n) : ch.lit = decide (0 < levelAt ch n) := by
  rw [Channel.lit, hr, hk, Pgu.level, Pgu.currentRecord, hcur]
  rfl

/-- The slot after one that ends with NEXT, as the expiry starts it. -/
theorem expireStep_next {c : Chan} {n m : Slot} {u : State} (hcur : (u.chan c).pgu.current = some n) (hn : n ≠ 7)
    (hm : m = n + 1) (hsome : ((u.chan c).pgu.slotAt m).isSome = true) :
    ∃ r, expireStep c .next u = reporting r (startSlot c m u) := by
  have following : (u.chan c).pgu.current.bind (u.chan c).pgu.following = some m := by
    rw [hcur]
    show (u.chan c).pgu.following n = some m
    rw [following_eq, if_neg (by rw [← hm]; simpa [hn] using Option.isSome_iff_ne_none.1 hsome), hm]
  have alone : raiseFor c .stepEnd EndAction.next.code u = reporting (u.rpu.noting _) u := raiseFor_reporting _ _ _ u.rpu u
  unfold expireStep
  dsimp only
  rw [following, alone]
  exact ⟨_, unreported_startSlot c m _ u⟩

/-- Settles O32. -/
theorem stepExpiryStartsNextSlot : Obligations.StepExpiryStartsNextSlot := by
  intro s c n m r h hruns hsec hphase hcur hslot hnext hn hm hsome
  obtain ⟨t, row, turned, rpu, follows⟩ := exec_stepExpiry h hruns hsec hphase hcur hslot
  have expired := turned.expired hcur
  have kept := turned.after.channel.2.1
  have burner := turned.burner
  have running := running_of_stepTimerRuns hruns
  have more : (s.chan c).pgu.slotAt (n + 1) ≠ none := by
    rw [← hm]
    exact Option.isSome_iff_ne_none.1 hsome
  rw [hnext] at expired kept burner rpu
  dsimp only [Expired] at expired
  rw [stepOver_chan, if_neg (by rintro (h7 | hnone); exacts [hn h7, more hnone]), ← hm] at expired
  obtain ⟨pgu, chc, -⟩ := expired
  have overRunning : ((stepOver c s).chan c).chc.state = .running := by rw [stepOver_chan]; exact running
  have overLevel (k : Slot) : levelAt ((stepOver c s).chan c) k = levelAt (s.chan c) k := by rw [stepOver_chan]; rfl
  obtain ⟨q, starts⟩ := expireStep_next (c := c) (u := stepOver c s) (by rw [stepOver_chan]; exact hcur) hn hm
    (by rw [stepOver_chan]; exact hsome)
  rw [starts, reporting_chan] at kept burner
  have fire (hk : (s.chan c).cfg.kind = .burner) :=
    startSlot_burner (c := c) m (u := stepOver c s) (by rw [stepOver_chan]; exact hk) overRunning
  have lit (hk : (s.chan c).cfg.kind = .burner) : ((stepOver c s).chan c).lit = decide (0 < levelAt (s.chan c) n) := by
    rw [← overLevel, lit_of_running overRunning] <;> rw [stepOver_chan]
    exacts [hk, hcur]
  have state (hrun : ¬ ((s.chan c).cfg.kind = .burner ∧ 0 < levelAt (s.chan c) m ∧ ¬ 0 < levelAt (s.chan c) n)) :
      (t.chan c).chc = (s.chan c).chc := by
    rw [chc, chcAfterStart, if_neg (by rw [overRunning]; decide), overLevel, if_neg, stepOver_chan, ← running]
    rintro ⟨hk, hpos, hlit⟩
    rw [stepOver_chan] at hk
    rw [lit hk, decide_eq_false_iff_not] at hlit
    exact hrun ⟨hk, hpos, hlit⟩
  refine ⟨t, row, ?_, ?_, fun hk => state fun hb => hk hb.1, fun hk h0 => ⟨state (by omega), ?_⟩,
    fun hk hpos hlit => ⟨state (by omega), ?_⟩, fun hk hpos h0 => ⟨?_, ?_⟩, follows, turned.cfg, turned.others,
    turned.line, turned.inputs, turned.mtb, turned.ssv⟩
  · rw [pgu, stepOver_chan, ← started_eq]
    rfl
  · have record : expiryRecords .next c (s.chan c) =
        [{ kind := .stepEnd, channel := some c, slot := some n, parameter := 0 }] := by
      unfold expiryRecords
      rw [if_neg, hcur]
      rintro (h1 | ⟨-, h2⟩)
      · exact nomatch h1
      · rw [hcur] at h2
        have h2 : (s.chan c).pgu.following n = none := h2
        rw [following_eq, if_neg (by rintro (h7 | hnone); exacts [hn h7, more hnone])] at h2
        exact nomatch h2
    rw [rpu, record, raise_eq]
    rfl
  · rw [kept, burner]
    exact (fire hk).1 (by rw [overLevel]; exact h0)
  · have still := (fire hk).2.1 (by rw [overLevel]; exact hpos) (by rw [lit hk]; exact decide_eq_true hlit)
    rw [kept, burner, still.1, still.2, overLevel, stepOver_chan]
    exact ⟨rfl, rfl⟩
  · have dark : ((stepOver c s).chan c).lit = false := by rw [lit hk, h0]; rfl
    rw [chc, chcAfterStart, if_neg (by rw [overRunning]; decide), overLevel, dark, stepOver_chan,
      if_pos ⟨hk, hpos, rfl⟩]
  · have entered := (fire hk).2.2 (by rw [overLevel]; exact hpos) (by rw [lit hk, h0]; rfl)
    rw [burner, entered.1, entered.2, stepOver_chan]
    exact ⟨rfl, rfl⟩

/-! ### The last half-cycle of a delay -/

/-- The start delay of channel `c` at its end. -/
def delayOver (c : Chan) (s : State) : State :=
  s.mapChan c fun ch => { ch with pgu := { ch.pgu with phase := 0, delay := 0 } }

@[simp] theorem delayOver_chan (c : Chan) (s : State) :
    (delayOver c s).chan c = { s.chan c with pgu := { (s.chan c).pgu with phase := 0, delay := 0 } } :=
  State.chan_mapChan_self _ _ _

theorem silentTurn_delayEnds (c : Chan) (s : State) : SilentTurn c s (endDelay c (delayOver c s)) :=
  (turns_mapChan c _ s).trans (silentTurn_endDelay c (delayOver c s))

theorem endDelay_rpu (c : Chan) (u : State) : (endDelay c u).rpu = u.rpu.notingAll (delayRecords c (u.chan c)) :=
  (congrArg State.rpu (endDelay_reporting c u.rpu u) :)

section
variable {s : State} {c : Chan} (hst : (s.chan c).chc.state = .delayed) (hdelay : (s.chan c).pgu.delay = 1)
  (hphase : (s.chan c).pgu.phase + 1 = perSecond s.mtb.frequency)
include hst hdelay hphase

theorem delayExpires_last : delayExpires s.mtb.frequency (s.chan c) = true := by
  rw [delayExpires, hst, hdelay, lastHalfCycle_one hphase]
  rfl

theorem programShare_delayEnds : programShare c s = recompute (endDelay c (delayOver c s)) := by
  have counted : (s.mapChan c fun ch => { ch with pgu := ch.pgu.countDelay s.mtb.frequency }) = delayOver c s := by
    refine mapChan_congr ?_
    rw [Pgu.countDelay, if_neg (by omega), hdelay]
  rw [programShare, if_neg (by simp [stepTimerRuns, hst]), if_pos hst]
  dsimp only
  rw [if_pos (delayExpires_last hst hdelay hphase), counted]

end

theorem ignitionTurn_delayEnds {c : Chan} {s : State} (hst : (s.chan c).chc.state ≠ .igniting)
    (hr : ReadyForTurn c s) : IgnitionTurn c s (endDelay c (delayOver c s)) := by
  have ready : ReadyForTurn c (delayOver c s) := by
    refine ⟨hr.free, fun _ => ?_⟩
    rw [delayOver_chan]
    exact hr.phase hst
  have unlit : ((delayOver c s).chan c).chc.state ≠ .igniting := by
    rw [delayOver_chan]
    exact hst
  exact IgnitionTurn.of_mapChan (ignitionTurn_endDelay ready unlit)

/-- Settles O33. -/
theorem delayEndStartsTheProgram : Obligations.DelayEndStartsTheProgram := by
  intro s c n h hst hdelay hphase hcur
  obtain ⟨t, row, turned⟩ := live_programShare (due := fun s => delayExpires s.mtb.frequency (s.chan c)) h
    (delayExpires_last hst hdelay hphase) (silentTurn_delayEnds c s) (programShare_delayEnds hst hdelay hphase)
  have start : BeforeTurn c (delayOver c s) (delayOver c s) :=
    ⟨⟨⟨rfl, rfl, rfl⟩, rfl, rfl, rfl, rfl⟩, by simp [KeepsClockwork], rfl, fun _ => ⟨rfl, id⟩⟩
  obtain ⟨pgu, chc, afresh⟩ := endDelay_of_turn (c := c) (n := n) (s := delayOver c s)
    (by rw [delayOver_chan]; exact hcur) start turned.after
  rw [delayOver_chan] at pgu chc afresh
  have dark : (s.chan c).lit = false := by simp [Channel.lit, hst]
  refine ⟨t, row, ?_, ?_, ?_, afresh (by simp [hst]) (by simp [hst]), ?_, turned.cfg, turned.others, turned.line,
    turned.inputs, turned.mtb, turned.ssv⟩
  · rw [pgu, ← started_eq, ← started_eq]
    rfl
  · rw [chc, chcAfterStart, if_neg (by simp [hst])]
    have unlit : (Channel.lit { s.chan c with pgu := { (s.chan c).pgu with phase := 0, delay := 0 } }) = false := by
      simp [Channel.lit, hst]
    rw [unlit]
    simp only [and_true]
    rfl
  · rw [turned.rpu, endDelay_rpu, delayOver_chan, delayRecords, raise_eq, hcur]
    rfl
  · exact turned.follows (ignitionTurn_delayEnds (by simp [hst]))

end Sys2Proof.Machine
end

section
/-! Settles O34: the rows of a slow driver; and what the rows of every driver have in common. -/

namespace Sys2Proof.Machine

/-! ### Rows that read the input pins -/

/-- A row that is one unit's share and reads the pins, where it is due. -/
theorem live_takeShareWith {pins : InputPins} {u : HalfCycleUnit} {due : State → Bool} {s t : State} (hs : s.held = false)
    (ht : t = lead (comingRising s) u (withInputs pins s)) (hm : mayTake u t = true) (hdue : due t = true) :
    live (takeShareWith pins u due) s =
      .next (noted s.rpu.events.isEmpty (noteSpark u (deliverEvent (comingRising s) u t))) := by
  obtain ⟨-, -, taken⟩ | ⟨off, -⟩ := takeShareWith_cases pins u due s t ht
  · rw [live_powered _ _ hs, taken, noted]
  · rw [hm, hdue] at off
    exact absurd off (by decide)

/-! ### A half-cycle on a driver -/

/-- Channel `c` with its sample taken (R101, step 1). -/
def driverSampled (c : Chan) (s : State) : State := s.mapChan c fun ch => { ch with driver := (driverSample s c).1 }

/-- Channel `c` with its command taken (R101, step 2). -/
def driverCommanded (f : Option Frequency) (rising : Bool) (c : Chan) (s : State) : State :=
  s.mapChan c fun ch => { ch with driver := driveCommand f rising ch }

/-- The row of a driver's share, where it is due. -/
theorem live_driverShare {c : Chan} {pins : InputPins} {due : State → Bool} {s : State} (h : Shares (.driver c) s)
    (hworks : driverWorks (s.chan c) = true) (hdue : due (withInputs pins s) = true) :
    ∃ l, live (takeShareWith pins (.driver c) due) s =
      .next
        { driverCommanded s.mtb.frequency (comingRising s) c
            (applyVerdict c (driverSample (withInputs pins s) c).2 (driverSampled c (withInputs pins s))) with
          taken := l, eventsNew := s.rpu.events.isEmpty } := by
  have may : mayTake (.driver c) (withInputs pins s) = true := mayTake_iff.2 ⟨h.2.1, h.2.2.2⟩
  have share : unitShare (comingRising s) (.driver c) (withInputs pins s) =
      driverCommanded s.mtb.frequency (comingRising s) c
        (applyVerdict c (driverSample (withInputs pins s) c).2 (driverSampled c (withInputs pins s))) := if_pos hworks
  have alone : ∀ t, trail (comingRising s) (.driver c) t = t := fun _ => rfl
  have row := live_takeShareWith h.1 rfl may hdue
  rw [lead_of_taken _ _ _ (by simp [earlierShares]), deliverEvent, alone,
    deliverOne_untaken _ _ (withInputs pins s) h.2.2.2, share] at row
  exact ⟨_, row⟩

/-! ### What a sample and a command leave of a driver -/

theorem driveSample_keeps (k : ChanKind) (x : Bool) (d : Driver) :
    (driveSample k x d).1 =
      { d with
        settle := (driveSample k x d).1.settle, onMismatch := (driveSample k x d).1.onMismatch
        offMismatch := (driveSample k x d).1.offMismatch, uncontrolled := (driveSample k x d).1.uncontrolled
        clearCount := (driveSample k x d).1.clearCount } := by
  obtain ⟨level, output⟩ := d
  unfold driveSample judgeUncontrolled judgeControlled
  cases x <;> cases output <;> dsimp only <;> split_ifs <;> rfl

theorem slowCommand_keeps (P M : Nat) (ch : Channel) :
    slowCommand P M ch =
      { ch.driver with
        level := (slowCommand P M ch).level, output := (slowCommand P M ch).output
        inPeriod := (slowCommand P M ch).inPeriod, position := (slowCommand P M ch).position
        onTime := (slowCommand P M ch).onTime, settle := (slowCommand P M ch).settle } := by
  unfold slowCommand slowAdvance Driver.commandRelay
  dsimp only
  split_ifs <;> rfl

/-- The command leaves the drive check alone, but for the settle count of a relay. -/
theorem driveCommand_check (f : Option Frequency) (rising : Bool) (ch : Channel) :
    (driveCommand f rising ch).onMismatch = ch.driver.onMismatch ∧
    (driveCommand f rising ch).offMismatch = ch.driver.offMismatch ∧
    (driveCommand f rising ch).uncontrolled = ch.driver.uncontrolled ∧
    (driveCommand f rising ch).clearCount = ch.driver.clearCount := by
  unfold driveCommand
  cases ch.cfg.kind <;> dsimp only
  case cycle =>
    unfold cycleCommand
    split_ifs <;> exact ⟨rfl, rfl, rfl, rfl⟩
  case slow =>
    rw [slowCommand_keeps]
    exact ⟨rfl, rfl, rfl, rfl⟩
  all_goals exact ⟨rfl, rfl, rfl, rfl⟩

/-- A driver whose channel is not RUNNING commands OFF (R100, R102, R103, R107). -/
theorem driveCommand_rest (f : Option Frequency) (rising : Bool) {ch : Channel} (hk : ch.cfg.kind.isElement = true)
    (hst : ch.chc.state ≠ .running) (hl : ch.driver.level = 0) (ha : ch.driver.accumulator ≤ 99) :
    (driveCommand f rising ch).output = false := by
  unfold driveCommand
  cases hkind : ch.cfg.kind <;> rw [hkind] at hk <;> dsimp only
  case cycle =>
    unfold cycleCommand
    cases rising
    · simp [hl]
    · rw [if_pos rfl, if_neg (by omega)]
  case slow => rw [slowCommand, if_neg hst, Driver.commandRelay]
  all_goals exact nomatch hk

/-! ### O34 -/

/-- `s` with the levels `pins` read and the driver of channel `c` at `d`. -/
def driverSet (pins : InputPins) (c : Chan) (d : Driver) (s : State) : State :=
  (withInputs pins s).mapChan c fun ch => { ch with driver := d }

/-- What such a state keeps, whatever shares it has marked and whatever it notes of the event queue. -/
structure DriverMoved (c : Chan) (d : Driver) (s t : State) : Prop where
  driver : (t.chan c).driver = d
  claim : (t.chan c).claim = (s.chan c).claim
  burner : (t.chan c).burner = (s.chan c).burner
  programs : KeepsPrograms s t
  line : KeepsLine s t
  inputs : KeepsInputsAndPeers s t
  station : t.rpu = s.rpu ∧ t.mtb = s.mtb ∧ t.ssv = s.ssv ∧ t.igu = s.igu ∧ t.apu = s.apu

theorem driverMoved_driverSet (pins : InputPins) (c : Chan) (d : Driver) (s : State) (l : List HalfCycleUnit) (e : Bool) :
    DriverMoved c d s { driverSet pins c d s with taken := l, eventsNew := e } := by
  have self : (driverSet pins c d s).chan c = { s.chan c with driver := d } := State.chan_mapChan_self _ _ _
  have programs (x : Chan) : KeepsProgram x s (driverSet pins c d s) := by
    by_cases hx : x = c
    · subst hx
      rw [KeepsProgram, self]
      exact ⟨rfl, rfl, rfl⟩
    · rw [KeepsProgram, driverSet, State.chan_mapChan_ne _ _ _ _ hx]
      exact ⟨rfl, rfl, rfl⟩
  exact ⟨(congrArg Channel.driver self :), (congrArg Channel.claim self :), (congrArg Channel.burner self :), programs,
    ⟨rfl, rfl, rfl, rfl, rfl⟩, ⟨rfl, rfl, rfl, rfl, rfl, rfl, rfl, rfl, rfl⟩, rfl, rfl, rfl, rfl, rfl⟩

/-- The row of a SLOW driver whose sample reports nothing. -/
theorem live_slowShare {c : Chan} {pins : InputPins} {due : State → Bool} {s : State} (h : Shares (.driver c) s)
    (hk : (s.chan c).cfg.kind = .slow) (hrun : (s.chan c).chc.state = .running)
    (hv : (driverSample (withInputs pins s) c).2 = .nothing) (hdue : due (withInputs pins s) = true) :
    ∃ t, live (takeShareWith pins (.driver c) due) s = .next t ∧
      DriverMoved c
        (slowCommand (slowPeriod s.mtb.frequency (s.chan c).cfg) (slowMinSwitch s.mtb.frequency (s.chan c).cfg)
          { s.chan c with driver := (driverSample (withInputs pins s) c).1 }) s t := by
  have works : driverWorks (s.chan c) = true := by simp [driverWorks, ChanKind.isElement, hk, hrun]
  have share : driverCommanded s.mtb.frequency (comingRising s) c
        (applyVerdict c (driverSample (withInputs pins s) c).2 (driverSampled c (withInputs pins s))) =
      driverSet pins c
        (slowCommand (slowPeriod s.mtb.frequency (s.chan c).cfg) (slowMinSwitch s.mtb.frequency (s.chan c).cfg)
          { s.chan c with driver := (driverSample (withInputs pins s) c).1 }) s := by
    rw [hv]
    show driverCommanded s.mtb.frequency _ c (driverSampled c (withInputs pins s)) = _
    rw [driverCommanded, driverSampled, mapChan_mapChan, driverSet]
    refine mapChan_congr ?_
    rw [withInputs_chan, driveCommand, hk]
  obtain ⟨l, row⟩ := live_driverShare h works hdue
  rw [share] at row
  exact ⟨_, row, driverMoved_driverSet pins c _ s l _⟩

section
variable {P M : Nat} {ch : Channel} (hrun : ch.chc.state = .running)
include hrun

/-- A SLOW period that starts (R106, R107, R113). -/
theorem slowCommand_starts (h : ch.driver.inPeriod = false ∨ P ≤ ch.driver.position + 1) :
    (slowCommand P M ch).inPeriod = true ∧ (slowCommand P M ch).position = 0 ∧
    (slowCommand P M ch).level = (if ch.gated then 0 else ch.claim.ceiling) ∧
    (slowCommand P M ch).onTime = slowOnTime P M (slowCommand P M ch).level ∧
    ((slowCommand P M ch).output = true ↔ 0 < (slowCommand P M ch).onTime) ∧
    ((slowCommand P M ch).output ≠ ch.driver.output → (slowCommand P M ch).settle = 4) := by
  have starts : ¬ (ch.driver.inPeriod = true ∧ ch.driver.position + 1 < P) := by
    rintro ⟨h1, h2⟩
    obtain h | h := h
    · exact absurd h1 (by simp [h])
    · omega
  have limit : driveLimit ch = if ch.gated then 0 else ch.claim.ceiling := by
    cases hg : ch.gated <;> simp [driveLimit, hrun, hg]
  rw [slowCommand, if_pos hrun, slowAdvance, if_neg starts, limit]
  refine ⟨rfl, rfl, rfl, rfl, decide_eq_true_iff, fun hne => if_neg fun he => hne he.symm⟩

/-- A SLOW period that reaches its on-time (R107, R113). -/
theorem slowCommand_ends (hin : ch.driver.inPeriod = true) (hout : ch.driver.output = true)
    (hpos : ch.driver.position + 1 < P) (hon : ch.driver.onTime = ch.driver.position + 1) :
    slowCommand P M ch = { ch.driver with position := ch.driver.position + 1, output := false, settle := 4 } := by
  rw [slowCommand, if_pos hrun, slowAdvance, if_pos ⟨hin, hpos⟩, Driver.commandRelay]
  simp [hout, hon]
  rfl

end

/-- Settles O34. -/
theorem slowPeriodStartsAndEndsItsPulse : Obligations.SlowPeriodStartsAndEndsItsPulse := by
  intro s c pins h hk hrun hv
  have runs : slowRuns (withInputs pins s) c = true := by
    simp [slowRuns, driverWorks, ChanKind.isElement, hk, hrun, hv]
  have sample : (driverSample (withInputs pins s) c).1 = _ := driveSample_keeps _ _ (s.chan c).driver
  have inPeriod : (driverSample (withInputs pins s) c).1.inPeriod = (s.chan c).driver.inPeriod := by rw [sample]
  have position : (driverSample (withInputs pins s) c).1.position = (s.chan c).driver.position := by rw [sample]
  have output : (driverSample (withInputs pins s) c).1.output = (s.chan c).driver.output := by rw [sample]
  have onTime : (driverSample (withInputs pins s) c).1.onTime = (s.chan c).driver.onTime := by rw [sample]
  have level : (driverSample (withInputs pins s) c).1.level = (s.chan c).driver.level := by rw [sample]
  refine ⟨fun hstart => ?_, fun hin hout hpos hon => ?_⟩
  · have due : periodStarts (withInputs pins s) c = true := by
      rw [periodStarts, runs]
      show (true && (!(s.chan c).driver.inPeriod ||
        decide (slowPeriod s.mtb.frequency (s.chan c).cfg ≤ (s.chan c).driver.position + 1))) = true
      obtain h1 | h1 := hstart <;> simp [h1]
    obtain ⟨t, row, moved⟩ := live_slowShare (due := fun s => periodStarts s c) h hk hrun hv due
    have starts := slowCommand_starts (P := slowPeriod s.mtb.frequency (s.chan c).cfg)
      (M := slowMinSwitch s.mtb.frequency (s.chan c).cfg)
      (ch := { s.chan c with driver := (driverSample (withInputs pins s) c).1 }) hrun
      (by rw [inPeriod, position]; exact hstart)
    rw [← moved.driver, output] at starts
    obtain ⟨started, first, limit, pulse, lit, settles⟩ := starts
    obtain ⟨rpu, mtb, ssv, igu, apu⟩ := moved.station
    exact ⟨t, row, started, first, limit, pulse, lit, settles, moved.claim, moved.burner, moved.programs, moved.line,
      moved.inputs, rpu, mtb, ssv, igu, apu⟩
  · have due : onTimeEnds (withInputs pins s) c = true := by
      rw [onTimeEnds, runs]
      show (true && (s.chan c).driver.output && (s.chan c).driver.inPeriod &&
        decide ((s.chan c).driver.position + 1 < slowPeriod s.mtb.frequency (s.chan c).cfg) &&
        decide ((s.chan c).driver.onTime ≤ (s.chan c).driver.position + 1)) = true
      simp [hin, hout, hpos, hon]
    obtain ⟨t, row, moved⟩ := live_slowShare (due := fun s => onTimeEnds s c) h hk hrun hv due
    have ends := slowCommand_ends (M := slowMinSwitch s.mtb.frequency (s.chan c).cfg)
      (ch := { s.chan c with driver := (driverSample (withInputs pins s) c).1 }) hrun (inPeriod.trans hin)
      (output.trans hout) (by rw [position]; exact hpos) (by rw [position, onTime]; exact hon)
    have driver := moved.driver.trans ends
    obtain ⟨rpu, mtb, ssv, igu, apu⟩ := moved.station
    refine ⟨t, row, ?_, ?_, ?_, ?_, ?_, moved.claim, moved.programs, moved.line, moved.inputs, rpu, mtb, ssv, igu, apu⟩ <;>
      rw [driver]
    · exact congrArg (· + 1) position
    · exact onTime
    · exact level

end Sys2Proof.Machine
end

section
/-! Settles O35 and O36: what the drive check reports. -/

namespace Sys2Proof.Machine

/-! ### The verdict of a sample -/

section
variable {s : State} {c : Chan} {pins : InputPins} (hsus : (s.chan c).driver.suspended = false)
  (hsettle : (s.chan c).cfg.kind = .slow → (s.chan c).driver.settle = 0)
include hsus hsettle

/-- A sample that is judged (R101, R112, R113). -/
theorem driverSample_judged {x : Bool} (hx : pins.sense.get c = x) :
    driverSample (withInputs pins s) c =
      if (s.chan c).driver.uncontrolled then judgeUncontrolled x (s.chan c).driver
      else judgeControlled x (s.chan c).driver := by
  have settled : ¬ ((s.chan c).cfg.kind = .slow ∧ 0 < (s.chan c).driver.settle) := fun ⟨hk, hpos⟩ => by
    rw [hsettle hk] at hpos
    exact absurd hpos (by decide)
  have sense : (withInputs pins s).pins.inputs.sense.get c = x := hx
  rw [driverSample, sense, withInputs_chan, driveSample, if_neg (by simp [hsus]), if_neg settled]

end

section
variable {d : Driver}

theorem judgeControlled_silent (ho : d.output = true) (hm : d.onMismatch = 5) :
    judgeControlled false d = ({ d with onMismatch := 0 }, .stuckOff) := by
  obtain ⟨_, _, _, _, _, _, _, _, _⟩ := d
  cases ho
  cases hm
  rfl

theorem judgeControlled_conducting (ho : d.output = false) (hm : d.offMismatch = 5) :
    judgeControlled true d = ({ d with offMismatch := 0 }, .stuckOn) := by
  obtain ⟨_, _, _, _, _, _, _, _, _, _⟩ := d
  cases ho
  cases hm
  rfl

theorem judgeUncontrolled_silent (hc : d.clearCount = 5) :
    judgeUncontrolled false d = ({ d with uncontrolled := false, clearCount := 0, offMismatch := 0 }, .cleared) := by
  obtain ⟨_, _, _, _, _, _, _, _, _, _, _, _, _⟩ := d
  cases hc
  rfl

end

/-! ### A disabled channel -/

theorem silentTurn_disableChannel (c : Chan) (u : State) : SilentTurn c u (disableChannel c u) := by
  unfold disableChannel
  split_ifs
  · exact silentTurn_of_turns (.refl _ u)
  · exact silentTurn_endProgram c _ _ u
  · exact silentTurn_of_turns (turns_mapChan c _ u)

/-- The records of a channel that is disabled (R61, R193). -/
theorem disableChannel_rpu (c : Chan) (u : State) :
    (disableChannel c u).rpu = u.rpu.notingAll (endRecords .drive c (u.chan c)) := by
  unfold disableChannel endRecords
  split_ifs with hdis hp hp
  · rw [hdis] at hp
    exact nomatch hp
  · rfl
  · exact congrArg State.rpu (endProgram_reporting c .drive .disabled u.rpu u)
  · rfl

theorem endProgram_driver (c : Chan) (cause : EndCause) (into : ChanState) (u : State) :
    ((endProgram c cause into u).chan c).driver = (u.chan c).driver := by
  obtain ⟨r, h⟩ := endProgram_eq c cause into u
  rw [h, reporting_chan, State.chan_mapChan_self, fuelOnly_quench c u c]

/-- A channel that is disabled (R61, R118). -/
theorem disableChannel_chan (c : Chan) (u : State) :
    ((disableChannel c u).chan c).chc.state = .disabled ∧
    ((disableChannel c u).chan c).driver = (u.chan c).driver ∧
    ((u.chan c).chc.state = .disabled → ((disableChannel c u).chan c).chc = (u.chan c).chc) ∧
    ((u.chan c).chc.state ≠ .disabled → ((disableChannel c u).chan c).chc.endCause = .drive) ∧
    ((u.chan c).chc.state.hasProgram = true →
      ((disableChannel c u).chan c).chc =
        { state := .disabled, causes := ⟨false, false⟩, target := none, endCause := .drive } ∧
      ((disableChannel c u).chan c).pgu = (u.chan c).pgu.ended) ∧
    ((u.chan c).chc.state = .idle →
      ((disableChannel c u).chan c).chc = { (u.chan c).chc with state := .disabled, endCause := .drive }) := by
  unfold disableChannel
  split_ifs with hdis hp
  · refine ⟨hdis, rfl, fun _ => rfl, fun h => absurd hdis h, fun h => ?_, fun h => ?_⟩
    · rw [hdis] at h
      exact nomatch h
    · rw [hdis] at h
      exact nomatch h
  · have ends := endProgram_ends c .drive .disabled u
    refine ⟨by rw [ends.chc], endProgram_driver c _ _ u, fun h => absurd h hdis, fun _ => by rw [ends.chc],
      fun _ => ⟨ends.chc, ends.pgu⟩, fun h => ?_⟩
    rw [h] at hp
    exact nomatch hp
  · rw [State.chan_mapChan_self]
    exact ⟨rfl, rfl, fun h => absurd h hdis, fun _ => rfl, fun h => absurd h hp, fun _ => rfl⟩

/-! ### The row of a driver whose channel has turned -/

theorem KeepsInputsAndPeers.trans {s t u : State} (h : KeepsInputsAndPeers s t) (k : KeepsInputsAndPeers t u) :
    KeepsInputsAndPeers s u := by
  obtain ⟨h1, h2, h3, h4, h5, h6, h7, h8, h9⟩ := h
  obtain ⟨k1, k2, k3, k4, k5, k6, k7, k8, k9⟩ := k
  exact ⟨k1.trans h1, k2.trans h2, k3.trans h3, k4.trans h4, k5.trans h5, k6.trans h6, k7.trans h7, k8.trans h8,
    k9.trans h9⟩

/-- What the command of a driver leaves alone of `r`, whatever is noted of the event queue and the marks. -/
structure Commanded (f : Option Frequency) (rising : Bool) (c : Chan) (r t : State) : Prop where
  self : t.chan c = { r.chan c with driver := driveCommand f rising (r.chan c) }
  other : ∀ d, d ≠ c → t.chan d = r.chan d
  line : KeepsLine r t
  inputs : KeepsInputsAndPeers r t
  rpu : t.rpu = r.rpu
  mtb : t.mtb = r.mtb
  ssv : t.ssv = r.ssv
  apu : t.apu = r.apu

theorem commanded_driverCommanded (f : Option Frequency) (rising : Bool) (c : Chan) (r : State) (l : List HalfCycleUnit)
    (e : Bool) : Commanded f rising c r { driverCommanded f rising c r with taken := l, eventsNew := e } := by
  have self : (driverCommanded f rising c r).chan c = { r.chan c with driver := driveCommand f rising (r.chan c) } :=
    State.chan_mapChan_self _ _ _
  have other (d : Chan) (hd : d ≠ c) : (driverCommanded f rising c r).chan d = r.chan d :=
    State.chan_mapChan_ne _ _ _ _ hd
  exact ⟨self, other, ⟨rfl, rfl, rfl, rfl, rfl⟩, ⟨rfl, rfl, rfl, rfl, rfl, rfl, rfl, rfl, rfl⟩, rfl, rfl, rfl, rfl⟩

theorem Commanded.keepsChannel {f : Option Frequency} {rising : Bool} {c : Chan} {r t : State}
    (h : Commanded f rising c r t) (d : Chan) : KeepsChannel d r t := by
  by_cases hd : d = c
  · subst hd
    simp [KeepsChannel, KeepsProgram, h.self]
  · simp [KeepsChannel, KeepsProgram, h.other d hd]

/-- The driver of a disabled channel after its command (R100). -/
theorem Commanded.rest {f : Option Frequency} {rising : Bool} {c : Chan} {r t v : State} {d : Driver}
    (h : Commanded f rising c r t) (hr : r = recompute v) (hv : (v.chan c).driver = d)
    (hk : (v.chan c).cfg.kind.isElement = true) (hst : (v.chan c).chc.state = .disabled) (ha : d.accumulator ≤ 99) :
    (t.chan c).driver.output = false ∧ (t.chan c).driver.onMismatch = d.onMismatch ∧
    (t.chan c).driver.offMismatch = d.offMismatch ∧ (t.chan c).driver.uncontrolled = d.uncontrolled ∧
    (t.chan c).driver.clearCount = d.clearCount := by
  subst hr
  have driver := recompute_driver v c
  have level := followCeiling_level_of_rest v.mtb.frequency
    (ch := { (recompute v).chan c with driver := (v.chan c).driver }) (by simpa using hk) (by simp [hst]) (by simp [hst])
  have apart := followCeiling_apart v.mtb.frequency { (recompute v).chan c with driver := (v.chan c).driver }
  rw [← driver] at level apart
  rw [hv] at apart
  have rests := driveCommand_rest f rising (ch := (recompute v).chan c) (by simpa using hk) (by simp [hst]) level
    (by rw [apart]; exact ha)
  obtain ⟨on, off, unc, clear⟩ := driveCommand_check f rising ((recompute v).chan c)
  rw [apart] at on off unc clear
  rw [h.self]
  exact ⟨rests, on, off, unc, clear⟩

/-- The row of a driver whose sample has the verdict `v`. -/
theorem live_verdict {c : Chan} {pins : InputPins} {due : State → Bool} {s : State} {v : DriveVerdict}
    (h : Shares (.driver c) s) (hworks : driverWorks (s.chan c) = true) (hdue : due (withInputs pins s) = true)
    (hv : (driverSample (withInputs pins s) c).2 = v) :
    ∃ t, live (takeShareWith pins (.driver c) due) s = .next t ∧
      Commanded s.mtb.frequency (comingRising s) c (applyVerdict c v (driverSampled c (withInputs pins s))) t := by
  obtain ⟨l, row⟩ := live_driverShare h hworks hdue
  rw [hv] at row
  exact ⟨_, row, commanded_driverCommanded _ _ c _ l _⟩

/-! ### A drive fault -/

/-- A drive fault of kind `p` on channel `c`: DRIVE_FAULT, and the channel DISABLED (R115, R116). -/
def faulted (c : Chan) (p : Nat) (u : State) : State := disableChannel c (raiseFor c .driveFault p u)

/-- The DRIVE_FAULT record of channel `c`. -/
def faultRecord (c : Chan) (p : Nat) (ch : Channel) : EventRecord :=
  { kind := .driveFault, channel := some c, slot := ch.pgu.current, parameter := p }

theorem raiseFault_eq (c : Chan) (p : Nat) (u : State) :
    raiseFor c .driveFault p u = reporting (u.rpu.noting (faultRecord c p (u.chan c))) u :=
  raiseFor_reporting c .driveFault p u.rpu u

theorem faulted_eq (c : Chan) (p : Nat) (u : State) :
    ∃ r, faulted c p u = disableChannel c (reporting r u) := ⟨_, by rw [faulted, raiseFault_eq]⟩

theorem silentTurn_faulted (c : Chan) (p : Nat) (u : State) : SilentTurn c u (faulted c p u) := by
  obtain ⟨r, h⟩ := faulted_eq c p u
  rw [h]
  have turn := silentTurn_disableChannel c (reporting r u)
  rw [SilentTurn, reporting_rpu] at turn
  exact silentTurn_of_reporting (t := reporting r (disableChannel c (reporting r u))) turn

theorem faulted_rpu (c : Chan) (p : Nat) (u : State) :
    (faulted c p u).rpu = u.rpu.notingAll (faultRecord c p (u.chan c) :: endRecords .drive c (u.chan c)) := by
  rw [faulted, raiseFault_eq, disableChannel_rpu]
  rfl

theorem silentTurn_driverSampled (c : Chan) (u : State) : SilentTurn c u (driverSampled c u) :=
  silentTurn_of_turns (turns_mapChan c (fun ch => { ch with driver := (driverSample u c).1 }) u)

/-- The rows that read a pin see the same channels, and the same time base. -/
theorem silentTurn_sampled (c : Chan) (p : Nat) (u : State) : SilentTurn c u (faulted c p (driverSampled c u)) :=
  (turns_mapChan c _ u).trans (silentTurn_faulted c p (driverSampled c u))

@[simp] theorem driverSampled_chan (c : Chan) (u : State) :
    (driverSampled c u).chan c = { u.chan c with driver := (driverSample u c).1 } := State.chan_mapChan_self _ _ _

theorem neededDemand_rest (station : StationState) {ch : Channel} (hu : ch.driver.uncontrolled = false)
    (hk : ch.cfg.kind.isElement = true) (hst : ch.chc.state ≠ .running) : neededDemand station ch = 0 := by
  rw [neededDemand, hu, if_neg (by decide), if_pos hk, targetLevel, if_neg fun h => hst h.2.1, demandFor]
  omega

/-- Settles O35. -/
theorem silentElementIsReportedOrCleared : Obligations.SilentElementIsReportedOrCleared := by
  intro s c pins h hworks hsus hsettle hsense
  have judged := driverSample_judged hsus hsettle hsense
  have element : (s.chan c).cfg.kind.isElement = true := (Bool.and_eq_true_iff.1 hworks).1
  refine ⟨fun hunc hout hmis hacc => ?_, fun hunc hclear => ?_⟩
  · have sample : driverSample (withInputs pins s) c = ({ (s.chan c).driver with onMismatch := 0 }, .stuckOff) := by
      rw [judged, hunc, judgeControlled_silent hout hmis]
      rfl
    have due : verdictIs .stuckOff (withInputs pins s) c = true := by
      rw [verdictIs, withInputs_chan, hworks, sample]
      rfl
    obtain ⟨t, row, commanded⟩ := live_verdict (due := fun s => verdictIs .stuckOff s c) h hworks due
      (congrArg Prod.snd sample)
    have applied : applyVerdict c .stuckOff (driverSampled c (withInputs pins s)) =
        recompute (faulted c 0 (driverSampled c (withInputs pins s))) := rfl
    rw [applied] at commanded
    have turned := channelTurned_recompute (silentTurn_sampled c 0 (withInputs pins s))
    obtain ⟨q, disables⟩ := faulted_eq c 0 (driverSampled c (withInputs pins s))
    have disabled := disableChannel_chan c (reporting q (driverSampled c (withInputs pins s)))
    have records := faulted_rpu c 0 (driverSampled c (withInputs pins s))
    rw [← disables, reporting_chan, driverSampled_chan, sample] at disabled
    rw [driverSampled_chan] at records
    have cfg : ((faulted c 0 (driverSampled c (withInputs pins s))).chan c).cfg = (s.chan c).cfg :=
      ((silentTurn_sampled c 0 (withInputs pins s)).fixtures c).1
    have rpu : (faulted c 0 (driverSampled c (withInputs pins s))).rpu =
        s.rpu.notingAll (faultRecord c 0 (s.chan c) :: endRecords .drive c (s.chan c)) := records
    generalize faulted c 0 (driverSampled c (withInputs pins s)) = v at *
    obtain ⟨state, driver, -, -, ended, idle⟩ := disabled
    have rest := commanded.rest rfl driver (by rw [cfg]; exact element) state hacc
    obtain ⟨off, on, -, unc, -⟩ := rest
    have kept := turned.after.channel.trans (commanded.keepsChannel c)
    obtain ⟨⟨chc, pgu, -⟩, -⟩ := kept
    have reported : t.rpu = s.rpu.notingAll (faultRecord c 0 (s.chan c) :: endRecords .drive c (s.chan c)) :=
      commanded.rpu.trans (turned.rpu.trans rpu)
    refine ⟨t, row, by rw [chc, state], off, on, unc.trans hunc, fun hp => ⟨?_, ?_, ?_⟩, fun hi => ⟨?_, ?_⟩, ?_,
      fun d hd => ?_, turned.line.trans commanded.line, ?_, commanded.mtb.trans turned.mtb,
      commanded.ssv.trans turned.ssv⟩
    · rw [chc, (ended hp).1]
    · rw [pgu, (ended hp).2]
      rfl
    · rw [reported, endRecords, if_pos hp, raise_eq, raise_eq]
      rfl
    · rw [chc, idle hi]
      rfl
    · rw [reported, endRecords, if_neg (by rw [hi]; decide), raise_eq]
      rfl
    · rw [commanded.self]
      exact turned.cfg
    · exact (turned.others d hd).trans (commanded.keepsChannel d)
    · exact turned.inputs.trans commanded.inputs
  · have sample : driverSample (withInputs pins s) c =
        ({ (s.chan c).driver with uncontrolled := false, clearCount := 0, offMismatch := 0 }, .cleared) := by
      rw [judged, hunc, if_pos rfl, judgeUncontrolled_silent hclear]
    have due : verdictIs .cleared (withInputs pins s) c = true := by
      rw [verdictIs, withInputs_chan, hworks, sample]
      rfl
    obtain ⟨t, row, commanded⟩ := live_verdict (due := fun s => verdictIs .cleared s c) h hworks due
      (congrArg Prod.snd sample)
    have applied : applyVerdict c .cleared (driverSampled c (withInputs pins s)) =
        recompute (driverSampled c (withInputs pins s)) := rfl
    rw [applied] at commanded
    have turned := channelTurned_recompute (silentTurn_driverSampled c (withInputs pins s))
    have self := driverSampled_chan c (withInputs pins s)
    rw [sample] at self
    have rpu : (driverSampled c (withInputs pins s)).rpu = s.rpu := rfl
    have others (d : Chan) (hd : d ≠ c) : (driverSampled c (withInputs pins s)).chan d = s.chan d :=
      State.chan_mapChan_ne _ _ _ _ hd
    generalize driverSampled c (withInputs pins s) = v at *
    have apart := followCeiling_apart v.mtb.frequency { (recompute v).chan c with driver := (v.chan c).driver }
    rw [← recompute_driver, self] at apart
    obtain ⟨-, off, unc, clear⟩ := driveCommand_check s.mtb.frequency (comingRising s) ((recompute v).chan c)
    rw [apart] at off unc clear
    obtain ⟨announced, -⟩ := recompute_claim_cases v c
    have claim : (t.chan c).claim = ((recompute v).chan c).claim := by rw [commanded.self]
    have programs (d : Chan) : KeepsProgram d s v := by
      by_cases hd : d = c
      · subst hd
        rw [KeepsProgram, self]
        exact ⟨rfl, rfl, rfl⟩
      · rw [KeepsProgram, others d hd]
        exact ⟨rfl, rfl, rfl⟩
    have settled := (settles_recompute v).channel
    refine ⟨t, row, ?_, ?_, ?_, fun hst => ?_, fun d => ?_, turned.line.trans commanded.line,
      KeepsInputsAndPeers.trans turned.inputs commanded.inputs, commanded.rpu.trans (turned.rpu.trans rpu),
      commanded.mtb.trans turned.mtb, commanded.ssv.trans turned.ssv⟩
    · rw [commanded.self]
      exact unc
    · rw [commanded.self]
      exact clear
    · rw [commanded.self]
      exact off
    · rw [claim, announced, self]
      exact neededDemand_rest _ rfl element hst
    · obtain ⟨v1, v2, v3⟩ := programs d
      obtain ⟨⟨r1, r2, r3⟩, -⟩ := settled d
      obtain ⟨⟨t1, t2, t3⟩, -⟩ := commanded.keepsChannel d
      exact ⟨t1.trans (r1.trans v1), t2.trans (r2.trans v2), t3.trans (r3.trans v3)⟩

/-! ### The entry to SAFE -/

theorem silentTurn_safeChannel (c : Chan) (u : State) : SilentTurn c u (safeChannel c u) := by
  unfold safeChannel
  split
  · exact silentTurn_endIfProgram c _ u
  · exact silentTurn_of_turns (.refl _ u)

theorem othersTurned_safeChannel {c d : Chan} (hd : d ≠ c) (u : State) : OthersTurned c u (safeChannel d u) := by
  unfold safeChannel
  split
  · exact othersTurned_endIfProgram hd _ u
  · exact .refl c u

/-- The records of a channel on entry to SAFE (R14, R193). -/
def safeRecords (c : Chan) (ch : Channel) : List EventRecord :=
  if ch.cfg.kind.isElement then endRecords .safe c ch else []

theorem safeChannel_rpu (c : Chan) (u : State) : (safeChannel c u).rpu = u.rpu.notingAll (safeRecords c (u.chan c)) := by
  unfold safeChannel safeRecords
  split
  · exact endIfProgram_rpu c _ u
  · rfl

theorem safeRecords_congr (c : Chan) {u v : State} (k : KeepsProgram c u v) :
    safeRecords c (v.chan c) = safeRecords c (u.chan c) := by
  rw [safeRecords, safeRecords, endRecords_congr c k, k.2.2]

/-- `u` with the station SAFE and the relay released (R14). -/
def safeStation (u : State) : State :=
  { u with ssv := { u.ssv with station := .safe, prior := none, relay := false } }

theorem enterSafe_eq (u : State) :
    enterSafe u = if u.ssv.station = .safe then u else forChans safeChannel (safeStation u) := rfl

/-- A channel that an entry to SAFE does not end: it has no program, or drives no element, or the station is SAFE. -/
theorem enterSafe_spares {c : Chan} {u : State}
    (h : u.ssv.station = .safe ∨ (u.chan c).cfg.kind.isElement = false ∨ (u.chan c).chc.state.hasProgram = false) :
    OthersTurned c u (enterSafe u) := by
  rw [enterSafe_eq]
  split
  · exact .refl c u
  · next hst =>
    obtain ⟨v, hv, hw⟩ := forChans_isolates (f := safeChannel) (c := c)
      (fun _ hd u => othersTurned_safeChannel hd u) (safeStation u)
    have ⟨⟨⟨chc, _, cfg⟩, _⟩, _, _⟩ := hv
    have chc : (v.chan c).chc = (u.chan c).chc := chc
    have cfg : (v.chan c).cfg = (u.chan c).cfg := cfg
    have spared : safeChannel c v = v := by
      unfold safeChannel endIfProgram
      rw [chc, cfg]
      obtain h | h | h := h
      · exact absurd h hst
      · simp [h]
      · simp [h]
    have start : OthersTurned c u (safeStation u) := ⟨⟨⟨rfl, rfl, rfl⟩, rfl, rfl, rfl, rfl⟩, fun h => ⟨h, rfl⟩, rfl⟩
    rw [spared] at hw
    exact start.trans (hv.trans hw)

/-- An element program that an entry to SAFE ends (R14). -/
theorem enterSafe_ends {c : Chan} {u : State} (hst : u.ssv.station ≠ .safe)
    (hk : (u.chan c).cfg.kind.isElement = true) (hp : (u.chan c).chc.state.hasProgram = true) :
    ((enterSafe u).chan c).chc = { state := .idle, causes := ⟨false, false⟩, target := none, endCause := .safe } := by
  rw [enterSafe_eq, if_neg hst]
  obtain ⟨v, hv, hw⟩ := forChans_isolates (f := safeChannel) (c := c)
    (fun _ hd u => othersTurned_safeChannel hd u) (safeStation u)
  obtain ⟨⟨⟨chc, -, cfg⟩, -⟩, -⟩ := hv
  have chc : (v.chan c).chc = (u.chan c).chc := chc
  have cfg : (v.chan c).cfg = (u.chan c).cfg := cfg
  have ends : safeChannel c v = endProgram c .safe .idle v := by
    unfold safeChannel endIfProgram
    rw [chc, cfg, if_pos hk, if_pos hp]
  rw [ends] at hw
  exact hw.channel.1.1.trans (endProgram_ends c .safe .idle v).chc

/-- What an entry to SAFE leaves of the station. -/
theorem enterSafe_station (u : State) :
    ∃ r, (enterSafe u) = { u with
      ssv := (enterSafe u).ssv, chans := (enterSafe u).chans, igu := (enterSafe u).igu, rpu := r } ∧
    ∀ c, ((enterSafe u).chan c).cfg = (u.chan c).cfg := by
  rw [enterSafe_eq]
  split
  · exact ⟨u.rpu, rfl, fun _ => rfl⟩
  · obtain ⟨r, turns⟩ := forChans_station silentTurn_safeChannel (safeStation u)
    refine ⟨(forChans safeChannel (safeStation u)).rpu, ?_, fun c => (turns.fixtures c).1⟩
    have station := turns.station
    generalize forChans safeChannel (safeStation u) = v at *
    have all : v = reporting v.rpu (reporting r v) := rfl
    conv_lhs => rw [all, station]
    have ssv : v.ssv = (safeStation u).ssv := (congrArg State.ssv station :)
    rw [ssv]
    rfl

/-- The records of an entry to SAFE (R14, R193). -/
theorem enterSafe_rpu (u : State) :
    (enterSafe u).rpu = u.rpu.notingAll
      (if u.ssv.station = .safe then [] else ([0, 1, 2, 3] : List Chan).flatMap fun c => safeRecords c (u.chan c)) := by
  rw [enterSafe_eq]
  split
  · rfl
  · exact forChans_rpu safeChannel_rpu (fun hd u => othersTurned_safeChannel hd u)
      (fun c _ _ => safeRecords_congr c) (safeStation u)

/-! ### STUCK_ON -/

/-- Channel `c` after a STUCK_ON: DISABLED, and its load uncontrolled (R116). -/
def stuckChannel (c : Chan) (u : State) : State :=
  (faulted c 1 u).mapChan c fun ch => { ch with driver := { ch.driver with uncontrolled := true, clearCount := 0 } }

theorem applyVerdict_stuckOn (c : Chan) (u : State) :
    applyVerdict c .stuckOn u = recompute (makeRequest (enterSafe (stuckChannel c u))) := rfl

theorem makeRequest_eq {u : State} (h : u.ssv.station = .safe) :
    makeRequest u = { u with apu := { u.apu with request := true, requestAfterBuild := true } } := by
  unfold makeRequest
  rw [if_neg (by rw [h]; decide)]

/-- The station after a STUCK_ON (R14, R116). -/
structure StuckReported (c : Chan) (s v : State) : Prop where
  state : (v.chan c).chc.state = .disabled
  driver : (v.chan c).driver =
    { (s.chan c).driver with offMismatch := 0, uncontrolled := true, clearCount := 0 }
  cfg : ∀ d, (v.chan d).cfg = (s.chan d).cfg
  first : (s.chan c).chc.state ≠ .disabled → (v.chan c).chc.endCause = .drive
  again : (s.chan c).chc.state = .disabled → (v.chan c).chc = (s.chan c).chc
  request : v.apu.request = true
  safe : v.ssv.station = .safe
  relay : s.ssv.station ≠ .safe → v.ssv.relay = false
  rpu : v.rpu = s.rpu.notingAll (faultRecord c 1 (s.chan c) :: endRecords .drive c (s.chan c) ++
    if s.ssv.station = .safe then []
    else ([0, 1, 2, 3] : List Chan).flatMap fun d => if d = c then [] else safeRecords d (s.chan d))
  ended : ∀ d, d ≠ c → s.ssv.station ≠ .safe → (s.chan d).cfg.kind.isElement = true →
    (s.chan d).chc.state.hasProgram = true →
    (v.chan d).chc = { state := .idle, causes := ⟨false, false⟩, target := none, endCause := .safe }
  spared : ∀ d, d ≠ c → (s.chan d).cfg.kind.isElement = false → KeepsProgram d s v
  mtb : v.mtb = s.mtb
  line : KeepsLine s v
  inputs : KeepsInputsAndPeers s v

theorem stuckReported {c : Chan} {pins : InputPins} {s : State}
    (hv : driverSample (withInputs pins s) c = ({ (s.chan c).driver with offMismatch := 0 }, .stuckOn)) :
    StuckReported c s (makeRequest (enterSafe (stuckChannel c (driverSampled c (withInputs pins s))))) := by
  have faultTurn : SilentTurn c (withInputs pins s) (faulted c 1 (driverSampled c (withInputs pins s))) :=
    silentTurn_sampled c 1 (withInputs pins s)
  have turn : SilentTurn c (withInputs pins s) (stuckChannel c (driverSampled c (withInputs pins s))) :=
    Turns.trans faultTurn (turns_mapChan c
      (fun ch => { ch with driver := { ch.driver with uncontrolled := true, clearCount := 0 } }) (reporting _ _))
  obtain ⟨q, disables⟩ := faulted_eq c 1 (driverSampled c (withInputs pins s))
  have disabled := disableChannel_chan c (reporting q (driverSampled c (withInputs pins s)))
  have records := faulted_rpu c 1 (driverSampled c (withInputs pins s))
  rw [← disables, reporting_chan, driverSampled_chan, hv] at disabled
  rw [driverSampled_chan] at records
  have rpu : (stuckChannel c (driverSampled c (withInputs pins s))).rpu =
      s.rpu.notingAll (faultRecord c 1 (s.chan c) :: endRecords .drive c (s.chan c)) := records
  have self : (stuckChannel c (driverSampled c (withInputs pins s))).chan c = _ := State.chan_mapChan_self _ _ _
  generalize faulted c 1 (driverSampled c (withInputs pins s)) = m0 at disabled self
  generalize stuckChannel c (driverSampled c (withInputs pins s)) = m at *
  have station := turn.station
  have at_ : Turns (· = c) (withInputs pins s) (reporting s.rpu m) := turn
  have mssv : m.ssv = s.ssv := (congrArg State.ssv station :)
  have mline : KeepsLine s m := ⟨(congrArg State.lif station :), (congrArg State.configOpen station :),
    (congrArg State.stationConfigured station :), (congrArg State.lastStarted station :),
    (congrArg State.pending station :)⟩
  have mmtb : m.mtb = s.mtb := (congrArg State.mtb station :)
  have mapu : m.apu = s.apu := (congrArg State.apu station :)
  have mgib : m.gib = s.gib := (congrArg State.gib station :)
  have mheld : m.held = s.held := (congrArg State.held station :)
  have mpins : m.pins = (withInputs pins s).pins := (congrArg State.pins station :)
  have mcfg (d : Chan) : (m.chan d).cfg = (s.chan d).cfg := (at_.fixtures d).1
  have mother (d : Chan) (hd : d ≠ c) : KeepsProgram d s m := (at_.keepsChannel hd).1
  obtain ⟨state, driver, again, first, -, -⟩ := disabled
  have mstate : (m.chan c).chc.state = .disabled := by rw [self]; exact state
  have mchc : (m.chan c).chc = (m0.chan c).chc := by rw [self]
  have spares : OthersTurned c m (enterSafe m) := enterSafe_spares (.inr (.inr (by rw [mstate]; rfl)))
  obtain ⟨⟨⟨echc, -, -⟩, -⟩, -, edriver⟩ := spares
  obtain ⟨r, est, ecfg⟩ := enterSafe_station m
  have essv := enterSafe_ssv m
  have erpu := enterSafe_rpu m
  have safe : (enterSafe m).ssv.station = .safe := by
    rw [essv]
    split
    · assumption
    · rfl
  have relay (h : s.ssv.station ≠ .safe) : (enterSafe m).ssv.relay = false := by
    rw [essv, if_neg (by rwa [mssv])]
  have ended (d : Chan) (hd : d ≠ c) (h : s.ssv.station ≠ .safe) (hk : (s.chan d).cfg.kind.isElement = true)
      (hp : (s.chan d).chc.state.hasProgram = true) :
      ((enterSafe m).chan d).chc = { state := .idle, causes := ⟨false, false⟩, target := none, endCause := .safe } :=
    enterSafe_ends (by rwa [mssv]) (by rwa [mcfg]) (by rwa [(mother d hd).1])
  have spared (d : Chan) (hd : d ≠ c) (hk : (s.chan d).cfg.kind.isElement = false) : KeepsProgram d s (enterSafe m) := by
    obtain ⟨e1, e2, e3⟩ := (enterSafe_spares (c := d) (u := m) (.inr (.inl (by rwa [mcfg])))).channel.1
    obtain ⟨m1, m2, m3⟩ := mother d hd
    exact ⟨e1.trans m1, e2.trans m2, e3.trans m3⟩
  have safeRecs (d : Chan) : safeRecords d (m.chan d) = if d = c then [] else safeRecords d (s.chan d) := by
    split
    · next hd =>
      subst hd
      rw [safeRecords, endRecords, mstate]
      exact ite_self _
    · next hd => exact safeRecords_congr d (mother d hd)
  rw [funext safeRecs, mssv, rpu, ← Rpu.notingAll_append] at erpu
  rw [makeRequest_eq safe]
  generalize enterSafe m = e at *
  have einputs : KeepsInputsAndPeers m e := by
    rw [est]
    exact ⟨rfl, rfl, rfl, rfl, rfl, rfl, rfl, rfl, rfl⟩
  have eline : KeepsLine m e := by
    rw [est]
    exact ⟨rfl, rfl, rfl, rfl, rfl⟩
  have emtb : e.mtb = m.mtb := by rw [est]
  have minputs : KeepsInputsAndPeers s m := by simp [KeepsInputsAndPeers, mapu, mgib, mheld, mpins, withInputs]
  refine ⟨(congrArg Chc.state echc).trans mstate, edriver.trans ?_, fun d => (ecfg d).trans (mcfg d), fun h => ?_,
    fun h => ?_, rfl, safe, relay, erpu, ended, spared, emtb.trans mmtb, mline.trans eline,
    KeepsInputsAndPeers.trans minputs einputs⟩
  · rw [self, driver]
  · exact (congrArg Chc.endCause (echc.trans mchc)).trans (first h)
  · exact (echc.trans mchc).trans (again h)

/-- The records of the others on a STUCK_ON, as the statement lists them. -/
theorem flatMap_safeRecords (c : Chan) (s : State) (l : List Chan) :
    (if s.ssv.station = .safe then [] else l.flatMap fun d => if d = c then [] else safeRecords d (s.chan d)) =
      (l.filter fun x => decide (x ≠ c ∧ s.ssv.station ≠ .safe) && (s.chan x).cfg.kind.isElement &&
          (s.chan x).chc.state.hasProgram).map fun x =>
        { kind := .programEnd, channel := some x, slot := (s.chan x).pgu.current, parameter := 6 } := by
  by_cases hst : s.ssv.station = .safe
  · simp [hst]
  rw [if_neg hst]
  induction l with
  | nil => rfl
  | cons x l ih =>
    rw [List.flatMap_cons, ih, List.filter_cons]
    by_cases hx : x = c
    · simp [hx]
    · rw [if_neg hx, safeRecords, endRecords]
      cases (s.chan x).cfg.kind.isElement <;> cases (s.chan x).chc.state.hasProgram <;> simp [hx, hst]
      rfl

theorem endRecords_drive (c : Chan) (s : State) :
    endRecords .drive c (s.chan c) =
      (([c] : List Chan).filter fun x => (s.chan x).chc.state.hasProgram).map fun x =>
        { kind := .programEnd, channel := some x, slot := (s.chan x).pgu.current, parameter := 5 } := by
  have all := flatMap_endRecords .drive s [c]
  rw [List.flatMap_cons, List.flatMap_nil, List.append_nil] at all
  exact all

/-- Settles O36. -/
theorem stuckOnTakesTheStationToSafe : Obligations.StuckOnTakesTheStationToSafe := by
  intro s i c d pins h hworks hsus hsettle hunc hout hsense hmis hacc hi
  have element : (s.chan c).cfg.kind.isElement = true := (Bool.and_eq_true_iff.1 hworks).1
  have sample : driverSample (withInputs pins s) c = ({ (s.chan c).driver with offMismatch := 0 }, .stuckOn) := by
    rw [driverSample_judged hsus hsettle hsense, hunc, judgeControlled_conducting hout hmis]
    rfl
  have verdict : verdictIs .stuckOn (withInputs pins s) c = true := by
    rw [verdictIs, withInputs_chan, hworks, sample]
    rfl
  have row : ∃ t, exec i s = .next t ∧ Commanded s.mtb.frequency (comingRising s) c
      (applyVerdict c .stuckOn (driverSampled c (withInputs pins s))) t := by
    obtain ⟨rfl, hst⟩ | ⟨rfl, hst⟩ := hi
    · refine live_verdict (due := fun s => verdictIs .stuckOn s c && (s.chan c).chc.state != .disabled) h hworks ?_
        (congrArg Prod.snd sample)
      rw [verdict, withInputs_chan]
      simpa using hst
    · refine live_verdict (due := fun s => verdictIs .stuckOn s c && (s.chan c).chc.state == .disabled) h hworks ?_
        (congrArg Prod.snd sample)
      rw [verdict, withInputs_chan, hst]
      rfl
  obtain ⟨t, row, commanded⟩ := row
  have reported := stuckReported sample
  rw [applyVerdict_stuckOn] at commanded
  generalize makeRequest (enterSafe (stuckChannel c (driverSampled c (withInputs pins s)))) = v at commanded reported
  obtain ⟨off, -, -, unc, clear⟩ := commanded.rest rfl reported.driver (by rw [reported.cfg]; exact element)
    reported.state hacc
  have chc (d : Chan) : (t.chan d).chc = (v.chan d).chc :=
    (commanded.keepsChannel d).1.1.trans (recompute_chan_chc v d)
  have claim : (t.chan c).claim.announced = neededDemand v.ssv.station (v.chan c) := by
    rw [commanded.self]
    exact (recompute_claim_cases v c).1
  have line := reported.line
  have rline := (apportioned_recompute v).line
  have rinputs : KeepsInputsAndPeers v (recompute v) := by simp [KeepsInputsAndPeers]
  refine ⟨t, row, by rw [chc, reported.state], unc, clear, off, ?_, ?_, ?_, fun hst => ?_, ?_, fun hst => ?_,
    fun hst => ?_, ?_, fun hd hst hk hp => ?_, fun hd hk => ?_, ?_, line.trans (rline.trans commanded.line),
    KeepsInputsAndPeers.trans reported.inputs (KeepsInputsAndPeers.trans rinputs commanded.inputs)⟩
  · rw [claim, neededDemand, reported.driver, if_pos rfl, reported.cfg]
  · rw [ownClass, unc]
    rfl
  · rw [commanded.ssv, recompute_ssv, reported.safe]
  · rw [commanded.ssv, recompute_ssv, reported.relay hst]
  · rw [commanded.apu]
    exact (recompute_request_iff v).2 (.inl reported.request)
  · rw [chc, reported.first hst]
  · rw [chc, reported.again hst]
  · rw [commanded.rpu, recompute_rpu, reported.rpu, foldl_raise_eq, reporting_rpu, flatMap_safeRecords, endRecords_drive]
    rfl
  · rw [chc, reported.ended d hd hst hk hp]
  · obtain ⟨v1, v2, v3⟩ := reported.spared d hd hk
    obtain ⟨⟨t1, t2, t3⟩, -⟩ := commanded.keepsChannel d
    exact ⟨t1.trans ((recompute_chan_chc v d).trans v1), t2.trans ((recompute_chan_pgu v d).trans v2),
      t3.trans ((recompute_chan_cfg v d).trans v3)⟩
  · rw [commanded.mtb, recompute_mtb, reported.mtb]

end Sys2Proof.Machine
end

section
/-! Settles O37: the holder in LINE_WAIT and in SPARK; and what the rows of every burner have in common. -/

namespace Sys2Proof.Machine

/-! ### A half-cycle on a burner -/

/-- The sample of burner `c` taken in `s`, with the note of SPK_SENSE, and `e` as the note of an empty event queue. -/
def tookSample (c : Chan) (e : Bool) (s : State) : State :=
  { ignitionShare c s with
    taken := .ignition c :: (begun s (ignitionShare c s) ++ s.taken), sparkRead := some s.pins.inputs.spark
    eventsNew := e }

/-- The note of a reading has no part in what comes after a share in its event. -/
theorem trail_read (e : Bool) (q : Option Bool) (rising : Bool) (u : HalfCycleUnit) (s : State) :
    trail rising u { s with sparkRead := q, eventsNew := e } =
      { trail rising u s with sparkRead := q, eventsNew := e } := by
  have same : ∀ t : State, { t with sparkRead := q, eventsNew := e } = withClock t.mtb t.pins t.clockTaken q e t :=
    fun _ => rfl
  have kept := keepsClock_trail s.mtb s.pins s.clockTaken q e rising u s fun _ => rfl
  have quiet : trail rising u s =
      withClock s.mtb s.pins s.clockTaken s.sparkRead s.eventsNew (trail rising u s) :=
    keepsClock_trail s.mtb s.pins s.clockTaken s.sparkRead s.eventsNew rising u s fun _ => rfl
  rw [same s, kept]
  conv_rhs => rw [quiet]
  rfl

theorem trail_pins (rising : Bool) (u : HalfCycleUnit) (s : State) : (trail rising u s).pins = s.pins :=
  (keepsClock_foldl s.mtb s.pins s.clockTaken s.sparkRead s.eventsNew rising (companions u) s fun _ _ _ => rfl).2

theorem lead_pins (rising : Bool) (u : HalfCycleUnit) (s : State) : (lead rising u s).pins = s.pins :=
  (keepsClock_foldl s.mtb s.pins s.clockTaken s.sparkRead s.eventsNew rising (earlierShares u) s fun _ _ _ => rfl).2

section
variable {c : Chan} {pins : InputPins} {s₀ s : State} (h : LeadsTo (.ignition c) (withInputs pins s₀) s)
include h

/-- The row of a burner's share, where it is due. -/
theorem live_ignitionShare {due : State → Bool} (hdue : due s = true) :
    live (takeShareWith pins (.ignition c) due) s₀ =
      .next (trail (comingRising s₀) (.ignition c) (tookSample c s₀.rpu.events.isEmpty s)) := by
  obtain ⟨⟨hs, -⟩, hlead, -, hmode, -, hfree⟩ := h
  have row := live_takeShareWith (s := s₀) hs hlead (mayTake_iff.2 ⟨hmode, hfree⟩) hdue
  have share := deliverOne_untaken (comingRising s₀) _ s hfree
  have pinned : (deliverEvent (comingRising s₀) (.ignition c) s).pins = s.pins := by
    rw [deliverEvent, trail_pins, deliverOne_pins]
  have took : tookSample c s₀.rpu.events.isEmpty s =
      { deliverOne (comingRising s₀) (.ignition c) s with
        sparkRead := some s.pins.inputs.spark, eventsNew := s₀.rpu.events.isEmpty } := by
    rw [share]
    rfl
  rw [row, took, trail_read, ← pinned]
  rfl

/-- The levels that the share reads (R128). -/
theorem inputs_of_leads : s.pins.inputs = levelsRead pins s₀ := by
  rw [h.2.1, lead_pins]
  rfl

theorem spark_of_leads : s.pins.inputs.spark = (levelsRead pins s₀).spark := by rw [inputs_of_leads h]

theorem flameSample_blanked (hs : (levelsRead pins s₀).spark = true) : flameSample s c = .blanked := by
  rw [flameSample, spark_of_leads h, if_pos hs]

theorem flameSample_flame (hs : (levelsRead pins s₀).spark = false)
    (hf : (s.chan c).cfg.params.threshold ≤ (pins.flame.get c).toNat) : flameSample s c = .flame := by
  rw [flameSample, inputs_of_leads h, if_neg (by simp [hs])]
  exact if_pos hf

theorem flameSample_noFlame (hs : (levelsRead pins s₀).spark = false)
    (hf : (pins.flame.get c).toNat < (s.chan c).cfg.params.threshold) : flameSample s c = .noFlame := by
  rw [flameSample, inputs_of_leads h, if_neg (by simp [hs])]
  exact if_neg (not_le.2 hf)

theorem hertz_of_leads : 0 < hertz s.mtb.frequency := by
  obtain ⟨-, -, -, -, hf, -⟩ := h
  cases hq : s.mtb.frequency with
  | none => rw [hq] at hf; exact nomatch hf
  | some f => cases f <;> decide

end

/-! ### A burner that moves with its valve and the unit alone -/

/-- `s` with the ignition unit at `g`, and burner `c` at `b` with its valve at `v`. -/
def burnerSet (c : Chan) (g : Igu) (b : Burner) (v : Nat) (s : State) : State :=
  { s with igu := g }.mapChan c fun ch => { ch with burner := b, valve := v }

/-- What such a state keeps, whatever shares it has marked and whatever it notes. -/
structure BurnerMoved (c : Chan) (g : Igu) (b : Burner) (v : Nat) (s t : State) : Prop where
  burner : (t.chan c).burner = b
  valve : (t.chan c).valve = v
  igu : t.igu = g
  others : ∀ d, d ≠ c → t.chan d = s.chan d
  programs : KeepsPrograms s t
  line : KeepsLine s t
  inputs : KeepsInputsAndPeers s t
  pins : t.pins = s.pins
  rpu : t.rpu = s.rpu
  mtb : t.mtb = s.mtb
  ssv : t.ssv = s.ssv
  apu : t.apu = s.apu

theorem burnerMoved_burnerSet (c : Chan) (g : Igu) (b : Burner) (v : Nat) (s : State) (l : List HalfCycleUnit)
    (q : Option Bool) (e : Bool) :
    BurnerMoved c g b v s { burnerSet c g b v s with taken := l, sparkRead := q, eventsNew := e } := by
  have self : (burnerSet c g b v s).chan c = { s.chan c with burner := b, valve := v } := State.chan_mapChan_self _ _ _
  have others (d : Chan) (hd : d ≠ c) : (burnerSet c g b v s).chan d = s.chan d := State.chan_mapChan_ne _ _ _ _ hd
  have programs (d : Chan) : KeepsProgram d s (burnerSet c g b v s) := by
    by_cases hd : d = c
    · subst hd
      rw [KeepsProgram, self]
      exact ⟨rfl, rfl, rfl⟩
    · rw [KeepsProgram, others d hd]
      exact ⟨rfl, rfl, rfl⟩
  exact ⟨(congrArg Channel.burner self :), (congrArg Channel.valve self :), rfl, others, programs,
    ⟨rfl, rfl, rfl, rfl, rfl⟩, ⟨rfl, rfl, rfl, rfl, rfl, rfl, rfl, rfl, rfl⟩, rfl, rfl, rfl, rfl, rfl⟩

section
variable {c : Chan} {s : State} {b : Burner}

/-- A half-cycle that moves the record alone. -/
theorem ignitionShare_stays (h : ignitionStep s c = (b, .stays)) :
    ignitionShare c s = burnerSet c s.igu b (s.chan c).valve s := by
  rw [ignitionShare, h]
  show (s.mapChan c fun ch => { ch with burner := b }) =
    s.mapChan c fun ch => { ch with burner := b, valve := (s.chan c).valve }
  exact mapChan_congr rfl

/-- A half-cycle that ends with the entry to SPARK (R132). -/
theorem ignitionShare_sparkStart (h : ignitionStep s c = (b, .sparkStart)) :
    ignitionShare c s =
      burnerSet c { s.igu with spark := true } (b.atSpark s.mtb.frequency (s.chan c).cfg.params)
        (s.chan c).cfg.params.position s := by
  rw [ignitionShare, h]
  show ({ (s.mapChan c fun ch => { ch with burner := b }) with igu := { s.igu with spark := true } } : State).mapChan c
    (fun ch => { ch with burner := ch.burner.atSpark s.mtb.frequency ch.cfg.params, valve := ch.cfg.params.position }) = _
  exact mapChan_mapChan c (fun ch => { ch with burner := b })
    (fun ch => { ch with burner := ch.burner.atSpark s.mtb.frequency ch.cfg.params, valve := ch.cfg.params.position })
    { s with igu := { s.igu with spark := true } }

/-- A half-cycle that ends the spark time (R133). -/
theorem ignitionShare_sparkEnd (h : ignitionStep s c = (b, .sparkEnd)) :
    ignitionShare c s = burnerSet c { s.igu with spark := false } { b with phase := .prove } (s.chan c).valve s := by
  have both := mapChan_mapChan c (fun ch => { ch with burner := b })
    (fun ch => { ch with burner := { ch.burner with phase := .prove } })
    { s with igu := { s.igu with spark := false } }
  rw [ignitionShare, h]
  exact both.trans (mapChan_congr rfl)

end

/-- The state of a row whose share moves the burner alone. -/
theorem tookSample_moved {c : Chan} {g : Igu} {b : Burner} {v : Nat} {s : State} (e : Bool)
    (h : ignitionShare c s = burnerSet c g b v s) : BurnerMoved c g b v s (tookSample c e s) := by
  rw [tookSample, h]
  exact burnerMoved_burnerSet c g b v s _ _ e

/-- A share that moves neither the holder, nor a controller, nor a phase to PURGE begins nothing. -/
theorem begun_burnerSet {c : Chan} {g : Igu} {b : Burner} {v : Nat} {s : State} (hg : g.holder = s.igu.holder)
    (hb : b.phase ≠ .purge) : begun s (burnerSet c g b v s) = [] := by
  obtain moved := burnerMoved_burnerSet c g b v s (burnerSet c g b v s).taken (burnerSet c g b v s).sparkRead
    (burnerSet c g b v s).eventsNew
  have holder : newHolder s (burnerSet c g b v s) = [] := if_pos hg.symm
  have proven : newlyProven s (burnerSet c g b v s) = [] := by
    rw [newlyProven, List.filter_eq_nil_iff.2, List.map_nil]
    intro d _ hd
    have chc : ((burnerSet c g b v s).chan d).chc = (s.chan d).chc := (moved.programs d).1
    rw [chc, Bool.and_eq_true, beq_iff_eq, beq_iff_eq] at hd
    rw [hd.1] at hd
    exact nomatch hd.2
  have purges : newPurges s (burnerSet c g b v s) = [] := by
    rw [newPurges, List.filter_eq_nil_iff.2, List.map_nil]
    intro d _ hd
    rw [Bool.and_eq_true, bne_iff_ne, beq_iff_eq] at hd
    by_cases hdc : d = c
    · subst hdc
      have burner : ((burnerSet d g b v s).chan d).burner = b := moved.burner
      rw [burner] at hd
      exact hb hd.2
    · have other : (burnerSet c g b v s).chan d = s.chan d := moved.others d hdc
      rw [other] at hd
      exact hd.1 hd.2
  rw [begun, holder, proven, purges]
  rfl

/-! ### A half-cycle in LINE_WAIT -/

section
variable {b : Burner} {x : Sample} {p : BurnerParams} {f : Nat} {sp : Bool}

theorem sampled_falseFlame (b : Burner) (x : Sample) :
    (b.sampled x).falseFlame = b.falseFlame ∧ (b.sampled x).falseTimer = b.falseTimer ∧
    (b.sampled x).quiet = b.quiet ∧ (b.sampled x).attempt = b.attempt := by
  cases x <;> exact ⟨rfl, rfl, rfl, rfl⟩

theorem falseFlameStep_idle (hf : b.falseFlame = false) (h : b.flameOn x p = false) : b.falseFlameStep x p = b := by
  rw [Burner.falseFlameStep, if_neg (by simp [hf]), if_neg (by simp [h])]

theorem falseFlameStep_sets (hf : b.falseFlame = false) (h : b.flameOn x p = true) :
    b.falseFlameStep x p = { b with falseFlame := true, falseTimer := 0 } := by
  rw [Burner.falseFlameStep, if_neg (by simp [hf]), if_pos h]

theorem falseFlameStep_clears (hf : b.falseFlame = true) (h : b.flameOff x p = true) :
    b.falseFlameStep x p = { b with falseFlame := false, falseTimer := 0 } := by
  rw [Burner.falseFlameStep, if_pos hf, if_pos h]

theorem falseFlameStep_counts (hf : b.falseFlame = true) (h : b.flameOff x p = false) :
    b.falseFlameStep x p = { b with falseTimer := b.falseTimer + 1 } := by
  rw [Burner.falseFlameStep, if_pos hf, if_neg (by simp [h])]

theorem quietStep_quiet (f : Nat) (b : Burner) : b.quietStep f false = { b with quiet := min f (b.quiet + 1) } := rfl

/-- With false flame clear after the sample the quiet count decides (R129, R132). -/
theorem lineWaitStep_quiet (h : ((b.sampled x).falseFlameStep x p).falseFlame = false) :
    lineWaitStep f sp x p b =
      (((b.sampled x).falseFlameStep x p).quietStep f sp,
        if f ≤ (((b.sampled x).falseFlameStep x p).quietStep f sp).quiet then .sparkStart else .stays) := by
  have clear : (((b.sampled x).falseFlameStep x p).quietStep f sp).falseFlame = false := h
  rw [lineWaitStep, if_neg (by simp [clear])]

/-- With false flame set after the sample its timer decides (R131). -/
theorem lineWaitStep_false (h : ((b.sampled x).falseFlameStep x p).falseFlame = true) :
    lineWaitStep f sp x p b =
      (((b.sampled x).falseFlameStep x p).quietStep f sp,
        if 20 * f ≤ ((b.sampled x).falseFlameStep x p).falseTimer then .falseFlameLockout else .stays) := by
  have set : (((b.sampled x).falseFlameStep x p).quietStep f sp).falseFlame = true := h
  rw [lineWaitStep, if_pos set]
  rfl

end

/-! ### O37 -/

/-- Settles O37. -/
theorem sparkStartsAndEnds : Obligations.SparkStartsAndEnds := by
  intro s₀ s c pins
  refine ⟨fun h hk hp hff hsp hquiet hflame => ?_, fun h hk hp htime => ?_, rfl⟩
  · obtain ⟨ff, timer, quiet, attempt⟩ := sampled_falseFlame (s.chan c).burner (flameSample s c)
    have quietOn : ((s.chan c).burner.sampled (flameSample s c)).flameOn (flameSample s c) (s.chan c).cfg.params =
        false := by
      by_cases hf : (s.chan c).cfg.params.threshold ≤ (pins.flame.get c).toNat
      · rw [flameSample_flame h hsp hf]
        exact decide_eq_false fun hon => hflame ⟨hf, hon⟩
      · rw [flameSample_noFlame h hsp (not_le.1 hf)]
        rfl
    have idle := falseFlameStep_idle (ff.trans hff) quietOn
    have step := ignitionStep_lineWait hk hp
    rw [lineWaitStep_quiet (by rw [idle]; exact ff.trans hff), idle, spark_of_leads h, hsp, quietStep_quiet,
      if_pos (by rw [quiet]; exact le_min le_rfl hquiet.le)] at step
    have due : outcomeIs .sparkStart s c = true := by
      rw [outcomeIs, step]
      rfl
    have moved := tookSample_moved s₀.rpu.events.isEmpty (ignitionShare_sparkStart step)
    have read : (tookSample c s₀.rpu.events.isEmpty s).sparkRead = some false := by
      rw [← hsp, ← spark_of_leads h]
      rfl
    refine ⟨_, live_ignitionShare (due := fun s => outcomeIs .sparkStart s c) h due, ?_, ?_, ?_, ?_, ?_, ?_, moved.valve,
      moved.igu, ?_, read, moved.programs, moved.line, moved.inputs, moved.rpu, moved.mtb, moved.ssv, moved.apu⟩ <;>
      rw [moved.burner]
    case refine_7 => exact attempt
    all_goals rfl
  · have step := ignitionStep_spark hk hp
    rw [sparkStep, htime, if_pos (by exact le_rfl)] at step
    have due : outcomeIs .sparkEnd s c = true := by
      rw [outcomeIs, step]
      rfl
    have share := ignitionShare_sparkEnd step
    have moved := tookSample_moved s₀.rpu.events.isEmpty share
    have taken : (tookSample c s₀.rpu.events.isEmpty s).taken = .ignition c :: s.taken := by
      rw [tookSample, share, begun_burnerSet (by rfl) (by simp)]
      rfl
    exact ⟨_, live_ignitionShare (due := fun s => outcomeIs .sparkEnd s c) h due, by rw [moved.burner, ← htime], moved.others,
      taken, moved.pins, moved.valve, moved.igu, moved.programs, moved.line, moved.inputs, moved.rpu, moved.mtb,
      moved.ssv, moved.apu⟩

end Sys2Proof.Machine
end

section
/-! Settles O38: a proof of flame; and what the rows of a burner that end its ignition have in common. -/

namespace Sys2Proof.Machine

/-! ### A burner whose share ends in a recomputation -/

/-- The marks and the notes are no part of what a turn moves. -/
theorem ChannelTurned.read {c : Chan} {s v t : State} (h : ChannelTurned c s v t) (l : List HalfCycleUnit)
    (q : Option Bool) (e : Bool) : ChannelTurned c s v { t with taken := l, sparkRead := q, eventsNew := e } :=
  ⟨⟨h.after.channel, h.after.driver⟩, h.burner, h.unqueued, h.rpu, h.cfg, h.others, h.line, h.inputs, h.mtb, h.ssv,
    h.follows⟩

/-- The state of a row whose share moves a channel and settles. -/
theorem tookSample_turned {c : Chan} {s m v : State} (e : Bool) (hv : SilentTurn c m v)
    (h : ignitionShare c s = recompute v) :
    ChannelTurned c m v (tookSample c e s) ∧ (tookSample c e s).igu = v.igu := by
  have turned := channelTurned_recompute hv
  have igu := recompute_igu v
  rw [tookSample, h]
  generalize recompute v = r at turned igu
  exact ⟨turned.read _ _ _, igu⟩

/-- Burner `c` at `b` in `s`. -/
def burnerAt (c : Chan) (b : Burner) (s : State) : State := s.mapChan c fun ch => { ch with burner := b }

@[simp] theorem burnerAt_chan (c : Chan) (b : Burner) (s : State) :
    (burnerAt c b s).chan c = { s.chan c with burner := b } := State.chan_mapChan_self _ _ _

theorem ignitionShare_of_step {c : Chan} {s : State} {b : Burner} {o : IgnitionOutcome} (h : ignitionStep s c = (b, o)) :
    ignitionShare c s = applyIgnition c o (burnerAt c b s) := by
  rw [ignitionShare, h]
  rfl

theorem head_ne_of_not_mem {l : List Chan} {c : Chan} (h : c ∉ l) : l.head? ≠ some c := fun hc =>
  h (List.mem_of_mem_head? (by rw [hc]; rfl))

/-- A unit that burner `c` releases while it does not wait in the queue (R126). -/
theorem releaseUnit_chan {c : Chan} {u : State} (h : c ∉ u.igu.queue) :
    (releaseUnit u).chan c = u.chan c ∧
    (releaseUnit u).igu = { queue := u.igu.queue.tail, holder := u.igu.queue.head?, spark := false } := by
  obtain ⟨igu, chan⟩ := releaseUnit_line (u := u) rfl
  exact ⟨by rw [chan, if_neg (head_ne_of_not_mem h)], igu⟩

theorem releaseUnit_rpu (u : State) : (releaseUnit u).rpu = u.rpu := by
  obtain ⟨-, -, -, -, -, rpu, -⟩ := promote_station { u with igu := { u.igu with holder := none, spark := false } }
  exact rpu

/-! ### A proof of flame -/

/-- The record of a burner in PROVE after a sample with flame. -/
def Burner.flaming (b : Burner) : Burner :=
  { b with safety := b.safety + 1, onRun := min 16 (b.onRun + 1), offRun := 0 }

theorem proveStep_flame {p : BurnerParams} {b : Burner} (h : p.wOn ≤ min 16 (b.onRun + 1)) :
    proveStep .flame p b = (b.flaming, .proven) := by
  have on : b.flaming.flameOn .flame p = true := decide_eq_true h
  exact Prod.ext rfl (if_pos on)

/-- Burner `c` with its flame proven, before it releases the unit (R135). -/
def flameProven (c : Chan) (b : Burner) (s : State) : State :=
  s.mapChan c fun ch =>
    { ch with chc := { ch.chc with state := .running }, valve := ch.pgu.level, burner := b.atProof }

theorem proveFlame_burnerAt (c : Chan) (b : Burner) (s : State) :
    proveFlame c (burnerAt c b s) = releaseUnit (flameProven c b s) :=
  congrArg releaseUnit (mapChan_mapChan c _ _ s)

theorem silentTurn_proveFlame (c : Chan) (b : Burner) (s : State) : SilentTurn c s (releaseUnit (flameProven c b s)) :=
  silentTurn_of_turns ((turns_mapChan c
    (fun ch => { ch with chc := { ch.chc with state := .running }, valve := ch.pgu.level, burner := b.atProof }) s).trans
      (turns_releaseUnit c _))

/-- Settles O38. -/
theorem flameProvenRunsTheStep : Obligations.FlameProvenRunsTheStep := by
  intro s₀ s c pins h hk hp hq hsp hflame hon
  have step := ignitionStep_prove hk hp
  rw [flameSample_flame h hsp hflame, proveStep_flame hon] at step
  have due : outcomeIs .proven s c = true := by
    rw [outcomeIs, step]
    rfl
  have share : ignitionShare c s = recompute (releaseUnit (flameProven c (s.chan c).burner.flaming s)) := by
    rw [ignitionShare_of_step step, ← proveFlame_burnerAt]
    rfl
  obtain ⟨turned, igu⟩ := tookSample_turned s₀.rpu.events.isEmpty (silentTurn_proveFlame c _ s) share
  have self : (flameProven c (s.chan c).burner.flaming s).chan c = _ := State.chan_mapChan_self _ _ _
  obtain ⟨stays, unit⟩ := releaseUnit_chan (c := c) (u := flameProven c (s.chan c).burner.flaming s) hq
  have rpu : (releaseUnit (flameProven c (s.chan c).burner.flaming s)).rpu = s.rpu := releaseUnit_rpu _
  have marks : (s.chan c).chc.state = .igniting →
      .program c ∈ (tookSample c s₀.rpu.events.isEmpty s).taken := fun hst => by
    have runs : ((ignitionShare c s).chan c).chc.state = .running := by
      rw [share, recompute_chan_chc, stays, self]
    have began : .program c ∈ begun s (ignitionShare c s) := by
      have every : c ∈ allChans := mem_channels c
      simp [begun, newlyProven, hst, runs, every]
    show HalfCycleUnit.program c ∈ HalfCycleUnit.ignition c :: (begun s (ignitionShare c s) ++ s.taken)
    simp [began]
  have row := live_ignitionShare (due := fun s => outcomeIs .proven s c) h due
  generalize tookSample c s₀.rpu.events.isEmpty s = t at *
  generalize releaseUnit (flameProven c (s.chan c).burner.flaming s) = v at *
  have chan : v.chan c = _ := stays.trans self
  obtain ⟨⟨⟨chc, pgu, -⟩, valve, -⟩, -⟩ := turned.after
  have burner : (t.chan c).burner = (s.chan c).burner.flaming.atProof := turned.burner.trans (by rw [chan])
  refine ⟨t, row, by rw [chc, chan], by rw [pgu, chan], marks, by rw [valve, chan], by rw [burner]; rfl,
    by rw [burner]; rfl, by rw [burner]; rfl, by rw [burner]; rfl, fun hw hle => ?_, by rw [burner]; rfl,
    by rw [burner]; rfl, by rw [burner]; rfl, by rw [burner]; rfl, by rw [burner]; rfl, by rw [burner]; rfl, igu.trans unit, turned.cfg, turned.others, turned.line, turned.inputs,
    turned.rpu.trans rpu, turned.mtb, turned.ssv⟩
  have on : (s.chan c).burner.flaming.atProof.onRun = min 16 (s.chan c).cfg.params.wOn := congrArg (min 16) hw
  rw [burner, on, min_eq_right hle]

end Sys2Proof.Machine
end

section
/-! Settles O39 and O40: an attempt that fails, false flame, and the lockout that ends both. -/

namespace Sys2Proof.Machine

/-! ### A lockout -/

/-- The program of burner `c` ended by a lockout, and its records at their reset values (R142). -/
def lockedOut (c : Chan) (cause : EndCause) (m : State) : State :=
  (quench c m).mapChan c fun ch =>
    { ch with
      pgu := ch.pgu.ended, burner := .reset
      chc := { state := .lockout, causes := ⟨false, false⟩, target := none, endCause := cause } }

/-- The records of a lockout (R138, R142, R33). -/
def lockRecords (c : Chan) (cause : EndCause) (ch : Channel) : List EventRecord :=
  [{ kind := .lockout, channel := some c, slot := ch.pgu.current, parameter := cause.code },
    { kind := .programEnd, channel := some c, slot := ch.pgu.current, parameter := cause.code }]

/-- `s` with the burner of channel `c` at `b`, its valve closed and its lockout bit set. -/
def lockBit (c : Chan) (b : Burner) (s : State) : State :=
  s.mapChan c fun ch => { ch with burner := b, valve := 0, lockoutBit := true }

@[simp] theorem lockBit_chan (c : Chan) (b : Burner) (s : State) :
    (lockBit c b s).chan c = { s.chan c with burner := b, valve := 0, lockoutBit := true } :=
  State.chan_mapChan_self _ _ _

theorem lockOut_reporting (c : Chan) (cause : EndCause) (r : Rpu) (u : State) :
    lockOut c cause (reporting r u) =
      reporting (r.notingAll (lockRecords c cause (u.chan c)))
        (lockedOut c cause (u.mapChan c fun ch => { ch with lockoutBit := true, valve := 0 })) := by
  have first : raiseFor c .lockout cause.code
      ((reporting r u).mapChan c fun ch => { ch with lockoutBit := true, valve := 0 }) =
      reporting (r.noting { kind := .lockout, channel := some c, slot := (u.chan c).pgu.current, parameter := cause.code })
        (u.mapChan c fun ch => { ch with lockoutBit := true, valve := 0 }) := by
    have raised := raiseFor_reporting c .lockout cause.code r
      (u.mapChan c fun ch => { ch with lockoutBit := true, valve := 0 })
    rw [State.chan_mapChan_self] at raised
    exact raised
  have second (q : Rpu) : raiseFor c .programEnd cause.code
      (reporting q (u.mapChan c fun ch => { ch with lockoutBit := true, valve := 0 })) =
      reporting (q.noting
          { kind := .programEnd, channel := some c, slot := (u.chan c).pgu.current, parameter := cause.code })
        (u.mapChan c fun ch => { ch with lockoutBit := true, valve := 0 }) := by
    have raised := raiseFor_reporting c .programEnd cause.code q
      (u.mapChan c fun ch => { ch with lockoutBit := true, valve := 0 })
    rw [State.chan_mapChan_self] at raised
    exact raised
  unfold lockOut endProgram
  dsimp only
  rw [first, second, unreported_quench, mapChan_mapChan]
  rfl

theorem turns_lockedOut (c : Chan) (cause : EndCause) (m : State) : Turns (· = c) m (lockedOut c cause m) :=
  (turns_quench c m).trans (turns_mapChan c _ _)

theorem lockedOut_chan {c : Chan} {cause : EndCause} {m : State} (hp : (m.chan c).burner.phase.holdsUnit = true)
    (hq : c ∉ m.igu.queue) :
    (lockedOut c cause m).chan c =
      { m.chan c with
        pgu := (m.chan c).pgu.ended, burner := .reset, valve := 0
        chc := { state := .lockout, causes := ⟨false, false⟩, target := none, endCause := cause } } ∧
    (lockedOut c cause m).igu = { queue := m.igu.queue.tail, holder := m.igu.queue.head?, spark := false } := by
  obtain ⟨stays, igu⟩ := releaseUnit_chan (c := c)
    (u := m.mapChan c fun ch => { ch with burner := ch.burner.outOfIgnition, valve := 0 }) hq
  refine ⟨?_, ?_⟩
  · rw [lockedOut, State.chan_mapChan_self, quench_holder hp, State.chan_mapChan_self, stays, State.chan_mapChan_self]
    rfl
  · have unit : (lockedOut c cause m).igu = (quench c m).igu := rfl
    rw [unit, quench_holder hp]
    exact igu

/-- A burner that holds the unit has been locked out (R131, R138, R142). -/
structure LockedOut (c : Chan) (cause : EndCause) (recs : List EventRecord) (s t : State) : Prop where
  bit : (t.chan c).lockoutBit = true
  burner : (t.chan c).burner = Burner.reset
  chc : (t.chan c).chc = { state := .lockout, causes := ⟨false, false⟩, target := none, endCause := cause }
  pgu : (t.chan c).pgu = (s.chan c).pgu.ended
  valve : (t.chan c).valve = 0
  igu : t.igu = { queue := s.igu.queue.tail, holder := s.igu.queue.head?, spark := false }
  rpu : t.rpu = s.rpu.notingAll recs
  cfg : (t.chan c).cfg = (s.chan c).cfg
  others : KeepsOthers c s t
  line : KeepsLine s t
  inputs : KeepsInputsAndPeers s t
  mtb : t.mtb = s.mtb
  ssv : t.ssv = s.ssv

/-- The row of a share that locks its burner out, after the records `first`. -/
theorem tookSample_lockedOut {c : Chan} {cause : EndCause} {b : Burner} {first : List EventRecord} {s : State} (e : Bool)
    (hp : b.phase.holdsUnit = true) (hq : c ∉ s.igu.queue)
    (h : ignitionShare c s =
      recompute (reporting (s.rpu.notingAll (first ++ lockRecords c cause (s.chan c)))
        (lockedOut c cause (lockBit c b s)))) :
    LockedOut c cause (first ++ lockRecords c cause (s.chan c)) s (tookSample c e s) := by
  have turn : SilentTurn c (lockBit c b s)
      (reporting (s.rpu.notingAll (first ++ lockRecords c cause (s.chan c))) (lockedOut c cause (lockBit c b s))) := by
    have silent := silentTurn_of_turns (turns_lockedOut c cause (lockBit c b s))
    exact silent
  obtain ⟨turned, igu⟩ := tookSample_turned e turn h
  obtain ⟨self, unit⟩ := lockedOut_chan (c := c) (cause := cause) (m := lockBit c b s)
    (by rw [lockBit_chan]; exact hp) hq
  rw [lockBit_chan] at self
  have others (d : Chan) (hd : d ≠ c) : (lockBit c b s).chan d = s.chan d := State.chan_mapChan_ne _ _ _ _ hd
  have burner := turned.burner
  have cfg := turned.cfg
  obtain ⟨⟨⟨chc, pgu, -⟩, valve, -, bit, -⟩, -⟩ := turned.after
  rw [reporting_chan, self] at chc pgu valve bit burner
  rw [lockBit_chan] at cfg
  refine ⟨bit, burner, chc, pgu, valve, igu.trans unit, turned.rpu, cfg, fun d hd => ?_, turned.line, turned.inputs,
    turned.mtb, turned.ssv⟩
  have kept := turned.others d hd
  rw [KeepsChannel, KeepsProgram, others d hd] at kept
  exact kept

/-! ### A failed attempt -/

/-- The record of a burner in PROVE after the sample `x`. -/
def Burner.proving (b : Burner) (x : Sample) : Burner := { b with safety := b.safety + 1 }.sampled x

theorem proving_kept (b : Burner) (x : Sample) :
    (b.proving x).phase = b.phase ∧ (b.proving x).attempt = b.attempt ∧ (b.proving x).allowed = b.allowed ∧
    (b.proving x).safetyTime = b.safetyTime ∧ (b.proving x).safety = b.safety + 1 := by
  cases x <;> exact ⟨rfl, rfl, rfl, rfl, rfl⟩

theorem proveStep_fails {x : Sample} {p : BurnerParams} {b : Burner} (hoff : (b.proving x).flameOn x p = false)
    (ht : b.safetyTime = b.safety + 1) : proveStep x p b = (b.proving x, .failed) := by
  obtain ⟨-, -, -, time, safety⟩ := proving_kept b x
  have reached : (b.proving x).safetyTime ≤ (b.proving x).safety := by omega
  have outcome : (if (b.proving x).flameOn x p then IgnitionOutcome.proven
      else if (b.proving x).safetyTime ≤ (b.proving x).safety then .failed else .stays) = .failed := by
    rw [if_neg (by simp [hoff]), if_pos reached]
  exact Prod.ext rfl outcome

/-- The IGNITION_FAIL record of burner `c`. -/
def failRecord (c : Chan) (ch : Channel) : EventRecord :=
  { kind := .ignitionFail, channel := some c, slot := ch.pgu.current, parameter := ch.burner.attempt }

/-- `s` with burner `c` at `b` and its valve closed. -/
def closedAt (c : Chan) (b : Burner) (s : State) : State := s.mapChan c fun ch => { ch with burner := b, valve := 0 }

@[simp] theorem closedAt_chan (c : Chan) (b : Burner) (s : State) :
    (closedAt c b s).chan c = { s.chan c with burner := b, valve := 0 } := State.chan_mapChan_self _ _ _

theorem silentTurn_releasedClosed (c : Chan) (b : Burner) (s : State) : SilentTurn c s (releaseUnit (closedAt c b s)) :=
  silentTurn_of_turns ((turns_mapChan c (fun ch => { ch with burner := b, valve := 0 }) s).trans
    (turns_releaseUnit c _))

/-- What an attempt that fails does first (R137). -/
theorem failRaised (c : Chan) (b : Burner) (s : State) (n : Nat) :
    raiseFor c .ignitionFail n ((burnerAt c b s).mapChan c fun ch => { ch with valve := 0 }) =
      reporting
        (s.rpu.noting { kind := .ignitionFail, channel := some c, slot := (s.chan c).pgu.current, parameter := n })
        (closedAt c b s) := by
  have both : (burnerAt c b s).mapChan c (fun ch => { ch with valve := 0 }) = closedAt c b s :=
    mapChan_mapChan c _ _ s
  have raised := raiseFor_reporting c .ignitionFail n s.rpu (closedAt c b s)
  rw [closedAt_chan] at raised
  rw [both]
  exact raised

section
variable {c : Chan} {b : Burner} {s : State} (ha : b.attempt = (s.chan c).burner.attempt)
include ha

theorem failAttempt_purges (h : b.attempt < b.allowed) :
    failAttempt c (burnerAt c b s) =
      reporting (s.rpu.noting (failRecord c (s.chan c)))
        (releaseUnit (closedAt c (b.atPurge (s.chan c).cfg.params) s)) := by
  unfold failAttempt
  dsimp only
  have purged : (closedAt c b s).mapChan c (fun ch => { ch with burner := ch.burner.atPurge ch.cfg.params }) =
      closedAt c (b.atPurge (s.chan c).cfg.params) s :=
    (mapChan_mapChan c (fun ch => { ch with burner := b, valve := 0 }) _ s).trans (mapChan_congr rfl)
  rw [failRaised, burnerAt_chan, if_pos h, ← purged, ← unreported_releaseUnit, ha]
  rfl

theorem failAttempt_locksOut (h : b.allowed ≤ b.attempt) :
    failAttempt c (burnerAt c b s) =
      reporting (s.rpu.notingAll ([failRecord c (s.chan c)] ++ lockRecords c .lockout (s.chan c)))
        (lockedOut c .lockout (lockBit c b s)) := by
  have bit : (closedAt c b s).mapChan c (fun ch => { ch with lockoutBit := true, valve := 0 }) = lockBit c b s :=
    mapChan_mapChan c _ _ s
  unfold failAttempt
  dsimp only
  rw [failRaised, burnerAt_chan, if_neg (not_lt.2 h), lockOut_reporting, bit, closedAt_chan, Rpu.notingAll_append, ha]
  rfl

end

/-- Settles O39. -/
theorem failedAttemptPurgesOrLocksOut : Obligations.FailedAttemptPurgesOrLocksOut := by
  intro s₀ s c pins h hk hp hq ht hdark
  have off : ((s.chan c).burner.proving (flameSample s c)).flameOn (flameSample s c) (s.chan c).cfg.params = false := by
    cases hsp : (levelsRead pins s₀).spark
    · obtain hd | hd | hd := hdark
      · rw [hsp] at hd
        exact nomatch hd
      · rw [flameSample_noFlame h hsp hd]
        rfl
      · by_cases hf : (s.chan c).cfg.params.threshold ≤ (pins.flame.get c).toNat
        · rw [flameSample_flame h hsp hf]
          exact decide_eq_false (not_le.2 hd)
        · rw [flameSample_noFlame h hsp (not_le.1 hf)]
          rfl
    · rw [flameSample_blanked h hsp]
      rfl
  obtain ⟨phase, attempt, allowed, -, -⟩ := proving_kept (s.chan c).burner (flameSample s c)
  have step := ignitionStep_prove hk hp
  rw [proveStep_fails off ht] at step
  have due : outcomeIs .failed s c = true := by
    rw [outcomeIs, step]
    rfl
  have row := live_ignitionShare (due := fun s => outcomeIs .failed s c) h due
  have share := ignitionShare_of_step step
  by_cases hleft : (s.chan c).burner.attempt < (s.chan c).burner.allowed
  · change _ = recompute (failAttempt c _) at share
    rw [failAttempt_purges attempt (by rwa [attempt, allowed])] at share
    have turn : SilentTurn c s (reporting (s.rpu.noting (failRecord c (s.chan c)))
        (releaseUnit (closedAt c (((s.chan c).burner.proving (flameSample s c)).atPurge (s.chan c).cfg.params) s))) :=
      silentTurn_releasedClosed c _ s
    obtain ⟨turned, igu⟩ := tookSample_turned s₀.rpu.events.isEmpty turn share
    obtain ⟨stays, unit⟩ := releaseUnit_chan (c := c)
      (u := closedAt c (((s.chan c).burner.proving (flameSample s c)).atPurge (s.chan c).cfg.params) s) hq
    rw [closedAt_chan] at stays
    have purges : ((ignitionShare c s).chan c).burner.phase = .purge := by
      rw [share, recompute_chan_burner, reporting_chan, stays]
      rfl
    have began : .purge c ∈ (tookSample c s₀.rpu.events.isEmpty s).taken := by
      have every : c ∈ allChans := mem_channels c
      show HalfCycleUnit.purge c ∈ HalfCycleUnit.ignition c :: (begun s (ignitionShare c s) ++ s.taken)
      simp [begun, newPurges, hp, purges, every]
    have burner := turned.burner
    obtain ⟨⟨⟨chc, pgu, cfg⟩, valve, -, bit, -⟩, -⟩ := turned.after
    rw [reporting_chan, stays] at burner chc pgu cfg valve bit
    refine ⟨_, row, valve, igu.trans unit, fun _ => ⟨by rw [burner]; rfl, by rw [burner]; rfl, began, ?_,
      by rw [burner]; rfl, by rw [burner]; rfl, by rw [burner]; rfl, ⟨chc, pgu, cfg⟩, bit, ?_⟩,
      fun hle => absurd hleft (not_lt.2 hle), turned.cfg, turned.others, turned.line, turned.inputs, turned.mtb,
      turned.ssv⟩
    · rw [burner]
      exact attempt
    · rw [turned.rpu, raise_eq]
      rfl
  · rw [not_lt] at hleft
    change _ = recompute (failAttempt c _) at share
    rw [failAttempt_locksOut attempt (by rwa [attempt, allowed])] at share
    have locked := tookSample_lockedOut s₀.rpu.events.isEmpty (by rw [phase, hp]; rfl) hq share
    refine ⟨_, row, locked.valve, locked.igu, fun hlt => absurd hlt (not_lt.2 hleft),
      fun _ => ⟨locked.bit, locked.burner, locked.chc, locked.pgu, ?_⟩, locked.cfg, locked.others, locked.line,
      locked.inputs, locked.mtb, locked.ssv⟩
    rw [locked.rpu, raise_eq, raise_eq, raise_eq]
    rfl

/-! ### False flame -/

section
variable {c : Chan} {pins : InputPins} {s₀ s : State} (h : LeadsTo (.ignition c) (withInputs pins s₀) s)
  (hk : (s.chan c).cfg.kind = .burner) (hp : (s.chan c).burner.phase = .lineWait)
include h hk hp

/-- The half-cycle at which the on-run reaches W_on in LINE_WAIT (R130). -/
theorem ignitionStep_falseFlameSet (hsp : (levelsRead pins s₀).spark = false) (hff : (s.chan c).burner.falseFlame = false)
    (hf : (s.chan c).cfg.params.threshold ≤ (pins.flame.get c).toNat)
    (hon : (s.chan c).cfg.params.wOn = (s.chan c).burner.onRun + 1) (hroom : (s.chan c).burner.onRun < 16) :
    ignitionStep s c =
      ({ (s.chan c).burner with
          onRun := min 16 ((s.chan c).burner.onRun + 1), offRun := 0, falseFlame := true, falseTimer := 0
          quiet := min (hertz s.mtb.frequency) ((s.chan c).burner.quiet + 1) }, .stays) := by
  have on : ((s.chan c).burner.sampled .flame).flameOn .flame (s.chan c).cfg.params = true :=
    decide_eq_true (by rw [hon]; exact le_min hroom le_rfl)
  have sets := falseFlameStep_sets (b := (s.chan c).burner.sampled .flame) hff on
  have hertz := hertz_of_leads h
  rw [ignitionStep_lineWait hk hp, flameSample_flame h hsp hf, spark_of_leads h, hsp, lineWaitStep_false (by rw [sets]),
    sets, quietStep_quiet, if_neg (by show ¬ 20 * _ ≤ 0; omega)]
  rfl

/-- The half-cycle at which the off-run reaches W_off with false flame set (R130, R132). -/
theorem ignitionStep_falseFlameCleared (hsp : (levelsRead pins s₀).spark = false)
    (hff : (s.chan c).burner.falseFlame = true)
    (hf : (pins.flame.get c).toNat < (s.chan c).cfg.params.threshold)
    (hoff : (s.chan c).cfg.params.wOff = (s.chan c).burner.offRun + 1) (hroom : (s.chan c).burner.offRun < 16) :
    ignitionStep s c =
      ({ (s.chan c).burner with
          offRun := min 16 ((s.chan c).burner.offRun + 1), onRun := 0, falseFlame := false, falseTimer := 0
          quiet := min (hertz s.mtb.frequency) ((s.chan c).burner.quiet + 1) },
        if hertz s.mtb.frequency ≤ (s.chan c).burner.quiet + 1 then .sparkStart else .stays) := by
  have off : ((s.chan c).burner.sampled .noFlame).flameOff .noFlame (s.chan c).cfg.params = true :=
    decide_eq_true (by rw [hoff]; exact le_min hroom le_rfl)
  have clears := falseFlameStep_clears (b := (s.chan c).burner.sampled .noFlame) hff off
  have quiet : hertz s.mtb.frequency ≤ min (hertz s.mtb.frequency) ((s.chan c).burner.quiet + 1) ↔
      hertz s.mtb.frequency ≤ (s.chan c).burner.quiet + 1 := by omega
  rw [ignitionStep_lineWait hk hp, flameSample_noFlame h hsp hf, spark_of_leads h, hsp,
    lineWaitStep_quiet (by rw [clears]), clears, quietStep_quiet]
  exact congrArg (Prod.mk _) (if_congr quiet rfl rfl)

/-- The half-cycle at which the false flame timer reaches 20f (R131). -/
theorem ignitionStep_falseFlameLockout (hff : (s.chan c).burner.falseFlame = true)
    (ht : 20 * hertz s.mtb.frequency = (s.chan c).burner.falseTimer + 1)
    (hburns : (levelsRead pins s₀).spark = true ∨ (s.chan c).cfg.params.threshold ≤ (pins.flame.get c).toNat ∨
      min 16 ((s.chan c).burner.offRun + 1) < (s.chan c).cfg.params.wOff) :
    ∃ b, ignitionStep s c = (b, .falseFlameLockout) ∧ b.phase = .lineWait := by
  have on : ((s.chan c).burner.sampled (flameSample s c)).flameOff (flameSample s c) (s.chan c).cfg.params = false := by
    cases hsp : (levelsRead pins s₀).spark
    · obtain hd | hd | hd := hburns
      · rw [hsp] at hd
        exact nomatch hd
      · rw [flameSample_flame h hsp hd]
        rfl
      · by_cases hf : (s.chan c).cfg.params.threshold ≤ (pins.flame.get c).toNat
        · rw [flameSample_flame h hsp hf]
          rfl
        · rw [flameSample_noFlame h hsp (not_le.1 hf)]
          exact decide_eq_false (not_le.2 hd)
    · rw [flameSample_blanked h hsp]
      rfl
  obtain ⟨ff, timer, -, -⟩ := sampled_falseFlame (s.chan c).burner (flameSample s c)
  obtain ⟨phase, -⟩ := sampled_phase (s.chan c).burner (flameSample s c)
  have counts := falseFlameStep_counts (ff.trans hff) on
  rw [ignitionStep_lineWait hk hp, lineWaitStep_false (by rw [counts]; exact ff.trans hff), counts,
    if_pos (by show 20 * _ ≤ _ + 1; rw [timer]; exact ht.le)]
  exact ⟨_, rfl, phase.trans hp⟩

end

/-- Settles O40. -/
theorem falseFlameIsSetClearedAndLocksOut : Obligations.FalseFlameIsSetClearedAndLocksOut := by
  intro s₀ s c pins h hk hp
  refine ⟨fun hsp hff hf hon hroom => ?_, fun hsp hff hf hoff hroom hq => ?_, fun hsp hff hf hoff hroom hq => ?_,
    fun hqueue hff ht hburns => ?_⟩
  · have step := ignitionStep_falseFlameSet h hk hp hsp hff hf hon hroom
    have due : (!(s.chan c).burner.falseFlame && (ignitionStep s c).1.falseFlame) = true := by
      rw [step, hff]
      rfl
    have moved := tookSample_moved s₀.rpu.events.isEmpty (ignitionShare_stays step)
    exact ⟨_, live_ignitionShare (due := fun s => !(s.chan c).burner.falseFlame && (ignitionStep s c).1.falseFlame) h due,
      by rw [moved.burner], by rw [moved.burner], by rw [moved.burner]; exact hp, moved.igu, moved.valve, moved.programs,
      moved.line, moved.inputs, moved.rpu, moved.mtb⟩
  · have step := ignitionStep_falseFlameCleared h hk hp hsp hff hf hoff hroom
    rw [if_neg (not_le.2 hq)] at step
    have due : ((s.chan c).burner.falseFlame && !(ignitionStep s c).1.falseFlame) = true := by
      rw [step, hff]
      rfl
    have moved := tookSample_moved s₀.rpu.events.isEmpty (ignitionShare_stays step)
    exact ⟨_, live_ignitionShare (due := fun s => (s.chan c).burner.falseFlame && !(ignitionStep s c).1.falseFlame) h due,
      by rw [moved.burner], by rw [moved.burner], by rw [moved.burner]; exact hp, moved.igu, moved.valve, moved.programs,
      moved.line, moved.inputs, moved.rpu, moved.mtb⟩
  · have step := ignitionStep_falseFlameCleared h hk hp hsp hff hf hoff hroom
    rw [if_pos hq] at step
    have due : ((s.chan c).burner.falseFlame && !(ignitionStep s c).1.falseFlame) = true := by
      rw [step, hff]
      rfl
    have starts : outcomeIs .sparkStart s c = true := by
      rw [outcomeIs, step]
      rfl
    have moved := tookSample_moved s₀.rpu.events.isEmpty (ignitionShare_sparkStart step)
    refine ⟨_, live_ignitionShare (due := fun s => (s.chan c).burner.falseFlame && !(ignitionStep s c).1.falseFlame) h due,
      live_ignitionShare (due := fun s => outcomeIs .sparkStart s c) h starts, ?_, moved.valve, moved.igu, moved.programs,
      moved.line, moved.inputs, moved.rpu, moved.mtb, moved.ssv, moved.apu⟩
    rw [moved.burner, min_eq_left hq]
    rfl
  · obtain ⟨b, step, phase⟩ := ignitionStep_falseFlameLockout h hk hp hff ht hburns
    have due : outcomeIs .falseFlameLockout s c = true := by
      rw [outcomeIs, step]
      rfl
    have bit : (burnerAt c b s).mapChan c (fun ch => { ch with lockoutBit := true, valve := 0 }) = lockBit c b s :=
      mapChan_mapChan c _ _ s
    have share : ignitionShare c s = recompute (reporting (s.rpu.notingAll ([] ++ lockRecords c .falseFlame (s.chan c)))
        (lockedOut c .falseFlame (lockBit c b s))) := by
      have locks := lockOut_reporting c .falseFlame s.rpu (burnerAt c b s)
      rw [bit, burnerAt_chan] at locks
      rw [ignitionShare_of_step step]
      exact congrArg recompute locks
    have locked := tookSample_lockedOut s₀.rpu.events.isEmpty (by rw [phase]; rfl) hqueue share
    refine ⟨_, live_ignitionShare (due := fun s => outcomeIs .falseFlameLockout s c) h due, locked.bit, locked.chc,
      locked.pgu, locked.burner, locked.valve, locked.igu, ?_, locked.cfg, locked.others, locked.line, locked.inputs,
      locked.mtb, locked.ssv⟩
    rw [locked.rpu, raise_eq, raise_eq]
    rfl

end Sys2Proof.Machine
end

section
/-! Settles O41: the loss of flame. -/

namespace Sys2Proof.Machine

/-- `s` with the burner of channel `c` at `b`, its valve closed, at the tail of the ignition queue with one attempt
(R141). -/
def lostBurner (c : Chan) (b : Burner) (s : State) : State :=
  { s with igu := { s.igu with queue := s.igu.queue ++ [c] } }.mapChan c fun ch =>
    { ch with chc := { ch.chc with state := .igniting }, burner := b.entered 1 false, valve := 0 }

@[simp] theorem lostBurner_chan (c : Chan) (b : Burner) (s : State) :
    (lostBurner c b s).chan c =
      { s.chan c with
        chc := { (s.chan c).chc with state := .igniting }, burner := b.entered 1 false, valve := 0 } :=
  State.chan_mapChan_self _ _ _

/-- The FLAME_LOSS record of burner `c`. -/
def lossRecord (c : Chan) (n : Nat) (ch : Channel) : EventRecord :=
  { kind := .flameLoss, channel := some c, slot := ch.pgu.current, parameter := n }

theorem loseFlame_burnerAt (c : Chan) (n : Nat) (b : Burner) (s : State) :
    loseFlame c n (burnerAt c b s) =
      reporting (s.rpu.noting (lossRecord c n (s.chan c))) (promote (lostBurner c b.unsupervised s)) := by
  have closed : (burnerAt c b s).mapChan c Channel.extinguished = closedAt c b.unsupervised s := mapChan_mapChan c _ _ s
  have raised := raiseFor_reporting c .flameLoss n s.rpu (closedAt c b.unsupervised s)
  have current : ((closedAt c b.unsupervised s).chan c).pgu = (s.chan c).pgu := by rw [closedAt_chan]
  have first : raiseFor c .flameLoss n (closedAt c b.unsupervised s) =
      reporting (s.rpu.noting (lossRecord c n (s.chan c))) (closedAt c b.unsupervised s) := by
    rw [current] at raised
    exact raised
  have enters : enterIgnition c 1 (closedAt c b.unsupervised s) = promote (lostBurner c b.unsupervised s) := by
    rw [enterIgnition_eq_promote]
    exact congrArg promote (mapChan_mapChan c (fun ch => { ch with burner := b.unsupervised, valve := 0 }) _
      { s with igu := { s.igu with queue := s.igu.queue ++ [c] } })
  unfold loseFlame
  rw [closed, first, unreported_enterIgnition, enters]

theorem silentTurn_lostBurner (c : Chan) (b : Burner) (s : State) : SilentTurn c s (promote (lostBurner c b s)) :=
  silentTurn_of_turns ((turns_igu c { s.igu with queue := s.igu.queue ++ [c] } s).trans
    ((turns_mapChan c (fun ch =>
      { ch with chc := { ch.chc with state := .igniting }, burner := b.entered 1 false, valve := 0 }) _).trans
      (turns_promote c _)))

/-- The record of a supervised burner after the sample `x` (R140). -/
def Burner.watched (b : Burner) (x : Sample) : Burner :=
  { b.sampled x with blankRun := if x = .blanked then b.blankRun + 1 else 0 }

theorem superviseStep_watched (f : Nat) (x : Sample) (p : BurnerParams) (b : Burner) :
    superviseStep f x p b =
      (b.watched x,
        if (b.watched x).flameOff x p then .lostSense
        else if 8 * f ≤ (b.watched x).blankRun then .lostBlanking else .stays) := rfl

/-- What a supervised burner that loses its flame brings about (R140): FLAME_LOSS with 0 by the off-run, with 1 by
blanking. -/
theorem ignitionStep_loses {c : Chan} {pins : InputPins} {s₀ s : State}
    (h : LeadsTo (.ignition c) (withInputs pins s₀) s) (hk : (s.chan c).cfg.kind = .burner)
    (hp : (s.chan c).burner.phase = .none) (hs : (s.chan c).burner.supervising = true)
    (hlost : ((levelsRead pins s₀).spark = false ∧ (pins.flame.get c).toNat < (s.chan c).cfg.params.threshold ∧
        (s.chan c).cfg.params.wOff ≤ min 16 ((s.chan c).burner.offRun + 1)) ∨
      ((levelsRead pins s₀).spark = true ∧ 8 * hertz s.mtb.frequency ≤ (s.chan c).burner.blankRun + 1)) :
    ∃ b, ignitionStep s c = (b, if (levelsRead pins s₀).spark then .lostBlanking else .lostSense) := by
  have step := ignitionStep_apart (c := c) hk (by rw [hp]; rfl)
  rw [if_pos hs] at step
  obtain ⟨hsp, hf, hoff⟩ | ⟨hsp, hblank⟩ := hlost
  · rw [flameSample_noFlame h hsp hf] at step
    have off : ((s.chan c).burner.watched .noFlame).flameOff .noFlame (s.chan c).cfg.params = true :=
      decide_eq_true hoff
    exact ⟨_, by rw [step, superviseStep_watched, if_pos off, hsp]; rfl⟩
  · rw [flameSample_blanked h hsp] at step
    have on : ¬ ((s.chan c).burner.watched .blanked).flameOff .blanked (s.chan c).cfg.params = true :=
      Bool.false_ne_true
    have blank : 8 * hertz s.mtb.frequency ≤ ((s.chan c).burner.watched .blanked).blankRun := hblank
    exact ⟨_, by rw [step, superviseStep_watched, if_neg on, if_pos blank, hsp]; rfl⟩

/-- Settles O41. -/
theorem flameLossReignitesOnce : Obligations.FlameLossReignitesOnce := by
  intro s₀ s c pins h hk hp hs hq hlost
  obtain ⟨b, step⟩ := ignitionStep_loses h hk hp hs hlost
  have due : (outcomeIs .lostSense s c || outcomeIs .lostBlanking s c) = true := by
    rw [outcomeIs, outcomeIs, step]
    cases (levelsRead pins s₀).spark <;> rfl
  have share : ignitionShare c s = recompute
      (reporting (s.rpu.noting (lossRecord c (if (levelsRead pins s₀).spark then 1 else 0) (s.chan c)))
        (promote (lostBurner c b.unsupervised s))) := by
    rw [ignitionShare_of_step step, ← loseFlame_burnerAt]
    cases (levelsRead pins s₀).spark <;> rfl
  have turn : SilentTurn c s
      (reporting (s.rpu.noting (lossRecord c (if (levelsRead pins s₀).spark then 1 else 0) (s.chan c)))
        (promote (lostBurner c b.unsupervised s))) := silentTurn_lostBurner c _ s
  obtain ⟨turned, igu⟩ := tookSample_turned s₀.rpu.events.isEmpty turn share
  have row := live_ignitionShare (due := fun s => outcomeIs .lostSense s c || outcomeIs .lostBlanking s c) h due
  have burner := turned.burner
  obtain ⟨⟨⟨chc, pgu, -⟩, valve, -⟩, -⟩ := turned.after
  have promoted := promote_keeps_burner c (lostBurner c b.unsupervised s)
  rw [lostBurner_chan] at promoted
  rw [reporting_chan, promoted] at chc pgu valve burner
  have held (x : Chan) (hx : s.igu.holder = some x) :
      promote (lostBurner c b.unsupervised s) = lostBurner c b.unsupervised s := promote_of_holder (x := x) hx
  refine ⟨_, row, chc, pgu, valve, by rw [burner]; rfl, by rw [burner]; rfl, by rw [burner]; rfl, by rw [burner]; rfl,
    by rw [burner]; rfl, by rw [burner]; rfl, fun hheld => ?_, fun hfree hempty => ?_, ?_, turned.cfg, turned.others,
    turned.line, turned.inputs, turned.mtb, turned.ssv⟩
  · obtain ⟨x, hx⟩ := Option.isSome_iff_exists.1 hheld
    rw [held x hx, lostBurner_chan] at burner
    refine ⟨by rw [burner]; rfl, igu.trans ?_⟩
    rw [reporting_igu, held x hx]
    rfl
  · have queue : (lostBurner c b.unsupervised s).igu.queue = c :: [] := congrArg (· ++ [c]) hempty
    have free := promote_of_free (s := lostBurner c b.unsupervised s) hfree queue
    rw [free, State.chan_mapChan_self] at burner
    refine ⟨by rw [burner]; rfl, igu.trans ?_⟩
    rw [reporting_igu, free]
    rfl
  · rw [turned.rpu, raise_eq]
    rfl

end Sys2Proof.Machine
end

section
/-! SUPPORT. What the two shares of the gate input block do (R151 to R158, R144). -/

namespace Sys2Proof.Machine

/-! ### Turns of all channels that raise records -/

/-- Turns that raise records and do nothing else. -/
theorem forChans_noting {f : Chan → State → State} {recs : Chan → List EventRecord} {s : State}
    (h : ∀ c r, f c (reporting r s) = reporting (r.notingAll (recs c)) s) (r : Rpu) :
    forChans f (reporting r s) = reporting (r.notingAll (([0, 1, 2, 3] : List Chan).flatMap recs)) s := by
  simp only [forChans, h, List.flatMap_cons, List.flatMap_nil, List.append_nil, Rpu.notingAll_append]

theorem flatMap_ite {α β : Type} (p : α → Bool) (f : α → List β) (l : List α) :
    (l.flatMap fun a => if p a then f a else []) = (l.filter p).flatMap f := by
  induction l with
  | nil => rfl
  | cons a l ih =>
    rw [List.flatMap_cons, ih, List.filter_cons]
    cases p a <;> rfl

theorem flatMap_ite_single {α β : Type} (p : α → Bool) (f : α → β) (l : List α) :
    (l.flatMap fun a => if p a then [f a] else []) = (l.filter p).map f := by
  rw [flatMap_ite p fun a => [f a], List.map_eq_flatMap]

/-- A change of each channel, one after another, is the change of all. -/
theorem forChans_mapChan (g : Channel → Channel) (s : State) : forChans (fun c u => u.mapChan c g) s = mapChans g s := by
  have chans : (forChans (fun c u => u.mapChan c g) s).chans = (mapChans g s).chans := by
    refine Quad.ext_get _ _ fun c => ?_
    show ((((s.mapChan 0 g).mapChan 1 g).mapChan 2 g).mapChan 3 g).chan c = (mapChans g s).chan c
    rw [chan_mapChans]
    fin_cases c <;> simp
  show { s with chans := (forChans (fun c u => u.mapChan c g) s).chans } = mapChans g s
  rw [chans]
  rfl

/-! ### The gates -/

/-- The gates after the samples `x` (R152). -/
def Gib.sampled (x : Quad Bool) (g : Gib) : Gib :=
  { g with gates := .ofFn fun k => gateStep (x.get k) (g.gates.get k) }

/-- The gates after their samples, as the statements give them. -/
theorem gateStep_eq (x : Bool) (g : Gate) :
    gateStep x g = if x ≠ g.active ∧ 7 ≤ g.run then { g with active := x, run := 0 } else countedGate x g := by
  unfold gateStep countedGate Config.filterLength
  split_ifs <;> simp_all
  omega

theorem gateAccepts_iff (x : Bool) (g : Gate) : gateAccepts x g = true ↔ x ≠ g.active ∧ 7 ≤ g.run := by
  have length : Config.filterLength ≤ g.run + 1 ↔ 7 ≤ g.run := Nat.succ_le_succ_iff
  rw [gateAccepts, Bool.and_eq_true, bne_iff_ne, decide_eq_true_iff, length]

/-- The DOOR records of a sample with the levels `x` (R158). -/
theorem doorEvents_noting (x : InputPins) (s : State) (g : Fin 4) (r : Rpu) :
    doorEvents x.gates s.gib.gates g (reporting r s) =
      reporting (r.notingAll
        (if (s.gib.gates.get g).kind = .door ∧ x.gates.get g ≠ (s.gib.gates.get g).active ∧
            7 ≤ (s.gib.gates.get g).run then
          (([0, 1, 2, 3] : List Chan).filter fun d =>
            (s.chan d).cfg.kind.isElement && (s.chan d).cfg.gateMask.getLsbD g.val).map fun d =>
              { kind := .door, channel := some d, slot := (s.chan d).pgu.current
                parameter := if x.gates.get g then 0 else 1 }
        else [])) s := by
  have each (c : Chan) (r : Rpu) : doorEvent g (x.gates.get g) c (reporting r s) =
      reporting (r.notingAll
        (if (s.chan c).cfg.kind.isElement && (s.chan c).cfg.gateMask.getLsbD g.val then
          [{ kind := .door, channel := some c, slot := (s.chan c).pgu.current
             parameter := if x.gates.get g then 0 else 1 }]
        else [])) s := by
    unfold doorEvent
    rw [reporting_chan, gateInMask, raiseFor_reporting]
    split <;> rfl
  unfold doorEvents
  rw [forChans_noting each, flatMap_ite_single]
  simp only [gateAccepts_iff]
  split <;> rfl

theorem doorEvents_all (x : InputPins) (s : State) :
    forChans (doorEvents x.gates s.gib.gates) s = reporting (s.rpu.notingAll (doorRecords x s)) s := by
  have all := forChans_noting (fun g r => doorEvents_noting x s g r) s.rpu
  have recs : (([0, 1, 2, 3] : List (Fin 4)).flatMap fun g =>
      if (s.gib.gates.get g).kind = .door ∧ x.gates.get g ≠ (s.gib.gates.get g).active ∧
          7 ≤ (s.gib.gates.get g).run then
        (([0, 1, 2, 3] : List Chan).filter fun d =>
          (s.chan d).cfg.kind.isElement && (s.chan d).cfg.gateMask.getLsbD g.val).map fun d =>
            ({ kind := .door, channel := some d, slot := (s.chan d).pgu.current
               parameter := if x.gates.get g then 0 else 1 } : EventRecord)
      else []) = doorRecords x s := by
    rw [doorRecords, ← flatMap_ite]
    simp only [decide_eq_true_eq]
  rw [recs] at all
  exact all

/-- What the share of the gates does (R151, R152, R156 to R158). -/
structure GatesTaken (s t : State) : Prop where
  gib : t.gib = s.gib.sampled s.pins.inputs.gates
  rpu : t.rpu = s.rpu.notingAll (doorRecords s.pins.inputs s)
  channel : ∀ c, (t.chan c).gated = gatedBy t.gib.gates (s.chan c).cfg ∧ (t.chan c).chc = (s.chan c).chc ∧
    (t.chan c).lockoutBit = (s.chan c).lockoutBit ∧ (t.chan c).pgu = (s.chan c).pgu ∧
    (t.chan c).cfg = (s.chan c).cfg ∧ (t.chan c).burner = (s.chan c).burner ∧ (t.chan c).valve = (s.chan c).valve
  quiet : GatesQuiet s.pins.inputs.gates s → t.chans = s.chans ∧ t.apu = s.apu
  line : KeepsLine s t
  mtb : t.mtb = s.mtb
  ssv : t.ssv = s.ssv
  igu : t.igu = s.igu
  peers : t.apu.peers = s.apu.peers
  held : t.held = s.held
  pins : t.pins = s.pins

theorem gatesShare_eq (s : State) :
    gatesShare s = regate
      { reporting (s.rpu.notingAll (doorRecords s.pins.inputs s)) s with gib := s.gib.sampled s.pins.inputs.gates } := by
  unfold gatesShare
  dsimp only
  rw [doorEvents_all]
  rfl

/-- A quiet sample leaves the gating of every channel as it was. -/
theorem gatedBy_sampled {x : Quad Bool} {s : State} (h : GatesQuiet x s) (c : Chan) :
    gatedBy (s.gib.sampled x).gates (s.chan c).cfg = (s.chan c).gated := by
  obtain ⟨runs, gated⟩ := h
  have active (k : Fin 4) : ((s.gib.sampled x).gates.get k).active = (s.gib.gates.get k).active ∧
      ((s.gib.sampled x).gates.get k).kind = (s.gib.gates.get k).kind := by
    rw [Gib.sampled, Quad.get_ofFn, gateStep_eq, if_neg fun ⟨hne, hrun⟩ => absurd (runs k hne) (not_lt.2 hrun)]
    exact ⟨rfl, rfl⟩
  refine Bool.eq_iff_iff.2 ((gatedBy_iff _ _).trans (Iff.trans ?_ (gated c).symm))
  refine and_congr_right fun _ => exists_congr fun k => ?_
  rw [(active k).1, (active k).2]

/-- A change of all channels that changes none. -/
theorem mapChans_of_fixed {f : Channel → Channel} {s : State} (h : ∀ c, f (s.chan c) = s.chan c) : mapChans f s = s := by
  have chans : (mapChans f s).chans = s.chans := Quad.ext_get _ _ fun c => (chan_mapChans f s c).trans (h c)
  show { s with chans := (mapChans f s).chans } = s
  rw [chans]

/-- Gated conditions that stand as configured stay, and nothing follows (R156, R157). -/
theorem regate_of_fixed {s : State} (h : ∀ c, gatedBy s.gib.gates (s.chan c).cfg = (s.chan c).gated) : regate s = s := by
  have same : regated s = s := mapChans_of_fixed fun c => by rw [h c]
  have none : (allChans.any fun c => ((regated s).chan c).gated != (s.chan c).gated) = false := by
    rw [same]
    simp
  unfold regate
  rw [none, same]
  rfl

/-- The gates sampled, and their records raised. -/
def gatesSampled (s : State) : State :=
  { reporting (s.rpu.notingAll (doorRecords s.pins.inputs s)) s with gib := s.gib.sampled s.pins.inputs.gates }

theorem gatesShare_taken (s : State) : GatesTaken s (gatesShare s) := by
  have share : gatesShare s = regate (gatesSampled s) := gatesShare_eq s
  have quiet (h : GatesQuiet s.pins.inputs.gates s) : (regate (gatesSampled s)).chans = s.chans ∧
      (regate (gatesSampled s)).apu = s.apu := by
    rw [regate_of_fixed (s := gatesSampled s) fun c => gatedBy_sampled h c]
    exact ⟨rfl, rfl⟩
  have line : KeepsLine s (gatesSampled s) := ⟨rfl, rfl, rfl, rfl, rfl⟩
  rw [share]
  refine ⟨?_, ?_, fun c => ?_, quiet, line.trans ?_, ?_, ?_, ?_, ?_, ?_, ?_⟩
  all_goals obtain hr | hr := regate_cases (gatesSampled s) <;> rw [hr]
  case refine_3.inl =>
    rw [regated_chan]
    exact ⟨rfl, rfl, rfl, rfl, rfl, rfl, rfl⟩
  case refine_3.inr =>
    have gib : (recompute (regated (gatesSampled s))).gib = s.gib.sampled s.pins.inputs.gates := recompute_gib _
    rw [gib, recompute_chan_gated, recompute_chan_chc, recompute_chan_lockoutBit, recompute_chan_pgu, recompute_chan_cfg,
      recompute_chan_burner, recompute_chan_valve, regated_chan]
    exact ⟨rfl, rfl, rfl, rfl, rfl, rfl, rfl⟩
  case refine_4.inl => exact ⟨rfl, rfl, rfl, rfl, rfl⟩
  case refine_4.inr => simp [KeepsLine, regated]
  case refine_1.inr => exact recompute_gib _
  case refine_2.inr => exact recompute_rpu _
  case refine_5.inr => exact recompute_mtb _
  case refine_6.inr => exact recompute_ssv _
  case refine_7.inr => exact recompute_igu _
  case refine_8.inr => exact recompute_apu_peers _
  case refine_9.inr => exact recompute_held _
  case refine_10.inr => exact recompute_pins _
  all_goals rfl

/-! ### The manual reset -/

theorem mapChan_of_fixed {c : Chan} {f : Channel → Channel} {s : State} (h : f (s.chan c) = s.chan c) :
    s.mapChan c f = s := by
  have chans : (s.mapChan c f).chans = s.chans := by
    refine Quad.ext_get _ _ fun d => ?_
    show (s.mapChan c f).chan d = s.chan d
    by_cases hd : d = c
    · subst hd
      rw [State.chan_mapChan_self, h]
    · rw [State.chan_mapChan_ne _ _ _ _ hd]
  show { s with chans := (s.mapChan c f).chans } = s
  rw [chans]

/-- A channel that a manual reset clears, where it is in LOCKOUT (R144). -/
def Channel.cleared (ch : Channel) : Channel :=
  if ch.chc.state = .lockout then { ch with lockoutBit := false, chc := { ch.chc with state := .idle } } else ch

theorem clearLockout_noting (c : Chan) (r : Rpu) (s : State) :
    clearLockout c (reporting r s) =
      reporting
        (r.notingAll
          (if (s.chan c).chc.state = .lockout then
            [{ kind := .lockoutCleared, channel := some c, slot := none, parameter := 0 }]
          else []))
        (s.mapChan c Channel.cleared) := by
  unfold clearLockout
  rw [reporting_chan]
  split
  · next h =>
    have changed : (s.mapChan c fun ch => { ch with lockoutBit := false, chc := { ch.chc with state := .idle } }) =
        s.mapChan c Channel.cleared := mapChan_congr (if_pos h).symm
    rw [raise_eq, ← changed]
    rfl
  · next h =>
    rw [mapChan_of_fixed (f := Channel.cleared) (if_neg h)]
    rfl

/-- The LOCKOUT_CLEARED record of channel `c`. -/
def clearRecord (c : Chan) : EventRecord := { kind := .lockoutCleared, channel := some c, slot := none, parameter := 0 }

/-- The LOCKOUT channels of `s` cleared, with their records (R144). -/
theorem forChans_clearLockout (s : State) :
    forChans clearLockout s =
      reporting
        (s.rpu.notingAll
          ((([0, 1, 2, 3] : List Chan).filter fun c => (s.chan c).chc.state == .lockout).map clearRecord))
        (mapChans Channel.cleared s) := by
  have each (c : Chan) (r : Rpu) (u : State) (h : u.chan c = s.chan c) : clearLockout c (reporting r u) =
      reporting (r.notingAll (if (s.chan c).chc.state == .lockout then [clearRecord c] else []))
        (u.mapChan c Channel.cleared) := by
    rw [clearLockout_noting, h]
    cases (s.chan c).chc.state <;> rfl
  have start : forChans clearLockout s = forChans clearLockout (reporting s.rpu s) := rfl
  rw [start, ← flatMap_ite_single, ← forChans_mapChan]
  unfold forChans
  rw [each 0 _ _ rfl, each 1 _ _ (by simp), each 2 _ _ (by simp), each 3 _ _ (by simp)]
  simp only [List.flatMap_cons, List.flatMap_nil, List.append_nil, Rpu.notingAll_append]

/-- The MR filter after a sample, as the statements give it (R153). -/
theorem manualStep_eq (f : Option Frequency) (released : Bool) (g : Gib) :
    manualStep f (!released) g =
      if (!g.mrActive && !released && decide (perSecond f ≤ g.mrOn + 1)) = true then
        ({ g with mrActive := true, mrOn := 0 }, true)
      else (countedButton released g, false) := by
  unfold manualStep countedButton Config.filterLength
  cases hg : g.mrActive <;> cases released <;> simp
  · split_ifs <;> first | rfl | omega
  · split_ifs <;> first | rfl | omega

/-- The MR filter of `s` after a sample with the levels `x` (R153). -/
def buttonSampled (x : InputPins) (s : State) : Gib :=
  if pressQualifies x s then { s.gib with mrActive := true, mrOn := 0 } else countedButton x.mr s.gib

/-- What the share of MR does (R151, R153, R144). -/
structure ManualTaken (s t : State) : Prop where
  gib : t.gib = buttonSampled s.pins.inputs s
  rpu : t.rpu = s.rpu.notingAll (clearedRecords s.pins.inputs s)
  channel : ∀ c, (t.chan c).gated = (s.chan c).gated ∧
    (t.chan c).chc =
      (if clearedBy s.pins.inputs s c then { (s.chan c).chc with state := .idle } else (s.chan c).chc) ∧
    (t.chan c).lockoutBit = ((s.chan c).lockoutBit && !clearedBy s.pins.inputs s c) ∧
    (t.chan c).pgu = (s.chan c).pgu ∧ (t.chan c).cfg = (s.chan c).cfg ∧ (t.chan c).burner = (s.chan c).burner ∧
    (t.chan c).valve = (s.chan c).valve
  quiet : pressQualifies s.pins.inputs s = false ∨ s.igu.holder.isSome = true → t.chans = s.chans ∧ t.apu = s.apu
  line : KeepsLine s t
  mtb : t.mtb = s.mtb
  ssv : t.ssv = s.ssv
  igu : t.igu = s.igu
  peers : t.apu.peers = s.apu.peers
  held : t.held = s.held
  pins : t.pins = s.pins

/-- `s` with the MR filter moved. -/
def manualSampled (s : State) : State := { s with gib := buttonSampled s.pins.inputs s }

/-- A sample of MR that no request follows, or one that is ignored, moves the filter alone. -/
theorem manualTaken_quiet {s : State} (h : pressQualifies s.pins.inputs s = false ∨ s.igu.holder.isSome = true) :
    ManualTaken s (manualSampled s) := by
  have none (c : Chan) : clearedBy s.pins.inputs s c = false := by
    obtain h | h := h
    · rw [clearedBy, h]
      rfl
    · rw [clearedBy, ← Option.not_isSome, h]
      simp
  have quiet : clearedRecords s.pins.inputs s = [] := by
    rw [clearedRecords, List.filter_eq_nil_iff.2 fun c _ => by simp [none c]]
    rfl
  refine ⟨rfl, by rw [quiet]; rfl, fun c => ?_, fun _ => ⟨rfl, rfl⟩, ⟨rfl, rfl, rfl, rfl, rfl⟩, rfl, rfl, rfl, rfl, rfl,
    rfl⟩
  rw [none c]
  exact ⟨rfl, rfl, (Bool.and_true _).symm, rfl, rfl, rfl, rfl⟩

theorem manualShare_eq (s : State) :
    manualShare s = if pressQualifies s.pins.inputs s then takeManualReset (manualSampled s) else manualSampled s := by
  have step : manualStep s.mtb.frequency (!s.pins.inputs.mr) s.gib =
      if pressQualifies s.pins.inputs s = true then ({ s.gib with mrActive := true, mrOn := 0 }, true)
      else (countedButton s.pins.inputs.mr s.gib, false) := manualStep_eq _ _ _
  unfold manualShare manualSampled buttonSampled
  cases hp : pressQualifies s.pins.inputs s
  · rw [hp, if_neg Bool.false_ne_true] at step
    simp only [step, Bool.false_eq_true, if_false]
  · rw [hp, if_pos rfl] at step
    simp only [step, if_true]

theorem takeManualReset_ignored {s : State} {x : Chan} (h : s.igu.holder = some x) : takeManualReset s = s := by
  unfold takeManualReset
  rw [h]

theorem takeManualReset_taken {s : State} (h : s.igu.holder = none) :
    takeManualReset s = recompute (forChans clearLockout s) := by
  unfold takeManualReset
  rw [h]

theorem manualTaken_cleared {s : State} (hp : pressQualifies s.pins.inputs s = true) (hh : s.igu.holder = none) :
    ManualTaken s (recompute (forChans clearLockout (manualSampled s))) := by
  have clears (c : Chan) : clearedBy s.pins.inputs s c = ((s.chan c).chc.state == .lockout) := by
    rw [clearedBy, hp, hh]
    rfl
  have records : clearedRecords s.pins.inputs s =
      (([0, 1, 2, 3] : List Chan).filter fun c => (s.chan c).chc.state == .lockout).map clearRecord := by
    rw [clearedRecords, funext clears]
    rfl
  have cleared := forChans_clearLockout (manualSampled s)
  rw [cleared]
  have line : KeepsLine s (mapChans Channel.cleared (manualSampled s)) := ⟨rfl, rfl, rfl, rfl, rfl⟩
  have self (c : Chan) : (mapChans Channel.cleared (manualSampled s)).chan c = (s.chan c).cleared :=
    chan_mapChans _ (manualSampled s) c
  refine ⟨recompute_gib _, ?_, fun c => ?_, fun hq => ?_, ?_, recompute_mtb _, recompute_ssv _, recompute_igu _,
    recompute_apu_peers _, recompute_held _, recompute_pins _⟩
  · rw [recompute_rpu, records]
    rfl
  · rw [recompute_chan_gated, recompute_chan_chc, recompute_chan_lockoutBit, recompute_chan_pgu, recompute_chan_cfg,
      recompute_chan_burner, recompute_chan_valve, reporting_chan, self, clears, Channel.cleared]
    by_cases hl : (s.chan c).chc.state = .lockout <;> simp [hl]
  · rw [hp, hh] at hq
    obtain hq | hq := hq <;> exact nomatch hq
  · exact line.trans (apportioned_recompute (reporting _ _)).line

theorem manualShare_taken (s : State) : ManualTaken s (manualShare s) := by
  rw [manualShare_eq]
  cases hp : pressQualifies s.pins.inputs s
  · exact manualTaken_quiet (.inl hp)
  rw [if_pos rfl]
  cases hh : s.igu.holder with
  | some x =>
    rw [takeManualReset_ignored (s := manualSampled s) hh]
    exact manualTaken_quiet (.inr (by rw [hh]; rfl))
  | none =>
    rw [takeManualReset_taken (s := manualSampled s) hh]
    exact manualTaken_cleared hp hh

end Sys2Proof.Machine
end

section
/-! Settles O42 and O43: the rows of the gate input block, which samples its five inputs in one event (R151). -/

namespace Sys2Proof.Machine

/-! ### The two shares in one event -/

theorem pressQualifies_congr {x : InputPins} {s u : State} (hf : u.mtb = s.mtb) (ha : u.gib.mrActive = s.gib.mrActive)
    (ho : u.gib.mrOn = s.gib.mrOn) : pressQualifies x u = pressQualifies x s := by
  rw [pressQualifies, pressQualifies, hf, ha, ho]

theorem countedButton_gates (b : Bool) (g : Gib) (q : Quad Gate) :
    countedButton b { g with gates := q } = { countedButton b g with gates := q } := by
  unfold countedButton
  dsimp only
  split_ifs <;> rfl

theorem buttonSampled_gates {x : InputPins} {s u : State} {q : Quad Gate} (hf : u.mtb = s.mtb)
    (hg : u.gib = { s.gib with gates := q }) : buttonSampled x u = { buttonSampled x s with gates := q } := by
  rw [buttonSampled, buttonSampled, pressQualifies_congr (x := x) hf (by rw [hg]) (by rw [hg]), hg, countedButton_gates]
  split <;> rfl

theorem buttonSampled_keeps_gates (x : InputPins) (s : State) : (buttonSampled x s).gates = s.gib.gates := by
  unfold buttonSampled countedButton
  split_ifs <;> rfl

theorem doorRecords_congr {x : InputPins} {s u : State} (hg : u.gib.gates = s.gib.gates)
    (hc : ∀ c, (u.chan c).pgu = (s.chan c).pgu ∧ (u.chan c).cfg = (s.chan c).cfg) :
    doorRecords x u = doorRecords x s := by
  have pgu (c : Chan) := (hc c).1
  have cfg (c : Chan) := (hc c).2
  rw [doorRecords, doorRecords]
  simp only [hg, pgu, cfg]

theorem clearedBy_congr {x : InputPins} {s u : State} (hp : pressQualifies x u = pressQualifies x s)
    (hi : u.igu = s.igu) (hc : ∀ c, (u.chan c).chc = (s.chan c).chc) (c : Chan) : clearedBy x u c = clearedBy x s c := by
  rw [clearedBy, clearedBy, hp, hi, hc]

/-- The five inputs sampled, but for the marks of the event. -/
structure InputsTaken (x : InputPins) (records : List EventRecord) (s t : State) : Prop where
  gib : t.gib = { buttonSampled x s with gates := (s.gib.sampled x.gates).gates }
  rpu : t.rpu = s.rpu.notingAll records
  channel : ∀ c : Chan,
    GatedAsConfigured t c ∧
    (t.chan c).chc = (if clearedBy x s c then { (s.chan c).chc with state := .idle } else (s.chan c).chc) ∧
    (t.chan c).lockoutBit = ((s.chan c).lockoutBit && !clearedBy x s c) ∧
    (t.chan c).pgu = (s.chan c).pgu ∧ (t.chan c).cfg = (s.chan c).cfg ∧ (t.chan c).burner = (s.chan c).burner ∧
    (t.chan c).valve = (s.chan c).valve
  quiet : GatesQuiet x.gates s → pressQualifies x s = false ∨ s.igu.holder.isSome = true →
    t.chans = s.chans ∧ t.apu = s.apu
  line : KeepsLine s t
  station : t.mtb = s.mtb ∧ t.ssv = s.ssv ∧ t.igu = s.igu ∧ t.apu.peers = s.apu.peers ∧ t.held = s.held

section
variable {s u t : State}

theorem chan_of_chans {s t : State} (h : t.chans = s.chans) (c : Chan) : t.chan c = s.chan c := by
  rw [State.chan, State.chan, h]

/-- The gates first, and MR after them. -/
theorem inputsTaken_gatesFirst (h : GatesTaken s u) (k : ManualTaken u t) :
    InputsTaken s.pins.inputs (doorRecords s.pins.inputs s ++ clearedRecords s.pins.inputs s) s t := by
  have press : pressQualifies s.pins.inputs u = pressQualifies s.pins.inputs s :=
    pressQualifies_congr h.mtb (by rw [h.gib]; rfl) (by rw [h.gib]; rfl)
  have clears := clearedBy_congr press h.igu fun c => (h.channel c).2.1
  have records : clearedRecords s.pins.inputs u = clearedRecords s.pins.inputs s := by
    rw [clearedRecords, clearedRecords, funext clears]
  have button := buttonSampled_gates (x := s.pins.inputs) h.mtb h.gib
  have gib := k.gib
  have rpu := k.rpu
  have channel := k.channel
  have quiet := k.quiet
  rw [h.pins] at gib rpu channel quiet
  have gib : t.gib = { buttonSampled s.pins.inputs s with gates := (s.gib.sampled s.pins.inputs.gates).gates } :=
    gib.trans button
  refine ⟨gib, ?_, fun c => ?_, fun hq hp => ?_, h.line.trans k.line, k.mtb.trans h.mtb, k.ssv.trans h.ssv,
    k.igu.trans h.igu, k.peers.trans h.peers, k.held.trans h.held⟩
  · rw [rpu, h.rpu, records, Rpu.notingAll_append]
  · obtain ⟨hgated, hchc, hbit, hpgu, hcfg, hburner, hvalve⟩ := h.channel c
    obtain ⟨kgated, kchc, kbit, kpgu, kcfg, kburner, kvalve⟩ := channel c
    rw [clears] at kchc kbit
    have gates : t.gib.gates = u.gib.gates := by rw [gib, h.gib]
    refine ⟨?_, by rw [kchc, hchc], by rw [kbit, hbit], kpgu.trans hpgu, kcfg.trans hcfg, kburner.trans hburner,
      kvalve.trans hvalve⟩
    rw [GatedAsConfigured, kgated, hgated, kcfg, hcfg, gates]
    exact gatedBy_iff _ _
  · obtain ⟨hchans, hapu⟩ := h.quiet hq
    obtain ⟨kchans, kapu⟩ := quiet (by rwa [press, h.igu])
    exact ⟨kchans.trans hchans, kapu.trans hapu⟩

/-- MR first, and the gates after it. -/
theorem inputsTaken_buttonFirst (h : ManualTaken s u) (k : GatesTaken u t) :
    InputsTaken s.pins.inputs (clearedRecords s.pins.inputs s ++ doorRecords s.pins.inputs s) s t := by
  have gates : u.gib.gates = s.gib.gates := by rw [h.gib, buttonSampled_keeps_gates]
  have records := doorRecords_congr (x := s.pins.inputs) gates fun c =>
    ⟨(h.channel c).2.2.2.1, (h.channel c).2.2.2.2.1⟩
  have gib := k.gib
  have rpu := k.rpu
  have quiet := k.quiet
  rw [h.pins] at gib rpu quiet
  have gib : t.gib = { buttonSampled s.pins.inputs s with gates := (s.gib.sampled s.pins.inputs.gates).gates } := by
    rw [gib, Gib.sampled, gates, h.gib]
    rfl
  refine ⟨gib, ?_, fun c => ?_, fun hq hp => ?_, h.line.trans k.line, k.mtb.trans h.mtb, k.ssv.trans h.ssv,
    k.igu.trans h.igu, k.peers.trans h.peers, k.held.trans h.held⟩
  · rw [rpu, h.rpu, records, Rpu.notingAll_append]
  · obtain ⟨-, hchc, hbit, hpgu, hcfg, hburner, hvalve⟩ := h.channel c
    obtain ⟨kgated, kchc, kbit, kpgu, kcfg, kburner, kvalve⟩ := k.channel c
    refine ⟨?_, by rw [kchc, hchc], by rw [kbit, hbit], kpgu.trans hpgu, kcfg.trans hcfg, kburner.trans hburner,
      kvalve.trans hvalve⟩
    rw [GatedAsConfigured, kgated, kcfg]
    exact gatedBy_iff _ _
  · obtain ⟨hchans, hapu⟩ := h.quiet hp
    have still : GatesQuiet s.pins.inputs.gates u := by
      obtain ⟨runs, gated⟩ := hq
      refine ⟨by rwa [gates], fun c => ?_⟩
      rw [GatedAsConfigured, chan_of_chans hchans, gates]
      exact gated c
    obtain ⟨kchans, kapu⟩ := quiet still
    exact ⟨kchans.trans hchans, kapu.trans hapu⟩

/-- What the row leaves, with its marks. -/
theorem InputsTaken.sampledInputs {x y : InputPins} {records : List EventRecord} {l : List HalfCycleUnit} {e : Bool}
    (h : InputsTaken (levelsRead x s) records (withInputs y s) t) (hl : .gates ∈ l ∧ .manualReset ∈ l) :
    SampledInputs x records s { t with taken := l, eventsNew := e } := by
  obtain ⟨mtb, ssv, igu, peers, held⟩ := h.station
  refine ⟨hl, h.gib.trans ?_, ?_, h.channel, h.quiet, h.line, mtb, ssv, igu, peers, held⟩
  · have gates : (s.gib.sampled x.gates).gates = .ofFn fun g =>
        if x.gates.get g ≠ (s.gib.gates.get g).active ∧ 7 ≤ (s.gib.gates.get g).run then
          { s.gib.gates.get g with active := x.gates.get g, run := 0 }
        else countedGate (x.gates.get g) (s.gib.gates.get g) := by
      rw [Gib.sampled]
      exact congrArg Quad.ofFn (funext fun g => gateStep_eq _ _)
    show { buttonSampled x s with gates := (s.gib.sampled x.gates).gates } = _
    rw [gates]
    rfl
  · rw [foldl_raise_eq]
    exact h.rpu

theorem GatesTaken.marked (h : GatesTaken s u) (l : List HalfCycleUnit) : GatesTaken s { u with taken := l } :=
  ⟨h.gib, h.rpu, h.channel, h.quiet, h.line, h.mtb, h.ssv, h.igu, h.peers, h.held, h.pins⟩

theorem ManualTaken.marked (h : ManualTaken s u) (l : List HalfCycleUnit) : ManualTaken s { u with taken := l } :=
  ⟨h.gib, h.rpu, h.channel, h.quiet, h.line, h.mtb, h.ssv, h.igu, h.peers, h.held, h.pins⟩

end

/-! ### The two rows -/

section
variable {x : InputPins} {s : State} {due : State → Bool} (hg : Shares .gates s) (hm : Shares .manualReset s)
include hg hm

/-- A row of the gates, which MR follows in the same event (R151). -/
theorem live_gatesRow (hdue : due (withInputs x s) = true) :
    ∃ t, live (takeShareWith x .gates due) s = .next t ∧
      SampledInputs x (doorRecords x s ++ clearedRecords x s) s t := by
  have may : mayTake .gates (withInputs x s) = true := mayTake_iff.2 ⟨hg.2.1, hg.2.2.2⟩
  have row := live_takeShareWith hg.1 rfl may hdue
  rw [lead_of_taken _ _ _ (by simp [earlierShares])] at row
  have first := deliverOne_untaken (comingRising s) .gates (withInputs x s) hg.2.2.2
  have untouched : .manualReset ∉ (deliverOne (comingRising s) .gates (withInputs x s)).taken := by
    rw [mem_deliverOne rfl]
    simpa using hm.2.2.2
  have second := deliverOne_untaken (comingRising s) .manualReset _ untouched
  have gates := (gatesShare_taken (withInputs x s)).marked
    (.gates :: (begun (withInputs x s) (gatesShare (withInputs x s)) ++ s.taken))
  have both := inputsTaken_gatesFirst gates (manualShare_taken _)
  refine ⟨_, row, ?_⟩
  show SampledInputs x _ s (noted _ (deliverOne _ .manualReset (deliverOne _ .gates (withInputs x s))))
  have marks : HalfCycleUnit.gates ∈ (deliverOne (comingRising s) .manualReset
      (deliverOne (comingRising s) .gates (withInputs x s))).taken ∧
      .manualReset ∈ (deliverOne (comingRising s) .manualReset
        (deliverOne (comingRising s) .gates (withInputs x s))).taken :=
    ⟨(mem_deliverOne rfl).2 (.inl (mem_deliverOne_taken _ _ _)), mem_deliverOne_taken _ _ _⟩
  rw [second] at marks ⊢
  rw [first] at marks ⊢
  exact both.sampledInputs marks

/-- A row of MR, which the gates follow in the same event (R151). -/
theorem live_manualRow (hdue : due (withInputs x s) = true) :
    ∃ t, live (takeShareWith x .manualReset due) s = .next t ∧
      SampledInputs x (clearedRecords x s ++ doorRecords x s) s t := by
  have may : mayTake .manualReset (withInputs x s) = true := mayTake_iff.2 ⟨hm.2.1, hm.2.2.2⟩
  have row := live_takeShareWith hm.1 rfl may hdue
  rw [lead_of_taken _ _ _ (by simp [earlierShares])] at row
  have first := deliverOne_untaken (comingRising s) .manualReset (withInputs x s) hm.2.2.2
  have untouched : .gates ∉ (deliverOne (comingRising s) .manualReset (withInputs x s)).taken := by
    rw [mem_deliverOne rfl]
    simpa using hg.2.2.2
  have second := deliverOne_untaken (comingRising s) .gates _ untouched
  have button := (manualShare_taken (withInputs x s)).marked
    (.manualReset :: (begun (withInputs x s) (manualShare (withInputs x s)) ++ s.taken))
  have both := inputsTaken_buttonFirst button (gatesShare_taken _)
  refine ⟨_, row, ?_⟩
  show SampledInputs x _ s (noted _ (deliverOne _ .gates (deliverOne _ .manualReset (withInputs x s))))
  have marks : HalfCycleUnit.gates ∈ (deliverOne (comingRising s) .gates
      (deliverOne (comingRising s) .manualReset (withInputs x s))).taken ∧
      .manualReset ∈ (deliverOne (comingRising s) .gates
        (deliverOne (comingRising s) .manualReset (withInputs x s))).taken :=
    ⟨mem_deliverOne_taken _ _ _, (mem_deliverOne rfl).2 (.inl (mem_deliverOne_taken _ _ _))⟩
  rw [second] at marks ⊢
  rw [first] at marks ⊢
  exact both.sampledInputs marks

end

/-- Settles O42: the row is the event of the gate input block with the gates first. -/
theorem gateChangeIsAcceptedAtEightSamples : Obligations.GateChangeIsAcceptedAtEightSamples := by
  intro s g pins hgates hmanual hnew hrun
  have due : (allChans.any fun k => gateAccepts ((withInputs pins s).pins.inputs.gates.get k)
      ((withInputs pins s).gib.gates.get k)) = true :=
    List.any_eq_true.2 ⟨g, mem_channels g, (gateAccepts_iff _ _).2 ⟨hnew, hrun⟩⟩
  obtain ⟨t, row, sampled⟩ := live_gatesRow hgates hmanual
    (due := fun s => allChans.any fun k => gateAccepts (s.pins.inputs.gates.get k) (s.gib.gates.get k)) due
  have gate : t.gib.gates.get g = { s.gib.gates.get g with active := pins.gates.get g, run := 0 } := by
    rw [sampled.2.1, Quad.get_ofFn, if_pos ⟨hnew, hrun⟩]
  refine ⟨t, row, ?_, ?_, ?_, sampled⟩ <;> rw [gate]

theorem clearedBy_of_no_press {x : InputPins} {s : State} (h : pressQualifies x s = false) (c : Chan) :
    clearedBy x s c = false := by
  rw [clearedBy, h, Bool.false_and, Bool.false_and]

theorem clearedRecords_of_none {x : InputPins} {s : State} (h : ∀ c, clearedBy x s c = false) :
    clearedRecords x s = [] := by
  rw [clearedRecords, List.filter_eq_nil_iff.2 (fun c _ => by simp [h]), List.map_nil]

theorem doorRecords_of_quiet {x : InputPins} {s : State} (h : GatesQuiet x.gates s) : doorRecords x s = [] := by
  obtain ⟨runs, -⟩ := h
  rw [doorRecords, List.filter_eq_nil_iff.2 (fun k _ => ?_), List.flatMap_nil]
  have run := runs k
  rw [decide_eq_true_eq]
  rintro ⟨-, new, eighth⟩
  have := run new
  omega

theorem length_clearedRecords (x : InputPins) (s : State) : (clearedRecords x s).length ≤ 4 := by
  rw [clearedRecords, List.length_map]
  exact List.length_filter_le _ _

/-- Settles O43: the rows are the event of the gate input block with MR first. -/
theorem manualResetClearsLockouts : Obligations.ManualResetClearsLockouts := by
  intro s c gates x pressed hgates hmanual hx
  refine ⟨fun hp hidle hon => ?_, fun hp hactive hoff => ?_⟩
  · subst hp
    have press : pressQualifies x s = true := by simp [pressQualifies, hidle, hx, hon]
    have due : (manualStep s.mtb.frequency true s.gib).2 = true := by
      have step := manualStep_eq s.mtb.frequency false s.gib
      rw [if_pos (by simp [hidle, hon])] at step
      exact congrArg Prod.snd step
    obtain ⟨t, row, sampled⟩ := live_manualRow (x := withButton true gates s) hgates hmanual
      (due := fun s => (manualStep s.mtb.frequency true s.gib).2) due
    rw [show withButton true gates s = x from hx.symm] at row sampled
    obtain ⟨-, gib, rpu, channel, quiet, -⟩ := id sampled
    rw [press, if_pos rfl] at gib
    rw [foldl_raise_eq] at rpu
    obtain ⟨-, chc, bit, -⟩ := channel c
    refine ⟨t, (congrArg (fun x => live (takeShareWith x _ _) s) hx.symm).trans row, by rw [gib], by rw [gib],
      by rw [gib], sampled, fun hfree hlocked => ?_, fun hother => ?_, fun hheld hquiet => ?_⟩
    · have clears : clearedBy x s c = true := by simp [clearedBy, press, hfree, hlocked]
      rw [clears] at chc bit
      refine ⟨chc, by rw [bit, Bool.not_true, Bool.and_false], fun room => ?_⟩
      have short := length_clearedRecords x s
      rw [rpu, reporting_rpu, Rpu.notingAll_append]
      refine (Rpu.prefix_notingAll _ _).subset ?_
      rw [Rpu.notingAll_of_room (by omega)]
      exact List.mem_append_right _ (List.mem_map.2 ⟨c, List.mem_filter.2 ⟨mem_channels c, clears⟩, rfl⟩)
    · have stays : clearedBy x s c = false := by simp [clearedBy, hother]
      rw [stays] at chc bit
      exact ⟨chc, by rw [bit, Bool.not_false, Bool.and_true]⟩
    · have none (d : Chan) : clearedBy x s d = false := by
        rw [clearedBy, Option.isNone_eq_false_iff.2 hheld, Bool.and_false, Bool.false_and]
      rw [clearedRecords_of_none none, doorRecords_of_quiet hquiet] at rpu
      exact ⟨(quiet hquiet (.inr hheld)).1, rpu⟩
  · subst hp
    have press : pressQualifies x s = false := by simp [pressQualifies, hactive]
    have step : manualStep s.mtb.frequency false s.gib = ({ s.gib with mrActive := false, mrOff := 0 }, false) := by
      refine (manualStep_eq s.mtb.frequency true s.gib).trans ?_
      rw [if_neg (by simp [hactive]), countedButton, if_pos hactive, if_pos rfl, if_neg (by omega)]
    have due : (s.gib.mrActive && !(manualStep s.mtb.frequency false s.gib).1.mrActive) = true := by
      rw [step, hactive]
      rfl
    obtain ⟨t, row, sampled⟩ := live_manualRow (x := withButton false gates s) hgates hmanual
      (due := fun s => s.gib.mrActive && !(manualStep s.mtb.frequency false s.gib).1.mrActive) due
    rw [show withButton false gates s = x from hx.symm] at row sampled
    rw [clearedRecords_of_none (clearedBy_of_no_press press), List.nil_append] at sampled
    obtain ⟨-, gib, rpu, -, quiet, -⟩ := id sampled
    have high : x.mr = true := by rw [hx]; rfl
    rw [press, if_neg (by decide), countedButton, if_pos hactive, if_pos high, if_neg (by omega)] at gib
    refine ⟨t, (congrArg (fun x => live (takeShareWith x _ _) s) hx.symm).trans row, by rw [gib], by rw [gib],
      by rw [gib], sampled, fun hquiet => ?_⟩
    obtain ⟨chans, apu⟩ := quiet hquiet (.inl press)
    rw [doorRecords_of_quiet hquiet] at rpu
    exact ⟨chans, rpu, apu⟩

end Sys2Proof.Machine
end

section
/-! Settles O27: the second event on the burners in PURGE (R4, R125, R126, R139). -/

namespace Sys2Proof.Machine

/-! ### What a second event leaves alone -/

/-- Nothing but the burners' records and the line of the ignition unit has moved. -/
structure BurnersAlone (s t : State) : Prop where
  station : t = { s with chans := t.chans, igu := t.igu }
  channel : ∀ d, t.chan d = { s.chan d with burner := (t.chan d).burner }
  spark : t.igu.spark = s.igu.spark

theorem BurnersAlone.refl (s : State) : BurnersAlone s s := ⟨rfl, fun _ => rfl, rfl⟩

theorem BurnersAlone.trans {s t u : State} (h : BurnersAlone s t) (k : BurnersAlone t u) : BurnersAlone s u where
  station := by
    have second := k.station
    rw [h.station] at second
    exact second
  channel d := by
    have second := k.channel d
    rw [h.channel d] at second
    exact second
  spark := k.spark.trans h.spark

theorem BurnersAlone.taken {s t : State} (h : BurnersAlone s t) : t.taken = s.taken := (congrArg State.taken h.station :)

theorem BurnersAlone.mtb {s t : State} (h : BurnersAlone s t) : t.mtb = s.mtb := (congrArg State.mtb h.station :)

theorem BurnersAlone.units {s t : State} (h : BurnersAlone s t) :
    t.rpu = s.rpu ∧ t.apu = s.apu ∧ t.ssv = s.ssv ∧ t.gib = s.gib := by
  rw [h.station]
  exact ⟨rfl, rfl, rfl, rfl⟩

theorem burnersAlone_set (c : Chan) (f : Channel → Burner) {g : Igu} {s : State} (hg : g.spark = s.igu.spark) :
    BurnersAlone s ({ s with igu := g }.mapChan c fun ch => { ch with burner := f ch }) where
  station := rfl
  channel d := by
    obtain rfl | hd := eq_or_ne d c
    · rw [State.chan_mapChan_self]
      rfl
    · rw [State.chan_mapChan_ne _ _ _ _ hd]
      rfl
  spark := hg

theorem burnersAlone_promote (s : State) : BurnersAlone s (promote s) := by
  unfold promote
  split
  · exact burnersAlone_set _ (fun ch => ch.burner.atLineWait) rfl
  · exact .refl s

theorem burnersAlone_joinQueue (c : Chan) (s : State) : BurnersAlone s (joinQueue c s) :=
  (burnersAlone_set c (fun ch => { ch.burner with phase := .queued })
    (g := { s.igu with queue := s.igu.queue ++ [c] }) rfl).trans (burnersAlone_promote _)

theorem burnersAlone_purgeSecond (c : Chan) (s : State) : BurnersAlone s (purgeSecond c s) := by
  unfold purgeSecond
  split
  · split
    · exact burnersAlone_set c (fun ch => { ch.burner with purge := ch.burner.purge - 1 }) (g := s.igu) rfl
    · exact (burnersAlone_set c (fun ch => { ch.burner with purge := 0, attempt := ch.burner.attempt + 1 })
        (g := s.igu) rfl).trans (burnersAlone_joinQueue c _)
  · exact .refl s

theorem burnersAlone_purgeShare (c : Chan) (s : State) : BurnersAlone s (purgeShare c s) := by
  unfold purgeShare
  split
  · exact .refl s
  · exact burnersAlone_purgeSecond c s

theorem burnersAlone_forChans (s : State) : BurnersAlone s (forChans purgeShare s) :=
  (burnersAlone_purgeShare 0 s).trans ((burnersAlone_purgeShare 1 _).trans
    ((burnersAlone_purgeShare 2 _).trans (burnersAlone_purgeShare 3 _)))

/-! ### The other burners -/

/-- Burner `c` is not at the head of a free unit's queue, and cannot come there by what other burners do. -/
abbrev OutOfTurn (c : Chan) (s : State) : Prop := c ∉ s.igu.queue ∨ s.igu.holder.isSome = true

/-- A burner out of turn is left as it is, and out of turn. -/
structure SparesBurner (c : Chan) (s t : State) : Prop where
  taken : t.taken = s.taken
  chan : OutOfTurn c s → t.chan c = s.chan c
  turn : OutOfTurn c s → OutOfTurn c t

theorem SparesBurner.refl (c : Chan) (s : State) : SparesBurner c s s := ⟨rfl, fun _ => rfl, id⟩

theorem SparesBurner.trans {c : Chan} {s t u : State} (h : SparesBurner c s t) (k : SparesBurner c t u) :
    SparesBurner c s u :=
  ⟨k.taken.trans h.taken, fun x => (k.chan (h.turn x)).trans (h.chan x), fun x => k.turn (h.turn x)⟩

theorem sparesBurner_mapChan {c d : Chan} (hd : d ≠ c) (f : Channel → Channel) (s : State) :
    SparesBurner c s (s.mapChan d f) :=
  ⟨rfl, fun _ => State.chan_mapChan_ne _ _ _ _ hd.symm, id⟩

theorem sparesBurner_promote (c : Chan) (s : State) : SparesBurner c s (promote s) := by
  cases hh : s.igu.holder with
  | some x =>
    rw [promote_of_holder hh]
    exact .refl c s
  | none =>
    cases hq : s.igu.queue with
    | nil =>
      have stays : promote s = s := by simp [promote, hh, hq]
      rw [stays]
      exact .refl c s
    | cons x rest =>
      rw [promote_of_free hh hq]
      have ahead (h : OutOfTurn c s) : c ≠ x ∧ c ∉ rest := by simpa [OutOfTurn, hh, hq] using h
      exact ⟨rfl, fun h => State.chan_mapChan_ne _ _ _ _ (ahead h).1, fun h => .inl (ahead h).2⟩

theorem sparesBurner_joinQueue {c d : Chan} (hd : d ≠ c) (s : State) : SparesBurner c s (joinQueue d s) := by
  have queued : SparesBurner c s ({ s with igu := { s.igu with queue := s.igu.queue ++ [d] } }.mapChan d fun ch =>
      { ch with burner := { ch.burner with phase := .queued } }) :=
    ⟨rfl, fun _ => State.chan_mapChan_ne _ _ _ _ hd.symm, Or.imp_left fun h => by simp [h, hd.symm]⟩
  exact queued.trans (sparesBurner_promote c _)

theorem sparesBurner_purgeShare {c d : Chan} (hd : d ≠ c) (s : State) : SparesBurner c s (purgeShare d s) := by
  unfold purgeShare purgeSecond
  split_ifs
  · exact .refl c s
  · exact sparesBurner_mapChan hd _ s
  · exact (sparesBurner_mapChan hd _ s).trans (sparesBurner_joinQueue hd _)
  · exact .refl c s

/-- The second event as burner `c` sees it. -/
theorem forChans_purgeShare_around (c : Chan) (s : State) :
    ∃ u, SparesBurner c s u ∧ SparesBurner c (purgeShare c u) (forChans purgeShare s) := by
  have other {d : Chan} (hd : d ≠ c) (u : State) := sparesBurner_purgeShare hd u
  unfold forChans
  fin_cases c
  · exact ⟨_, .refl _ s, (other (d := 1) (by decide) _).trans ((other (d := 2) (by decide) _).trans
      (other (d := 3) (by decide) _))⟩
  · exact ⟨_, other (d := 0) (by decide) s, (other (d := 2) (by decide) _).trans (other (d := 3) (by decide) _)⟩
  · exact ⟨_, (other (d := 0) (by decide) s).trans (other (d := 1) (by decide) _), other (d := 3) (by decide) _⟩
  · exact ⟨_, (other (d := 0) (by decide) s).trans ((other (d := 1) (by decide) _).trans
      (other (d := 2) (by decide) _)), .refl _ _⟩

/-- A burner out of turn that the second event does not end is left with its own share (R139). -/
theorem forChans_purgeShare_chan {c : Chan} {s : State} (hc : OutOfTurn c s) (g : Channel → Channel)
    (own : ∀ u : State, u.taken = s.taken → u.chan c = s.chan c → purgeShare c u = u.mapChan c g) :
    (forChans purgeShare s).chan c = g (s.chan c) := by
  obtain ⟨u, before, after⟩ := forChans_purgeShare_around c s
  have turn : OutOfTurn c u := before.turn hc
  have share := own u before.taken (before.chan hc)
  rw [share] at after
  rw [after.chan turn, State.chan_mapChan_self, before.chan hc]

theorem purgeShare_taken {c : Chan} {s : State} (h : .purge c ∈ s.taken) : purgeShare c s = s :=
  if_pos (List.contains_iff_mem.2 h)

theorem purgeShare_untaken {c : Chan} {s : State} (h : .purge c ∉ s.taken) : purgeShare c s = purgeSecond c s :=
  if_neg fun k => h (List.contains_iff_mem.1 k)

theorem purgeSecond_counts {c : Chan} {s : State} (hp : (s.chan c).burner.phase = .purge)
    (hn : 1 < (s.chan c).burner.purge) :
    purgeSecond c s = s.mapChan c fun ch => { ch with burner := { ch.burner with purge := ch.burner.purge - 1 } } := by
  rw [purgeSecond, if_pos hp, if_pos hn]

theorem purgeShare_other_phase {c : Chan} {s : State} (hp : (s.chan c).burner.phase ≠ .purge) : purgeShare c s = s := by
  unfold purgeShare purgeSecond
  split_ifs <;> rfl

theorem mapChan_id (c : Chan) (s : State) : s.mapChan c id = s := mapChan_of_fixed rfl

/-! ### The burners whose purge ends -/

/-- The record of a burner whose purge has ended: at the tail of the line with its attempt number raised by 1 (R139). -/
def Burner.rejoined (b : Burner) (holds : Bool) : Burner :=
  { b with
    phase := if holds then .lineWait else .queued, quiet := if holds then 0 else b.quiet
    purge := 0, attempt := b.attempt + 1 }

/-- The coming second event ends the purge of burner `c`. -/
def purgeEnds (s : State) (c : Chan) : Bool :=
  decide ((s.chan c).burner.phase = .purge ∧ (s.chan c).burner.purge ≤ 1 ∧ .purge c ∉ s.taken)

/-- Without holder there is no queue (R126): the line tells the unit. -/
abbrev LineTellsUnit (g : Igu) : Prop := g.holder = none → g.queue = []

theorem joinQueue_eq (c : Chan) (s : State) (hfree : LineTellsUnit s.igu) :
    joinQueue c s =
      { s with igu := s.igu.withLine (s.igu.line ++ [c]) }.mapChan c fun ch =>
        { ch with
          burner :=
            { ch.burner with
              phase := if s.igu.line.isEmpty then .lineWait else .queued
              quiet := if s.igu.line.isEmpty then 0 else ch.burner.quiet } } := by
  unfold joinQueue
  cases hh : s.igu.holder with
  | none =>
    have hline : s.igu.line = [] := by simp [Igu.line, hh, hfree hh]
    refine (promote_of_free (x := c) (rest := []) ?_ ?_).trans ?_
    · exact hh
    · exact congrArg (· ++ [c]) (hfree hh)
    rw [hline]
    exact mapChan_mapChan c (fun ch => { ch with burner := { ch.burner with phase := .queued } })
      (fun ch => { ch with burner := ch.burner.atLineWait }) { s with igu := s.igu.withLine [c] }
  | some x =>
    refine (promote_of_holder (x := x) ?_).trans ?_
    · exact hh
    have hline : s.igu.line = x :: s.igu.queue := by simp [Igu.line, hh]
    rw [hline, Igu.withLine, List.cons_append, List.head?_cons, List.tail_cons, ← hh, List.isEmpty_cons]
    rfl

theorem purgeSecond_ends {c : Chan} {s : State} (hp : (s.chan c).burner.phase = .purge)
    (hn : (s.chan c).burner.purge ≤ 1) (hfree : LineTellsUnit s.igu) :
    purgeSecond c s =
      { s with igu := s.igu.withLine (s.igu.line ++ [c]) }.mapChan c fun ch =>
        { ch with burner := ch.burner.rejoined s.igu.line.isEmpty } := by
  rw [purgeSecond, if_pos hp, if_neg (by omega)]
  refine (joinQueue_eq c (s.mapChan c fun ch =>
    { ch with burner := { ch.burner with purge := 0, attempt := ch.burner.attempt + 1 } }) hfree).trans ?_
  exact mapChan_mapChan c
    (fun ch => { ch with burner := { ch.burner with purge := 0, attempt := ch.burner.attempt + 1 } })
    (fun ch =>
      { ch with
        burner :=
          { ch.burner with
            phase := if s.igu.line.isEmpty then .lineWait else .queued
            quiet := if s.igu.line.isEmpty then 0 else ch.burner.quiet } })
    { s with igu := s.igu.withLine (s.igu.line ++ [c]) }

/-- The burners of `done` have had the second event: those whose purge it ends stand at the tail of the line, in that
order. -/
structure Rejoined (s : State) (done : List Chan) (t : State) : Prop where
  igu : t.igu = s.igu.withLine (s.igu.line ++ done.filter (purgeEnds s))
  taken : t.taken = s.taken
  waits : ∀ d, d ∉ done → t.chan d = s.chan d
  burner : ∀ d ∈ done.filter (purgeEnds s),
    (t.chan d).burner =
      (s.chan d).burner.rejoined (s.igu.line.isEmpty && (done.filter (purgeEnds s)).head? == some d)

theorem Rejoined.refl {s : State} (hfree : LineTellsUnit s.igu) : Rejoined s [] s where
  igu := by rw [List.filter_nil, List.append_nil, Igu.withLine_line _ hfree]
  taken := rfl
  waits _ _ := rfl
  burner _ hd := by simp at hd

/-- A share of a burner that its second event does not end. -/
theorem purgeShare_of_not_ends {c : Chan} {s : State} (h : purgeEnds s c = false) :
    ∃ f : Channel → Channel, purgeShare c s = s.mapChan c f := by
  by_cases ht : .purge c ∈ s.taken
  · exact ⟨id, by rw [purgeShare_taken ht, mapChan_id]⟩
  by_cases hp : (s.chan c).burner.phase = .purge
  · have hn : 1 < (s.chan c).burner.purge := by
      have := of_decide_eq_false h
      have : ¬ (s.chan c).burner.purge ≤ 1 := fun k => this ⟨hp, k, ht⟩
      omega
    exact ⟨_, (purgeShare_untaken ht).trans (purgeSecond_counts hp hn)⟩
  · exact ⟨id, by rw [purgeShare_other_phase hp, mapChan_id]⟩

theorem lineTellsUnit_withLine (g : Igu) (l : List Chan) : LineTellsUnit (g.withLine l) := by
  cases l <;> simp [LineTellsUnit, Igu.withLine]

theorem Rejoined.turn {s t : State} {done : List Chan} {c : Chan} (h : Rejoined s done t) (hc : c ∉ done) :
    Rejoined s (done ++ [c]) (purgeShare c t) := by
  have still := h.waits c hc
  have same : purgeEnds t c = purgeEnds s c := by rw [purgeEnds, purgeEnds, still, h.taken]
  cases hends : purgeEnds s c with
  | false =>
    have filtered : (done ++ [c]).filter (purgeEnds s) = done.filter (purgeEnds s) := by simp [hends]
    obtain ⟨f, share⟩ := purgeShare_of_not_ends (same.trans hends)
    rw [share]
    refine ⟨by rw [filtered]; exact h.igu, h.taken, fun d hd => ?_, fun d hd => ?_⟩
    · rw [List.mem_append, not_or, List.mem_singleton] at hd
      rw [State.chan_mapChan_ne _ _ _ _ hd.2, h.waits d hd.1]
    · rw [filtered] at hd ⊢
      have hdc : d ≠ c := fun k => hc (k ▸ (List.mem_filter.1 hd).1)
      rw [State.chan_mapChan_ne _ _ _ _ hdc, h.burner d hd]
  | true =>
    have filtered : (done ++ [c]).filter (purgeEnds s) = done.filter (purgeEnds s) ++ [c] := by simp [hends]
    obtain ⟨hp, hn, ht⟩ := of_decide_eq_true (same.trans hends)
    have free : LineTellsUnit t.igu := by rw [h.igu]; exact lineTellsUnit_withLine _ _
    have line : t.igu.line = s.igu.line ++ done.filter (purgeEnds s) := by rw [h.igu, Igu.line_withLine]
    have share := (purgeShare_untaken ht).trans (purgeSecond_ends hp hn free)
    rw [line, h.igu, Igu.withLine_withLine] at share
    rw [share]
    refine ⟨by rw [filtered, ← List.append_assoc]; rfl, h.taken, fun d hd => ?_, fun d hd => ?_⟩
    · rw [List.mem_append, not_or, List.mem_singleton] at hd
      rw [State.chan_mapChan_ne _ _ _ _ hd.2]
      exact h.waits d hd.1
    · rw [filtered] at hd ⊢
      obtain hd | hd := List.mem_append.1 hd
      · have hdc : d ≠ c := fun k => hc (k ▸ (List.mem_filter.1 hd).1)
        rw [State.chan_mapChan_ne _ _ _ _ hdc, List.head?_append_of_ne_nil _ (List.ne_nil_of_mem hd)]
        exact h.burner d hd
      · obtain rfl := List.mem_singleton.1 hd
        have first : (s.igu.line ++ done.filter (purgeEnds s)).isEmpty =
            (s.igu.line.isEmpty && (done.filter (purgeEnds s) ++ [d]).head? == some d) := by
          cases hl : s.igu.line
          · cases hf : done.filter (purgeEnds s) with
            | nil => simp
            | cons x l =>
              have hx : x ∈ done := (List.mem_filter.1 (hf ▸ List.mem_cons_self)).1
              have hxd : x ≠ d := fun k => hc (k ▸ hx)
              simp [hxd]
          · simp
        rw [State.chan_mapChan_self, first]
        show (t.chan d).burner.rejoined _ = _
        rw [still]

/-- The second event on all burners, with R126's unit: those whose purge it ends join the line in rising order. -/
theorem rejoined_forChans {s : State} (hfree : LineTellsUnit s.igu) :
    Rejoined s [0, 1, 2, 3] (forChans purgeShare s) :=
  ((((Rejoined.refl hfree).turn (c := 0) (by decide)).turn (c := 1) (by decide)).turn (c := 2) (by decide)).turn
    (c := 3) (by decide)

/-! ### The row of the prescaler -/

/-- The prescaler has returned to 0 (R4). -/
def prescaled (s : State) : State := { s with mtb := { s.mtb with prescaler := 0 } }

/-- The prescaler has returned to 0, and the second event has reached every burner (R4). -/
def secondTaken (s : State) : State := forChans purgeShare (prescaled s)

theorem prescalerShare_second {s : State} (h : s.mtb.prescaler + 1 = perSecond s.mtb.frequency) :
    prescalerShare s = secondTaken s := by
  rw [prescalerShare, if_neg (by omega)]
  rfl

/-- The row with the second event. -/
def secondRow (s : State) : State :=
  { secondTaken s with
    taken := .prescaler :: (begun s (secondTaken s) ++ s.taken), eventsNew := s.rpu.events.isEmpty }

theorem exec_secondEvent {s : State} (h : Shares .prescaler s)
    (hp : s.mtb.prescaler + 1 = perSecond s.mtb.frequency) : exec .secondEvent s = .next (secondRow s) := by
  have row := live_takeShare (due := fun s => decide (perSecond s.mtb.frequency ≤ s.mtb.prescaler + 1)) h rfl
    (decide_eq_true hp.ge)
  have alone : ∀ t, trail (comingRising s) .prescaler t = t := fun _ => rfl
  have share : unitShare (comingRising s) .prescaler s = secondTaken s := prescalerShare_second hp
  rw [alone, tookShare_eq h.2.2.2, share] at row
  exact row

theorem secondTaken_alone (s : State) :
    BurnersAlone (prescaled s) (secondTaken s) := burnersAlone_forChans _

theorem secondTaken_chan {c : Chan} {s : State} (hc : OutOfTurn c s) (g : Channel → Channel)
    (own : ∀ u : State, u.taken = s.taken → u.chan c = s.chan c → purgeShare c u = u.mapChan c g) :
    (secondTaken s).chan c = g (s.chan c) :=
  forChans_purgeShare_chan (s := prescaled s) hc g own

theorem begun_newHolder {s t : State} {c : Chan} (hs : s.igu.holder = none) (ht : t.igu.holder = some c) :
    .ignition c ∈ begun s t := by
  simp [begun, newHolder, hs, ht]

/-! ### The row of a purge that ends -/

theorem prescaler_not_mem_begun (s t : State) : .prescaler ∉ begun s t := by
  simp only [begun, newHolder, newlyProven, newPurges, List.mem_append, List.mem_map, not_or]
  refine ⟨⟨?_, by simp⟩, by simp⟩
  split <;> simp

/-- What a share of the second event ahead of the prescaler's leaves: the time base, and the prescaler's own share. -/
theorem deliverOne_purge_mtb (rising : Bool) (c : Chan) (s : State) :
    (deliverOne rising (.purge c) s).mtb = s.mtb ∧
    (.prescaler ∈ (deliverOne rising (.purge c) s).taken ↔ .prescaler ∈ s.taken) := by
  have share : BurnersAlone s (unitShare rising (.purge c) s) := by
    show BurnersAlone s (onlyIf (secondDue s) (purgeSecond c) s)
    unfold onlyIf
    split
    · exact burnersAlone_purgeSecond c s
    · exact .refl s
  unfold deliverOne
  split
  · exact ⟨rfl, .rfl⟩
  · exact ⟨share.mtb, by simp [prescaler_not_mem_begun]⟩

theorem foldl_purges_mtb (rising : Bool) (ds : List Chan) (s : State) :
    ((ds.map HalfCycleUnit.purge).foldl (fun s v => deliverOne rising v s) s).mtb = s.mtb ∧
    (.prescaler ∈ ((ds.map HalfCycleUnit.purge).foldl (fun s v => deliverOne rising v s) s).taken ↔
      .prescaler ∈ s.taken) := by
  induction ds generalizing s with
  | nil => exact ⟨rfl, .rfl⟩
  | cons d ds ih =>
    obtain ⟨mtb, taken⟩ := deliverOne_purge_mtb rising d s
    obtain ⟨mtbs, takens⟩ := ih (deliverOne rising (.purge d) s)
    exact ⟨mtbs.trans mtb, takens.trans taken⟩

/-- The prescaler returns to 0 at the end of the event of a purge (R4). -/
theorem trail_purge_mtb {rising : Bool} {c : Chan} {s : State}
    (hp : s.mtb.prescaler + 1 = perSecond s.mtb.frequency) (ht : .prescaler ∉ s.taken) :
    (trail rising (.purge c) s).mtb = { s.mtb with prescaler := 0 } := by
  have split : trail rising (.purge c) s = deliverOne rising .prescaler
      (((allChans.filter (c < ·)).map HalfCycleUnit.purge).foldl (fun s v => deliverOne rising v s) s) :=
    List.foldl_append
  obtain ⟨mtb, taken⟩ := foldl_purges_mtb rising (allChans.filter (c < ·)) s
  rw [split, deliverOne_untaken _ _ _ (taken.not.2 ht)]
  refine (congrArg State.mtb (prescalerShare_second (by rw [mtb]; exact hp)) :).trans ?_
  rw [(secondTaken_alone _).mtb]
  show ({ State.mtb _ with prescaler := 0 } : Mtb) = _
  rw [mtb]

/-- The row of a purge, where its second event is due. -/
theorem exec_purgeEnd {c : Chan} {s₀ s : State} (h : LeadsTo (.purge c) s₀ s) (hpre : .prescaler ∉ s.taken)
    (hlast : s.mtb.prescaler + 1 = perSecond s.mtb.frequency) (hp : (s.chan c).burner.phase = .purge)
    (hn : (s.chan c).burner.purge = 1) :
    exec (.purgeEnd c) s₀ =
      .next (trail (comingRising s₀) (.purge c) (noted s₀.rpu.events.isEmpty
        { purgeSecond c s with taken := .purge c :: (begun s (purgeSecond c s) ++ s.taken) })) := by
  obtain ⟨⟨hs, -⟩, hlead, -, hmode, -, hfree⟩ := h
  have due : secondDue s = true := by
    rw [secondDue, mayTake_iff.2 ⟨hmode, hpre⟩, Bool.true_and]
    exact decide_eq_true hlast.ge
  have share : unitShare (comingRising s₀) (.purge c) s = purgeSecond c s := if_pos due
  show live (takeShare (.purge c) fun s =>
    secondDue s && (s.chan c).burner.phase == .purge && decide ((s.chan c).burner.purge ≤ 1)) s₀ = _
  obtain ⟨-, -, taken⟩ | ⟨off, -⟩ := takeShare_cases (.purge c) (fun s =>
    secondDue s && (s.chan c).burner.phase == .purge && decide ((s.chan c).burner.purge ≤ 1)) s₀ s hlead
  · rw [live_powered _ _ hs, taken, deliverEvent, deliverOne_untaken _ _ _ hfree, share, trail_noted]
    rfl
  · rw [mayTake_iff.2 ⟨hmode, hfree⟩, due, hp, hn] at off
    exact absurd off (by decide)

theorem promote_burner_counts (s : State) (c : Chan) :
    ((promote s).chan c).burner.attempt = (s.chan c).burner.attempt ∧
    ((promote s).chan c).burner.purge = (s.chan c).burner.purge ∧
    ((promote s).chan c).burner.allowed = (s.chan c).burner.allowed := by
  unfold promote
  split
  · next d rest _ _ =>
    obtain rfl | hd := eq_or_ne c d
    · rw [State.chan_mapChan_self]
      exact ⟨rfl, rfl, rfl⟩
    · rw [State.chan_mapChan_ne _ _ _ _ hd]
      exact ⟨rfl, rfl, rfl⟩
  · exact ⟨rfl, rfl, rfl⟩

theorem joinQueue_burner_counts (c : Chan) (s : State) :
    ((joinQueue c s).chan c).burner.attempt = (s.chan c).burner.attempt ∧
    ((joinQueue c s).chan c).burner.purge = (s.chan c).burner.purge ∧
    ((joinQueue c s).chan c).burner.allowed = (s.chan c).burner.allowed := by
  obtain ⟨attempt, purge, allowed⟩ := promote_burner_counts
    ({ s with igu := { s.igu with queue := s.igu.queue ++ [c] } }.mapChan c fun ch =>
      { ch with burner := { ch.burner with phase := .queued } }) c
  refine ⟨attempt.trans ?_, purge.trans ?_, allowed.trans ?_⟩ <;> rw [State.chan_mapChan_self] <;> rfl

theorem purgeSecond_ends_counts {c : Chan} {s : State} (hp : (s.chan c).burner.phase = .purge)
    (hn : (s.chan c).burner.purge = 1) :
    ((purgeSecond c s).chan c).burner.attempt = (s.chan c).burner.attempt + 1 ∧
    ((purgeSecond c s).chan c).burner.purge = 0 ∧
    ((purgeSecond c s).chan c).burner.allowed = (s.chan c).burner.allowed := by
  rw [purgeSecond, if_pos hp, if_neg (by omega)]
  obtain ⟨attempt, purge, allowed⟩ := joinQueue_burner_counts c (s.mapChan c fun ch =>
    { ch with burner := { ch.burner with purge := 0, attempt := ch.burner.attempt + 1 } })
  rw [attempt, purge, allowed, State.chan_mapChan_self]
  exact ⟨rfl, rfl, rfl⟩

theorem BurnersAlone.programs {s t : State} (h : BurnersAlone s t) : KeepsPrograms s t := fun d => by
  rw [KeepsProgram, h.channel d]
  exact ⟨rfl, rfl, rfl⟩

theorem BurnersAlone.line {s t : State} (h : BurnersAlone s t) : KeepsLine s t := by
  rw [h.station]
  exact ⟨rfl, rfl, rfl, rfl, rfl⟩

/-- The line after a second event of a unit with a holder. -/
theorem secondTaken_held {s : State} {ended : List Chan} (hended : ended = [0, 1, 2, 3].filter (purgeEnds s))
    (hh : s.igu.holder.isSome = true) :
    (secondTaken s).igu = { s.igu with queue := s.igu.queue ++ ended } ∧
    ∀ d ∈ ended, ((secondTaken s).chan d).burner = (s.chan d).burner.rejoined false := by
  obtain ⟨x, hx⟩ := Option.isSome_iff_exists.1 hh
  have hline : s.igu.line = x :: s.igu.queue := by simp [Igu.line, hx]
  have joined := rejoined_forChans (s := prescaled s) fun k : s.igu.holder = none => by simp [k] at hh
  have igu : (secondTaken s).igu = s.igu.withLine (s.igu.line ++ ended) := hended ▸ joined.igu
  refine ⟨?_, fun d hd => ?_⟩
  · rw [igu, hline, Igu.withLine, List.cons_append, List.head?_cons, List.tail_cons, ← hx]
  · have burner : ((secondTaken s).chan d).burner = (s.chan d).burner.rejoined (s.igu.line.isEmpty && _) :=
      joined.burner d (hended ▸ hd)
    rw [burner, hline, List.isEmpty_cons, Bool.false_and]

/-- The line after a second event of a free unit with nobody waiting. -/
theorem secondTaken_free {s : State} {ended : List Chan} (hended : ended = [0, 1, 2, 3].filter (purgeEnds s))
    (hh : s.igu.holder = none) (hq : s.igu.queue = []) :
    (secondTaken s).igu = { s.igu with queue := ended.tail, holder := ended.head? } ∧
    ∀ d ∈ ended, ((secondTaken s).chan d).burner = (s.chan d).burner.rejoined (ended.head? == some d) := by
  have hline : s.igu.line = [] := by simp [Igu.line, hh, hq]
  have joined := rejoined_forChans (s := prescaled s) fun _ => hq
  have igu : (secondTaken s).igu = s.igu.withLine (s.igu.line ++ ended) := hended ▸ joined.igu
  refine ⟨?_, fun d hd => ?_⟩
  · rw [igu, hline, List.nil_append]
    rfl
  · have burner : ((secondTaken s).chan d).burner =
        (s.chan d).burner.rejoined (s.igu.line.isEmpty && (ended.head? == some d)) :=
      hended ▸ joined.burner d (hended ▸ hd)
    rw [burner, hline, List.isEmpty_nil, Bool.true_and]

/-- What a purge that ends makes of its burner and the line, with a holder and without. -/
theorem purgeSecond_line {c : Chan} {s : State} (hp : (s.chan c).burner.phase = .purge)
    (hn : (s.chan c).burner.purge = 1) :
    (s.igu.holder.isSome = true →
      ((purgeSecond c s).chan c).burner.phase = .queued ∧
      (purgeSecond c s).igu = { s.igu with queue := s.igu.queue ++ [c] }) ∧
    (s.igu.holder = none → s.igu.queue = [] →
      ((purgeSecond c s).chan c).burner.phase = .lineWait ∧ ((purgeSecond c s).chan c).burner.quiet = 0 ∧
      (purgeSecond c s).igu = { s.igu with queue := [], holder := some c }) := by
  refine ⟨fun hh => ?_, fun hh hq => ?_⟩
  · obtain ⟨x, hx⟩ := Option.isSome_iff_exists.1 hh
    have hline : s.igu.line = x :: s.igu.queue := by simp [Igu.line, hx]
    rw [purgeSecond_ends hp hn.le fun k => by simp [k] at hh, State.chan_mapChan_self, State.mapChan_igu]
    refine ⟨by rw [hline]; rfl, ?_⟩
    rw [hline, Igu.withLine, List.cons_append, List.head?_cons, List.tail_cons, ← hx]
  · have hline : s.igu.line = [] := by simp [Igu.line, hh, hq]
    rw [purgeSecond_ends hp hn.le fun _ => hq, State.chan_mapChan_self, State.mapChan_igu, hline]
    exact ⟨rfl, rfl, rfl⟩

/-- Settles O27: the row of the prescaler is its share, and that of a purge its own share in the same second event. -/
theorem secondEventCountsPurges : Obligations.SecondEventCountsPurges := by
  intro s₀ s c ended hended hshares hlast
  replace hended : ended = [0, 1, 2, 3].filter (purgeEnds s) := hended
  refine ⟨⟨secondRow s, exec_secondEvent hshares hlast, ?_⟩, fun hleads hp hn => ?_⟩
  · have alone := secondTaken_alone s
    have counts (hp : (s.chan c).burner.phase = .purge) (hn : 1 < (s.chan c).burner.purge) (hq : c ∉ s.igu.queue)
        (ht : .purge c ∉ s.taken) :=
      secondTaken_chan (.inl hq) (fun ch =>
        { ch with burner := { ch.burner with purge := ch.burner.purge - 1 } }) fun u hu hc => by
          rw [purgeShare_untaken (by rw [hu]; exact ht)]
          exact purgeSecond_counts (by rw [hc]; exact hp) (by rw [hc]; exact hn)
    have skips (hq : c ∉ s.igu.queue) (ht : .purge c ∈ s.taken) :=
      secondTaken_chan (.inl hq) id fun u hu hc => by rw [purgeShare_taken (by rw [hu]; exact ht), mapChan_id]
    have other (hp : (s.chan c).burner.phase ≠ .purge) (hq : OutOfTurn c s) :=
      secondTaken_chan hq id fun u hu hc => by rw [purgeShare_other_phase (by rw [hc]; exact hp), mapChan_id]
    have held := secondTaken_held hended
    have free := secondTaken_free hended
    have distinct : ended.Nodup := hended ▸ List.Nodup.filter _ (by decide)
    unfold secondRow
    generalize secondTaken s = t at *
    obtain ⟨rpu, apu, ssv, gib⟩ := alone.units
    have channel : t.chan c = { s.chan c with burner := (t.chan c).burner } := alone.channel c
    refine ⟨alone.mtb, List.mem_cons_self, fun hp hn hq ht => congrArg Channel.burner (counts hp hn hq ht),
      fun _ hq ht => congrArg Channel.burner (skips hq ht), fun hp hq => congrArg Channel.burner (other hp hq),
      fun hh => ⟨(held hh).1, (held hh).2 c⟩, fun hh hq => ⟨(free hh hq).1, fun hfirst => ?_, fun hlater => ?_⟩,
      (congrArg Channel.claim channel :), (congrArg Channel.driver channel :), (congrArg Channel.valve channel :),
      alone.programs, alone.line, rpu, apu, ssv, gib⟩
    · obtain ⟨igu, burner⟩ := free hh hq
      have own := burner c (List.mem_of_mem_head? hfirst)
      rw [hfirst, beq_self_eq_true] at own
      refine ⟨List.mem_cons_of_mem _ (List.mem_append_left _ (begun_newHolder hh ?_)), own⟩
      exact (congrArg Igu.holder igu).trans hfirst
    · have own := (free hh hq).2 c (List.mem_of_mem_tail hlater)
      have after : (ended.head? == some c) = false := by
        cases ended with
        | nil => rfl
        | cons x l =>
          have hx : x ≠ c := fun k => (List.nodup_cons.1 distinct).1 (k ▸ hlater)
          simp [hx]
      rw [after] at own
      exact own
  · refine ⟨_, exec_purgeEnd hleads hshares.2.2.2 hlast hp hn, ?_⟩
    have alone := burnersAlone_purgeSecond c s
    have valve : ((purgeSecond c s).chan c).valve = (s.chan c).valve := by rw [alone.channel c]
    obtain ⟨attempt, purge, allowed⟩ := purgeSecond_ends_counts hp hn
    obtain ⟨held, free⟩ := purgeSecond_line hp hn
    obtain ⟨rpu, apu, -⟩ := alone.units
    refine ⟨(trail_purge_mtb ?_ ?_).trans ?_, attempt, purge, allowed, held, free, valve, alone.mtb, alone.programs,
      alone.line, rpu, apu⟩
    · exact alone.mtb ▸ hlast
    · show HalfCycleUnit.prescaler ∉ _ :: (begun s (purgeSecond c s) ++ s.taken)
      simp [prescaler_not_mem_begun, hshares.2.2.2]
    · exact congrArg (fun m : Mtb => { m with prescaler := 0 }) alone.mtb

end Sys2Proof.Machine
end

section
/-! Settles O44: what a contention attempt offers, and the layouts of the four frames the station sends. -/

namespace Sys2Proof.Machine

/-! ### Frames and bytes -/

theorem byteSum_makeFrame (k : Nat) (a : Address) (payload : List Byte) : byteSum (makeFrame k a payload) = 0xFF := by
  rw [makeFrame, byteSum, List.foldl_append]
  show byteSum _ + (0xFF - byteSum _) = 0xFF
  exact add_sub_cancel _ _

theorem byte_toNat {n : Nat} (h : n < 256) : (BitVec.ofNat 8 n).toNat = n := by
  rw [BitVec.toNat_ofNat, Nat.mod_eq_of_lt h]

theorem bit_lt (b : Bool) : bit b < 2 := by cases b <;> decide

theorem bit_eq {b : Bool} {p : Prop} [Decidable p] (h : b = true ↔ p) : bit b = if p then 1 else 0 := by
  rw [bit, if_congr h rfl rfl]

theorem ChanState.code_lt (x : ChanState) : x.code < 8 := by cases x <;> decide

theorem StationState.code_lt (x : StationState) : x.code < 8 := by cases x <;> decide

theorem IgnitionPhase.code_lt (x : IgnitionPhase) : x.code < 8 := by cases x <;> decide

theorem EndCause.code_lt (x : EndCause) : x.code < 16 := by cases x <;> decide

theorem slotCode_lt (n : Option Slot) : slotCode n < 16 := by
  cases n with
  | none => decide
  | some n => exact n.isLt.trans (by decide)

/-! ### The payload of a DEMAND -/

theorem octet_demandPayload (s : State) (d : Chan) :
    octet (demandPayload s) (2 * d.val) = (s.chan d).claim.announced / 4 % 256 ∧
    octet (demandPayload s) (2 * d.val + 1) =
      ((s.chan d).claim.announced % 4 * 64 + (ownClass (s.chan d)).val * 16 + (ownCircuit (s.chan d)).code * 8) % 256 := by
  fin_cases d <;> exact ⟨rfl, rfl⟩

theorem demandPayload_layout (s : State) : DemandLayout s (demandPayload s) := by
  refine ⟨rfl, fun d hd => ?_, ?_⟩
  · obtain ⟨high, low⟩ := octet_demandPayload s d
    have cls : (ownClass (s.chan d)).val =
        if (s.chan d).driver.uncontrolled = true ∨ (s.chan d).cfg.configured = false then 0
        else (s.chan d).cfg.cls.val := by
      unfold ownClass
      cases (s.chan d).driver.uncontrolled <;> cases (s.chan d).cfg.configured <;> rfl
    have circuit : (ownCircuit (s.chan d)).code =
        if (s.chan d).cfg.configured = true ∧ (s.chan d).cfg.circuit = .b then 1 else 0 := by
      unfold ownCircuit
      cases (s.chan d).cfg.configured <;> cases (s.chan d).cfg.circuit <;> rfl
    have class_lt := (ownClass (s.chan d)).isLt
    have circuit_lt : (ownCircuit (s.chan d)).code < 2 := by cases ownCircuit (s.chan d) <;> decide
    rw [← cls, ← circuit, high, low]
    omega
  · have byte : octet (demandPayload s) 8 =
        (s.ssv.station.code + 8 * bit (starved s) + 16 * bit (s.ssv.station == .safe)) % 256 := rfl
    have code := s.ssv.station.code_lt
    have hungry := bit_lt (starved s)
    have safe := bit_lt (s.ssv.station == .safe)
    have hungry_eq : 8 * bit (starved s) = if s.apu.ownSendAge = 2 then 8 else 0 := by
      rw [bit_eq (p := s.apu.ownSendAge = 2) (by simp [starved])]
      split <;> rfl
    have safe_eq : 16 * bit (s.ssv.station == .safe) = if s.ssv.station = .safe then 16 else 0 := by
      rw [bit_eq (p := s.ssv.station = .safe) (by simp)]
      split <;> rfl
    rw [byte, ← hungry_eq, ← safe_eq]
    omega

/-! ### The payload of a STATE frame -/

/-- A burner in IGNITING, whose phase and attempt a STATE frame shows. -/
abbrev Channel.igniting (ch : Channel) : Prop := ch.cfg.kind = .burner ∧ ch.chc.state = .igniting

theorem ite_lt_two (p : Prop) [Decidable p] : (if p then 1 else 0) < 2 := by split <;> decide

theorem attempt_lt {ch : Channel} (h : ch.burner.attempt < 4) :
    (if ch.igniting then ch.burner.attempt else 1) < 4 := by
  split <;> omega

theorem statePayload_phase {s : State} {d : Chan} (h : (s.chan d).burner.attempt < 4) :
    octet (statePayload s d) 1 =
      (if (s.chan d).igniting then (s.chan d).burner.phase.code else 0) * 32 +
      (if (s.chan d).igniting then (s.chan d).burner.attempt else 1) * 8 +
      (if (s.chan d).chc.state = .paused ∧ (s.chan d).chc.causes.command = true then 1 else 0) * 4 +
      (if (s.chan d).chc.state = .paused ∧ (s.chan d).chc.causes.mains = true then 1 else 0) * 2 +
      (if s.lastStarted = some d then 1 else 0) := by
  have burning : ((s.chan d).cfg.kind == .burner && (s.chan d).chc.state == .igniting) = true ↔ (s.chan d).igniting := by
    simp
  have byte : octet (statePayload s d) 1 =
      ((if (s.chan d).cfg.kind == .burner && (s.chan d).chc.state == .igniting then (s.chan d).burner.phase.code else 0)
          * 32 +
        (if (s.chan d).cfg.kind == .burner && (s.chan d).chc.state == .igniting then (s.chan d).burner.attempt else 1)
          * 8 +
        bit ((s.chan d).chc.state == .paused && (s.chan d).chc.causes.command) * 4 +
        bit ((s.chan d).chc.state == .paused && (s.chan d).chc.causes.mains) * 2 + bit (s.lastStarted == some d)) %
      256 := rfl
  have code := (s.chan d).burner.phase.code_lt
  rw [byte, bit_eq (p := (s.chan d).chc.state = .paused ∧ (s.chan d).chc.causes.command = true) (by simp),
    bit_eq (p := (s.chan d).chc.state = .paused ∧ (s.chan d).chc.causes.mains = true) (by simp),
    bit_eq (p := s.lastStarted = some d) (by simp), if_congr burning rfl rfl, if_congr burning rfl rfl]
  refine Nat.mod_eq_of_lt ?_
  have command := ite_lt_two ((s.chan d).chc.state = .paused ∧ (s.chan d).chc.causes.command = true)
  have mains := ite_lt_two ((s.chan d).chc.state = .paused ∧ (s.chan d).chc.causes.mains = true)
  have started := ite_lt_two (s.lastStarted = some d)
  have phase : (if (s.chan d).igniting then (s.chan d).burner.phase.code else 0) < 8 := by split <;> omega
  have attempt := attempt_lt h
  omega

theorem statePayload_seconds (s : State) (d : Chan) :
    octet (statePayload s d) 3 = reportedSeconds (s.chan d) / 65536 % 256 ∧
    octet (statePayload s d) 4 = reportedSeconds (s.chan d) / 256 % 256 ∧
    octet (statePayload s d) 5 = reportedSeconds (s.chan d) % 256 := ⟨rfl, rfl, rfl⟩

theorem reportedSeconds_lt {ch : Channel} (hd : ch.pgu.delay < 16777216) (hs : ch.pgu.seconds < 16777216) :
    reportedSeconds ch < 16777216 := by
  unfold reportedSeconds
  split_ifs <;> omega

theorem statePayload_flags (s : State) (d : Chan) :
    octet (statePayload s d) 10 =
      (if s.ssv.powerFail then 1 else 0) + (if s.rpu.lost then 2 else 0) + (if s.ssv.clash then 4 else 0) +
        (if s.apu.ownSendAge = 2 then 8 else 0) := by
  have byte : octet (statePayload s d) 10 =
      (bit s.ssv.powerFail + 2 * bit s.rpu.lost + 4 * bit s.ssv.clash + 8 * bit (starved s)) % 256 := rfl
  have hungry_eq : bit (starved s) = if s.apu.ownSendAge = 2 then 1 else 0 := bit_eq (by simp [starved])
  rw [byte, hungry_eq]
  cases s.ssv.powerFail <;> cases s.rpu.lost <;> cases s.ssv.clash <;> split <;> rfl

theorem statePayload_layout (s : State) (d : Chan) : StateLayout s d (statePayload s d) := by
  have state := (s.chan d).chc.state.code_lt
  have station := s.ssv.station.code_lt
  have cause := (s.chan d).chc.endCause.code_lt
  have channel := d.isLt
  have slot := slotCode_lt (s.chan d).pgu.current
  have gated := bit_lt (s.chan d).gated
  have holding := bit_lt (s.chan d).pgu.holding
  have gated_eq : bit (s.chan d).gated = if (s.chan d).gated then 1 else 0 := rfl
  have holding_eq : 2 * bit (s.chan d).pgu.holding = if (s.chan d).pgu.holding then 2 else 0 := by
    cases (s.chan d).pgu.holding <;> rfl
  have first : octet (statePayload s d) 0 =
      (d.val * 64 + (s.chan d).chc.state.code * 8 + s.ssv.station.code) % 256 := rfl
  have third : octet (statePayload s d) 2 =
      (slotCode (s.chan d).pgu.current + bit (s.chan d).gated * 16 + bit (s.chan d).pgu.holding * 32) % 256 := rfl
  have tenth : octet (statePayload s d) 9 =
      ((s.chan d).claim.announced % 4 * 64 + (s.chan d).claim.grant % 4 * 16 + (s.chan d).chc.endCause.code) % 256 := rfl
  have ceiling : octet (statePayload s d) 6 = (s.chan d).claim.ceiling % 256 := rfl
  have announced : octet (statePayload s d) 7 = (s.chan d).claim.announced / 4 % 256 := rfl
  have grant : octet (statePayload s d) 8 = (s.chan d).claim.grant / 4 % 256 := rfl
  have shown : ((s.chan d).pgu.current.map Fin.val).getD 15 = slotCode (s.chan d).pgu.current := rfl
  refine ⟨rfl, by omega, by omega, by omega, fun h => ?_, by omega, ?_, fun hd hs => ?_, by omega, by omega, by omega,
    by omega, statePayload_flags s d, ?_⟩
  · have byte := statePayload_phase h
    have attempt := attempt_lt h
    have command := ite_lt_two ((s.chan d).chc.state = .paused ∧ (s.chan d).chc.causes.command = true)
    have mains := ite_lt_two ((s.chan d).chc.state = .paused ∧ (s.chan d).chc.causes.mains = true)
    have started := ite_lt_two (s.lastStarted = some d)
    refine ⟨(?_ : _ = if (s.chan d).igniting then (s.chan d).burner.phase.code else 0),
      (?_ : _ = if (s.chan d).igniting then (s.chan d).burner.attempt else 1), ?_, ?_, ?_⟩ <;> omega
  · rw [← gated_eq, ← holding_eq]
    omega
  · obtain ⟨high, middle, low⟩ := statePayload_seconds s d
    have bound := reportedSeconds_lt hd hs
    rw [high, middle, low]
    show _ = reportedSeconds (s.chan d)
    omega
  · show (BitVec.ofNat 8 s.ssv.resetCause.code).toNat = _
    cases s.ssv.resetCause <;> rfl

/-! ### The attempt -/

theorem exec_attempt {i : Instr} {s : State} {late : Bool} (hs : s.held = false)
    (hi : (i = .lineIdle late ∧ frameUnderWay s = none) ∨ (i = .contendingOnIdleLine late ∧ s.lif.line = .idle)) :
    exec i s = .next (noted s.rpu.events.isEmpty (beginAttempt late s)) := by
  obtain ⟨rfl, hline⟩ | ⟨rfl, hline⟩ := hi
  · show live (onlyIf (frameUnderWay s).isNone (beginAttempt late)) s = _
    rw [hline, live_powered _ _ hs]
    rfl
  · show live (onlyIf (s.lif.line == .idle) (beginAttempt late)) s = _
    rw [hline, live_powered _ _ hs]
    rfl

theorem eventsFound_eq (late : Bool) (s : State) :
    eventsFound late s = if late = true ∧ s.eventsNew = true then [] else s.rpu.events := by
  rw [eventsFound]
  simp only [Bool.and_eq_true]

/-- What an attempt leaves as it is, whatever it offers. -/
structure OnlyBegins (s t : State) : Prop where
  replies : t.lif.replies = s.lif.replies
  stateSet : t.lif.stateSet = s.lif.stateSet
  rpu : t.rpu = s.rpu
  request : t.apu.request = s.apu.request
  programs : KeepsPrograms s t
  ssv : t.ssv = s.ssv
  mtb : t.mtb = s.mtb
  igu : t.igu = s.igu

theorem onlyBegins_setLine (l : LineState) (s : State) : OnlyBegins s (setLine l s) :=
  ⟨rfl, rfl, rfl, rfl, fun _ => ⟨rfl, rfl, rfl⟩, rfl, rfl, rfl⟩

theorem markCarried_chan (s : State) (c : Chan) :
    (markCarried s).chan c =
      if (s.chan c).claim.stage = .pendingSend then
        { s.chan c with claim := { (s.chan c).claim with carried := true } }
      else s.chan c :=
  Quad.get_ofFn _ _

theorem onlyBegins_markCarried (l : LineState) (s : State) : OnlyBegins s (setLine l (markCarried s)) := by
  refine ⟨rfl, rfl, rfl, rfl, fun d => ?_, rfl, rfl, rfl⟩
  show KeepsProgram d s (markCarried s)
  rw [KeepsProgram, markCarried_chan]
  split <;> exact ⟨rfl, rfl, rfl⟩

theorem onlyBegins_beginAttempt (late : Bool) (s : State) : OnlyBegins s (beginAttempt late s) := by
  unfold beginAttempt
  split
  · exact onlyBegins_setLine _ s
  · split
    · exact onlyBegins_markCarried _ s
    all_goals exact onlyBegins_setLine _ s

/-- Settles O44: the row is an attempt, which offers the first part of the pending set that holds something. -/
theorem attemptOffersTheLowestKind : Obligations.AttemptOffersTheLowestKind := by
  intro s i c late events k a payload
  refine ⟨rfl, byteSum_makeFrame k a payload, fun hs hi hevents => ⟨_, exec_attempt hs hi, ?_⟩⟩
  rw [← eventsFound_eq] at hevents
  obtain ⟨replies, stateSet, rpu, request, programs, ssv, mtb, igu⟩ := onlyBegins_beginAttempt late s
  refine ⟨fun e he => ?_, fun hr hreq => ?_, fun hr hreq hev => ?_, fun hr hreq hev d hd => ?_,
    fun hr hreq hev hset => ?_, replies, stateSet, rpu, rfl, request, programs, ssv, mtb, igu⟩
  · obtain ⟨rest, hrest⟩ : ∃ rest, s.lif.replies = e :: rest := List.head?_eq_some_iff.1 he
    have offered : offeredFrame late s = some ⟨.reply, makeFrame 2 s.ssv.address (replyPayload e), 0⟩ := by
      rw [offeredFrame, hrest]
    show (beginAttempt late s).lif.line = _
    rw [beginAttempt, offered]
    rfl
  · have offered : offeredFrame late s = some ⟨.demand, makeFrame 3 s.ssv.address (demandPayload s), 0⟩ := by
      rw [offeredFrame, hr, hreq]
    have begins : beginAttempt late s =
        setLine (.sending ⟨.demand, makeFrame 3 s.ssv.address (demandPayload s), 0⟩) (markCarried s) := by
      rw [beginAttempt, offered]
    rw [begins]
    refine ⟨⟨demandPayload s, rfl, demandPayload_layout s⟩, rfl, fun hstage => ?_⟩
    show ((markCarried s).chan c).claim.carried = true
    rw [markCarried_chan, if_pos hstage]
  · obtain ⟨e, es, heq⟩ := List.exists_cons_of_ne_nil hev
    have offered : offeredFrame late s =
        some ⟨.event, makeFrame 4 s.ssv.address (eventPayload (events.take 4)), (events.take 4).length⟩ := by
      rw [offeredFrame, hr, hreq, ← hevents, heq]
      rfl
    show (beginAttempt late s).lif.line = _
    rw [beginAttempt, offered, List.length_take]
    rfl
  · obtain ⟨rest, hrest⟩ : ∃ rest, s.lif.stateSet = d :: rest := List.head?_eq_some_iff.1 hd
    have offered : offeredFrame late s = some ⟨.state, makeFrame 5 s.ssv.address (statePayload s d), 0⟩ := by
      rw [offeredFrame, hr, hreq, ← hevents, hev, hrest]
    refine ⟨statePayload s d, ?_, statePayload_layout s d⟩
    show (beginAttempt late s).lif.line = _
    rw [beginAttempt, offered]
    rfl
  · have offered : offeredFrame late s = none := by
      rw [offeredFrame, hr, hreq, ← hevents, hev, hset]
    rw [beginAttempt, offered]
    rfl

end Sys2Proof.Machine
end

section
/-! Settles O19: a COMMAND frame carries its command. -/

namespace Sys2Proof.Machine

/-! ### Reading a frame that was made -/

section
variable {k : Nat} {a : Address} {payload : List Byte}

theorem frameKind_makeFrame (hk : k < 16) : frameKind (makeFrame k a payload) = k := by
  have ha := a.isLt
  show (BitVec.ofNat 8 (k * 16 + a.toNat)).toNat / 16 = k
  rw [byte_toNat (by omega)]
  omega

theorem frameSource_makeFrame : frameSource (makeFrame k a payload) = a := by
  have ha := a.isLt
  refine BitVec.eq_of_toNat_eq ?_
  show ((BitVec.ofNat 8 (k * 16 + a.toNat)).setWidth 4).toNat = a.toNat
  rw [BitVec.toNat_setWidth, BitVec.toNat_ofNat]
  omega

theorem frameLength_makeFrame (hn : payload.length ≤ 12) : frameLength (makeFrame k a payload) = payload.length :=
  byte_toNat (by omega)

theorem framePayload_makeFrame (hn : payload.length ≤ 12) : framePayload (makeFrame k a payload) = payload := by
  rw [framePayload, frameLength_makeFrame hn]
  exact List.take_left' rfl

theorem payloadByte_makeFrame (hn : payload.length ≤ 12) :
    payloadByte (makeFrame k a payload) = fun i => (payload[i]?).getD 0 := by
  funext i
  rw [payloadByte, framePayload_makeFrame hn]

theorem frameComplete_makeFrame (hn : payload.length ≤ 12) : frameComplete (makeFrame k a payload) = true := by
  have length : (makeFrame k a payload).length = payload.length + 3 := by simp [makeFrame]
  rw [frameComplete, frameLength_makeFrame hn, length]
  simp [hn]

theorem frameValid_makeFrame (hk : k < 16) (hn : payload.length ≤ 12) :
    frameValid (makeFrame k a payload) = lengthAllowed k payload.length := by
  rw [frameValid, frameComplete_makeFrame hn, byteSum_makeFrame, frameKind_makeFrame hk, frameLength_makeFrame hn]
  rfl

end

end Sys2Proof.Machine

namespace Sys2Proof

/-! ### Numbers of two and three bytes -/

theorem wordBytes_append (w : BitVec 16) : w.extractLsb' 8 8 ++ w.extractLsb' 0 8 = w :=
  BitVec.extractLsb'_append_extractLsb' (w := 8) (len := 8)

theorem tripleBytes_append (w : BitVec 24) : w.extractLsb' 16 8 ++ (w.extractLsb' 8 8 ++ w.extractLsb' 0 8) = w := by
  rw [BitVec.extractLsb'_append_extractLsb'_eq_extractLsb' (x := w) (start₂ := 8) (start₁ := 0) (len₁ := 8) rfl]
  exact BitVec.extractLsb'_append_extractLsb' (w := 8) (len := 16)

theorem headerByte_fields (h : CmdHeader) :
    (headerByte h).extractLsb' 4 4 = h.mask ∧ (headerByte h).extractLsb' 0 4 = h.target := by
  unfold headerByte
  rw [BitVec.extractLsb'_append_eq_of_le (by decide), BitVec.extractLsb'_append_eq_of_add_le (by decide)]
  exact ⟨BitVec.extractLsb'_eq_self, BitVec.extractLsb'_eq_self⟩

/-! ### The row of a COMMAND frame -/

section
variable {own : Address} {straps : BitVec 4} {order : List Chan} {h : CmdHeader} {code : Byte} {ps : List Byte}
  (hn : ps.length ≤ 10)
include hn

theorem payloadByte_commandFrame :
    Machine.payloadByte (commandFrame h code ps) = fun i => ((headerByte h :: code :: ps)[i]?).getD 0 :=
  Machine.payloadByte_makeFrame (by simp only [List.length_cons]; omega)

theorem headerOfFrame_commandFrame : headerOfFrame (commandFrame h code ps) = h := by
  obtain ⟨mask, target⟩ := headerByte_fields h
  rw [headerOfFrame, payloadByte_commandFrame hn]
  show CmdHeader.mk (Machine.frameSource (Machine.makeFrame 1 h.source _)) ((headerByte h).extractLsb' 4 4)
    ((headerByte h).extractLsb' 0 4) = h
  rw [Machine.frameSource_makeFrame, mask, target]

theorem commandOfFrame_commandFrame (hm : Machine.addressMatches own h = true) :
    commandOfFrame own straps order (commandFrame h code ps) =
      if Machine.commandLength code.toNat = some (ps.length + 2) then
        commandRow straps order (commandFrame h code ps)
      else .commandUnknown h code ps := by
  have hn12 : (headerByte h :: code :: ps).length ≤ 12 := by simp only [List.length_cons]; omega
  have valid : Machine.frameValid (commandFrame h code ps) = true :=
    (Machine.frameValid_makeFrame (by decide) hn12).trans (by simp [Machine.lengthAllowed])
  have kind : Machine.frameKind (commandFrame h code ps) = 1 := Machine.frameKind_makeFrame (by decide)
  have length : Machine.frameLength (commandFrame h code ps) = ps.length + 2 := Machine.frameLength_makeFrame hn12
  have payload : Machine.framePayload (commandFrame h code ps) = headerByte h :: code :: ps :=
    Machine.framePayload_makeFrame hn12
  rw [commandOfFrame, valid, kind, headerOfFrame_commandFrame hn, hm, payload, length, payloadByte_commandFrame hn]
  rfl

theorem payloadTriple_commandFrame {i : Nat} {w : BitVec 24} {rest : List Byte}
    (hw : (headerByte h :: code :: ps).drop i = tripleBytes w ++ rest) :
    payloadTriple (commandFrame h code ps) i = w := by
  have byte (k : Nat) : Machine.payloadByte (commandFrame h code ps) (i + k) =
      ((tripleBytes w ++ rest)[k]?).getD 0 := by
    rw [payloadByte_commandFrame hn, ← hw, List.getElem?_drop]
  have first := byte 0
  have second := byte 1
  have third := byte 2
  refine Eq.trans ?_ (tripleBytes_append w)
  rw [payloadTriple, payloadWord]
  exact congrArg₂ (· ++ ·) first (congrArg₂ (· ++ ·) second third)

theorem payloadWord_commandFrame {i : Nat} {w : BitVec 16} {rest : List Byte}
    (hw : (headerByte h :: code :: ps).drop i = wordBytes w ++ rest) :
    payloadWord (commandFrame h code ps) i = w := by
  have byte (k : Nat) : Machine.payloadByte (commandFrame h code ps) (i + k) =
      ((wordBytes w ++ rest)[k]?).getD 0 := by
    rw [payloadByte_commandFrame hn, ← hw, List.getElem?_drop]
  have first := byte 0
  have second := byte 1
  refine Eq.trans ?_ (wordBytes_append w)
  rw [payloadWord]
  exact congrArg₂ (· ++ ·) first second

end

/-- A frame that is read as the command of header `h`, code `code` and parameters `ps`. -/
structure Carries (h : CmdHeader) (code : Byte) (ps : List Byte) (frame : List Byte) : Prop where
  header : headerOfFrame frame = h
  byte : Machine.payloadByte frame = fun i => ((headerByte h :: code :: ps)[i]?).getD 0
  word : ∀ (i : Nat) (w : BitVec 16) (rest : List Byte),
    (headerByte h :: code :: ps).drop i = wordBytes w ++ rest → payloadWord frame i = w
  triple : ∀ (i : Nat) (w : BitVec 24) (rest : List Byte),
    (headerByte h :: code :: ps).drop i = tripleBytes w ++ rest → payloadTriple frame i = w

theorem commandLength_le {n m : Nat} (h : Machine.commandLength n = some m) : m ≤ 12 := by
  unfold Machine.commandLength at h
  split at h <;> simp at h <;> omega

/-- A COMMAND frame whose length is that of its code is read by the row of that code. -/
theorem commandOfFrame_eq_row {own : Address} {straps : BitVec 4} {order : List Chan} {h : CmdHeader} {code : Byte}
    {ps : List Byte} {i : Instr} (hm : Machine.addressMatches own h = true)
    (hlength : Machine.commandLength code.toNat = some (ps.length + 2))
    (hrow : Carries h code ps (commandFrame h code ps) → commandRow straps order (commandFrame h code ps) = i) :
    commandOfFrame own straps order (commandFrame h code ps) = i := by
  have hn : ps.length ≤ 10 := by
    have := commandLength_le hlength
    omega
  rw [commandOfFrame_commandFrame hn hm, if_pos hlength]
  exact hrow ⟨headerOfFrame_commandFrame hn, payloadByte_commandFrame hn,
    fun _ _ _ hw => payloadWord_commandFrame hn hw, fun _ _ _ hw => payloadTriple_commandFrame hn hw⟩

/-- An ADJUST of TIME SET, or of codes beyond the table, is read by that row (log entry 8). -/
theorem adjustRow_timeSet {order : List Chan} {h : CmdHeader} {mask target operation : Byte} {value : BitVec 24}
    (hwf : adjustTimeSetChecks target operation = true) :
    adjustRow order h mask target operation value = .adjustTimeSet h mask target operation value order := by
  unfold adjustTimeSetChecks at hwf
  unfold adjustRow
  cases ht : Machine.adjustTargetOfByte target with
  | none => rfl
  | some t =>
    cases ho : Machine.adjustOperationOfByte operation with
    | none => cases t <;> rfl
    | some op =>
      rw [ht, ho] at hwf
      cases t <;> cases op <;> simp at hwf ⊢

/-- Settles O19, row by row: the frame of each command is read back by its code and its parameters. -/
theorem framesCarryTheirCommands : Obligations.FramesCarryTheirCommands := by
  intro own straps i h frame hwf hframe hheader hm
  cases i <;> simp only [frameOfCommand, reduceCtorEq, Option.some.injEq] at hframe <;> subst hframe <;>
    simp only [commandHeader, Option.some.injEq] at hheader <;> subst hheader
  case halt source =>
    have valid : Machine.frameValid (Machine.makeFrame 0 source []) = true :=
      Machine.frameValid_makeFrame (by decide) (by decide)
    have kind : Machine.frameKind (Machine.makeFrame 0 source []) = 0 := Machine.frameKind_makeFrame (by decide)
    rw [commandOfFrame, valid, kind, Machine.frameSource_makeFrame]
    rfl
  case commandUnknown h code ps =>
    obtain ⟨hn, hlength⟩ : ps.length ≤ 10 ∧ Machine.commandLength code.toNat ≠ some (ps.length + 2) := by
      simpa [Instr.wellFormed, Machine.unknownCommand] using hwf
    rw [commandOfFrame_commandFrame hn hm, if_neg hlength]
  case configureStation h a b gates =>
    refine commandOfFrame_eq_row hm rfl fun k => ?_
    rw [commandRow, k.header, k.word 2 a (wordBytes b ++ [gates]) rfl, k.word 4 b [gates] rfl, k.byte]
    rfl
  case configureChannel h b =>
    refine commandOfFrame_eq_row hm rfl fun k => ?_
    rw [commandRow, k.header, k.word 4 b.load [b.packed, b.period, b.minSwitch] rfl, k.byte]
    rfl
  case configureBurner | loadStepClear | pause | resume | stopLast | skip | query | clearFlags | resetStation =>
    refine commandOfFrame_eq_row hm rfl fun k => ?_
    rw [commandRow, k.header, k.byte]
    rfl
  case loadStep h mask slot level duration endAction =>
    refine commandOfFrame_eq_row hm rfl fun k => ?_
    rw [commandRow, k.header, k.triple 5 duration [endAction] rfl, k.byte]
    exact if_neg (bne_iff_ne.1 hwf)
  case start h mask slot delay =>
    refine commandOfFrame_eq_row hm rfl fun k => ?_
    rw [commandRow, k.header, k.triple 4 delay [] rfl, k.byte]
    rfl
  case stop h selector order =>
    refine commandOfFrame_eq_row hm rfl fun k => ?_
    rw [commandRow, k.header, k.byte]
    exact if_neg (bne_iff_ne.1 hwf)
  case adjustLevelSet _ _ value | adjustLevelAdd _ _ value | adjustLevelSubtract _ _ value | adjustTimeAdd _ _ value
    | adjustTimeSubtract _ _ value _ =>
    refine commandOfFrame_eq_row hm rfl fun k => ?_
    rw [commandRow, k.header, k.triple 5 value [] rfl, k.byte]
    rfl
  case adjustTimeSet h mask target operation value order =>
    refine commandOfFrame_eq_row hm rfl fun k => ?_
    rw [commandRow, k.header, k.triple 5 value [] rfl, k.byte]
    exact adjustRow_timeSet hwf

end Sys2Proof
end

section
/-! Settles O18: the shares of a half-cycle (01, 02, 04, 06, 07). -/

namespace Sys2Proof.Machine

/-! ### What has been taken -/

theorem mem_taken_deliverOne {rising : Bool} {u v : HalfCycleUnit} {s : State} (h : v ∈ s.taken) :
    v ∈ (deliverOne rising u s).taken := by
  unfold deliverOne
  split
  · exact h
  · exact List.mem_cons_of_mem _ (List.mem_append_right _ h)

theorem mem_taken_foldl {rising : Bool} {us : List HalfCycleUnit} {v : HalfCycleUnit} {s : State}
    (h : v ∈ us ∨ v ∈ s.taken) : v ∈ (us.foldl (fun s u => deliverOne rising u s) s).taken := by
  induction us generalizing s with
  | nil => simpa using h
  | cons u us ih =>
    refine ih ?_
    obtain h | h := h
    · obtain rfl | h := List.mem_cons.1 h
      · exact .inr (mem_deliverOne_taken rising v s)
      · exact .inl h
    · exact .inr (mem_taken_deliverOne h)

/-- A delivery of `u` reaches the units of its event. -/
theorem mem_taken_deliver {rising : Bool} {u v : HalfCycleUnit} {s : State}
    (h : v ∈ s.taken ∨ u ∉ s.taken ∧ v ∈ earlierShares u ++ u :: companions u) :
    v ∈ (deliver rising u s).taken := by
  unfold deliver
  split
  · next taken => exact h.resolve_right fun k => k.1 (List.contains_iff_mem.1 taken)
  · rw [deliverEvent_eq_foldl]
    exact mem_taken_foldl (h.symm.imp_left And.right)

theorem mem_taken_deliverAll {rising : Bool} {us : List HalfCycleUnit} {v : HalfCycleUnit} {s : State}
    (h : v ∈ us ∨ v ∈ s.taken) : v ∈ (deliverAll rising us s).taken := by
  unfold deliverAll
  induction us generalizing s with
  | nil => simpa using h
  | cons u us ih =>
    refine ih ?_
    obtain h | h := h
    · obtain rfl | h := List.mem_cons.1 h
      · by_cases taken : v ∈ s.taken
        · exact .inr (mem_taken_deliver (.inl taken))
        · exact .inr (mem_taken_deliver (.inr ⟨taken, by simp⟩))
      · exact .inl h
    · exact .inr (mem_taken_deliver (.inl h))

theorem deliver_untaken {rising : Bool} {u : HalfCycleUnit} {s : State} (h : u ∉ s.taken) :
    deliver rising u s = trail rising u (deliverOne rising u (lead rising u s)) :=
  if_neg fun k => h (List.contains_iff_mem.1 k)

/-- Every burner is within the event of one, and so is every purge with the prescaler, every hold with the interval. -/
theorem mem_event_ignition (c d : Chan) : .ignition d ∈ earlierShares (.ignition c) ++ .ignition c :: companions (.ignition c) := by
  revert c d
  decide

theorem mem_event_purge (c d : Chan) :
    .purge d ∈ earlierShares (.purge c) ++ .purge c :: companions (.purge c) ∧
    .prescaler ∈ earlierShares (.purge c) ++ .purge c :: companions (.purge c) := by
  revert c d
  decide

theorem mem_event_hold (c d : Chan) :
    .hold d ∈ earlierShares (.hold c) ++ .hold c :: companions (.hold c) ∧
    .interval ∈ earlierShares (.hold c) ++ .hold c :: companions (.hold c) := by
  revert c d
  decide

theorem mem_event_interval (d : Chan) : .hold d ∈ earlierShares .interval ++ .interval :: companions .interval := by
  revert d
  decide

/-! ### What begins within a share -/

section
variable {rising : Bool} {u : HalfCycleUnit} {s : State} {c : Chan} (h : u ∉ s.taken)
include h

theorem mem_taken_of_begun {v : HalfCycleUnit} (hv : v ∈ begun s (deliverOne rising u s)) :
    v ∈ (deliverOne rising u s).taken := by
  rw [deliverOne_untaken _ _ _ h] at hv ⊢
  exact List.mem_cons_of_mem _ (List.mem_append_left _ hv)

theorem newHolder_taken (hs : s.igu.holder ≠ some c) (ht : (deliverOne rising u s).igu.holder = some c) :
    .ignition c ∈ (deliverOne rising u s).taken := by
  refine mem_taken_of_begun h ?_
  have other : s.igu.holder ≠ (deliverOne rising u s).igu.holder := fun k => hs (k.trans ht)
  refine List.mem_append_left _ (List.mem_append_left _ ?_)
  rw [newHolder, if_neg other, ht]
  exact List.mem_singleton_self _

theorem newlyProven_taken (hs : (s.chan c).chc.state = .igniting)
    (ht : ((deliverOne rising u s).chan c).chc.state = .running) : .program c ∈ (deliverOne rising u s).taken := by
  refine mem_taken_of_begun h ?_
  refine List.mem_append_left _ (List.mem_append_right _ (List.mem_map.2 ⟨c, List.mem_filter.2 ⟨mem_channels c, ?_⟩, rfl⟩))
  rw [hs, ht]
  rfl

theorem newPurge_taken (hs : (s.chan c).burner.phase ≠ .purge)
    (ht : ((deliverOne rising u s).chan c).burner.phase = .purge) : .purge c ∈ (deliverOne rising u s).taken := by
  refine mem_taken_of_begun h ?_
  refine List.mem_append_right _ (List.mem_map.2 ⟨c, List.mem_filter.2 ⟨mem_channels c, ?_⟩, rfl⟩)
  rw [ht, bne_iff_ne.2 hs]
  rfl

end

/-! ### What the rest of an event leaves of a channel -/

/-- Channel `c` has kept its controller, program, configuration and valve, and no record has been lost. -/
structure Spared (c : Chan) (s t : State) : Prop where
  program : KeepsProgram c s t
  valve : (t.chan c).valve = (s.chan c).valve
  events : s.rpu.events <+: t.rpu.events

theorem Spared.refl (c : Chan) (s : State) : Spared c s s := ⟨⟨rfl, rfl, rfl⟩, rfl, List.prefix_refl _⟩

theorem Spared.trans {c : Chan} {s t u : State} (h : Spared c s t) (k : Spared c t u) : Spared c s u where
  program := ⟨k.program.1.trans h.program.1, k.program.2.1.trans h.program.2.1, k.program.2.2.trans h.program.2.2⟩
  valve := k.valve.trans h.valve
  events := h.events.trans k.events

theorem spared_of_turns {c d : Chan} (hd : d ≠ c) {s t : State} (h : Turns (· = d) s t) : Spared c s t := by
  obtain ⟨program, valve, -⟩ := h.keepsChannel hd.symm
  refine ⟨program, valve, ?_⟩
  rw [congrArg State.rpu h.station]

theorem spared_mapChan {c d : Chan} (hd : d ≠ c) (f : Channel → Channel) (s : State) : Spared c s (s.mapChan d f) := by
  refine ⟨?_, ?_, List.prefix_refl _⟩ <;> simp [KeepsProgram, hd.symm]

theorem spared_raise (c : Chan) (e : EventRecord) (s : State) : Spared c s (raise e s) := by
  rw [raise_eq]
  exact ⟨⟨rfl, rfl, rfl⟩, rfl, Rpu.prefix_notingAll s.rpu [e]⟩

theorem spared_of_apportioned {s t : State} (h : Apportioned s t) (c : Chan) : Spared c s t := by
  obtain ⟨program, valve, -⟩ := h.channel c
  exact ⟨program, valve, by rw [h.rpu]⟩

theorem spared_recompute (c : Chan) (s : State) : Spared c s (recompute s) :=
  spared_of_apportioned (apportioned_recompute s) c

theorem spared_burnersAlone {s t : State} (h : BurnersAlone s t) (c : Chan) : Spared c s t := by
  refine ⟨h.programs c, by rw [h.channel c], ?_⟩
  rw [h.units.1]

theorem spared_raiseFor (c d : Chan) (k : EventKind) (n : Nat) (s : State) : Spared c s (raiseFor d k n s) :=
  spared_raise c _ s

theorem spared_endProgram {c d : Chan} (hd : d ≠ c) (cause : EndCause) (target : ChanState) (s : State) :
    Spared c s (endProgram d cause target s) :=
  (spared_raiseFor c d _ _ s).trans ((spared_of_turns hd (turns_quench d _)).trans (spared_mapChan hd _ _))

theorem spared_lockOut {c d : Chan} (hd : d ≠ c) (cause : EndCause) (s : State) : Spared c s (lockOut d cause s) := by
  unfold lockOut
  exact (spared_mapChan hd _ s).trans ((spared_raiseFor c d _ _ _).trans
    ((spared_endProgram hd _ _ _).trans (spared_mapChan hd _ _)))

theorem spared_failAttempt {c d : Chan} (hd : d ≠ c) (s : State) : Spared c s (failAttempt d s) := by
  have raised := (spared_mapChan hd (fun ch => { ch with valve := 0 }) s).trans
    (spared_raiseFor c d .ignitionFail (s.chan d).burner.attempt _)
  unfold failAttempt
  dsimp only
  split
  · exact raised.trans ((spared_mapChan hd _ _).trans (spared_of_turns hd (turns_releaseUnit d _)))
  · exact raised.trans (spared_lockOut hd _ _)

theorem spared_applyIgnition {c d : Chan} (hd : d ≠ c) (o : IgnitionOutcome) (s : State) :
    Spared c s (applyIgnition d o s) := by
  cases o with
  | stays => exact .refl c s
  | sparkStart =>
    show Spared c s (startSpark d s)
    unfold startSpark
    exact (spared_of_turns hd (turns_igu d _ s)).trans (spared_mapChan hd _ _)
  | sparkEnd =>
    show Spared c s (endSpark d s)
    unfold endSpark
    exact (spared_of_turns hd (turns_igu d _ s)).trans (spared_mapChan hd _ _)
  | proven =>
    exact ((spared_mapChan hd _ s).trans (spared_of_turns hd (turns_releaseUnit d _))).trans (spared_recompute c _)
  | failed => exact (spared_failAttempt hd s).trans (spared_recompute c _)
  | falseFlameLockout => exact (spared_lockOut hd _ s).trans (spared_recompute c _)
  | lostSense | lostBlanking =>
    exact (((spared_mapChan hd _ s).trans (spared_raiseFor c d _ _ _)).trans
      (spared_of_turns hd (turns_enterIgnition d 1 _))).trans (spared_recompute c _)

theorem apportioned_intervalShare (s : State) : Apportioned s (intervalShare s) := by
  have start (n : Nat) := apportioned_of_eq s { s.apu with interval := n } s.ssv
  unfold intervalShare
  split
  · exact start _
  · have ages := (agesTaken_moves { s with apu := { s.apu with interval := 0 } }).1
    have listens := (countListen_moves (agesTaken { s with apu := { s.apu with interval := 0 } })).1
    exact (start 0).trans (ages.trans (listens.trans (apportioned_of_eq _ _ _)))

/-- The units whose shares come after that of channel `c` in its event leave its program alone. -/
def sparesProgram (c : Chan) (u : HalfCycleUnit) : Bool :=
  match u with
  | .ignition d => d != c
  | .purge _ | .prescaler | .hold _ | .interval => true
  | .program _ | .driver _ | .gates | .manualReset => false

theorem spared_prescalerShare (c : Chan) (s : State) : Spared c s (prescalerShare s) := by
  unfold prescalerShare
  split
  · exact ⟨⟨rfl, rfl, rfl⟩, rfl, List.prefix_refl _⟩
  · have counted : Spared c s { s with mtb := { s.mtb with prescaler := 0 } } :=
      ⟨⟨rfl, rfl, rfl⟩, rfl, List.prefix_refl _⟩
    exact counted.trans (spared_burnersAlone (burnersAlone_forChans _) c)

theorem spared_unitShare {c : Chan} {u : HalfCycleUnit} (hu : sparesProgram c u = true) (rising : Bool) (s : State) :
    Spared c s (unitShare rising u s) := by
  cases u with
  | ignition d =>
    have hd : d ≠ c := bne_iff_ne.1 hu
    exact (spared_mapChan hd _ s).trans (spared_applyIgnition hd _ _)
  | purge d =>
    show Spared c s (onlyIf (secondDue s) (purgeSecond d) s)
    unfold onlyIf
    split
    · exact spared_burnersAlone (burnersAlone_purgeSecond d s) c
    · exact .refl c s
  | prescaler => exact spared_prescalerShare c s
  | hold d => exact spared_of_apportioned (holdShare_counted d s).apportioned c
  | interval => exact spared_of_apportioned (apportioned_intervalShare s) c
  | program | driver | gates | manualReset => exact absurd hu (by simp [sparesProgram])

theorem spared_deliverOne {c : Chan} {u : HalfCycleUnit} (hu : sparesProgram c u = true) (rising : Bool) (s : State) :
    Spared c s (deliverOne rising u s) := by
  unfold deliverOne
  split
  · exact .refl c s
  · obtain ⟨program, valve, events⟩ := spared_unitShare hu rising s
    exact ⟨program, valve, events⟩

theorem spared_foldl {c : Chan} {us : List HalfCycleUnit} (hus : ∀ u ∈ us, sparesProgram c u = true) (rising : Bool)
    (s : State) : Spared c s (us.foldl (fun s u => deliverOne rising u s) s) := by
  induction us generalizing s with
  | nil => exact .refl c s
  | cons u us ih =>
    exact (spared_deliverOne (hus u List.mem_cons_self) rising s).trans
      (ih (fun v hv => hus v (List.mem_cons_of_mem _ hv)) _)

theorem spared_trail {c : Chan} {u : HalfCycleUnit}
    (hu : u = .ignition c ∨ u = .purge c ∨ u = .hold c ∨ u = .interval) (rising : Bool) (s : State) :
    Spared c s (trail rising u s) := by
  refine spared_foldl (fun v hv => ?_) rising s
  revert v
  obtain rfl | rfl | rfl | rfl := hu
  · revert c; decide
  · revert c; decide
  · revert c; decide
  · revert c; decide

end Sys2Proof.Machine
end

section
/-! Settles O18: a crossing in TRACKING, and a row that is a share of it (01, Half-cycle, cycle-start and second
events). -/

namespace Sys2Proof.Machine

/-! ### A crossing in TRACKING -/

/-- The time base at a crossing in TRACKING: the sample counted, the sign accepted, the missing-crossing timer anew. -/
def Mtb.struck (rising : Bool) (m : Mtb) : Mtb :=
  { m with sign := some (signOf rising), run := 0, missingTimer := some 0 }

/-- The state that the units find at a crossing in TRACKING. -/
def struck (pins : InputPins) (s : State) : State :=
  withClock ((clocked s).struck (comingRising s)) { (withInputs pins s).pins with zx := comingRising s } false s.sparkRead
    s.eventsNew s

/-- The state when the units have taken a crossing in TRACKING. -/
def crossingTaken (rising : Bool) (us : List HalfCycleUnit) (s : State) : State :=
  { deliverAll rising (us ++ allUnits) s with
    mtb := { (deliverAll rising (us ++ allUnits) s).mtb with spacing := 0 }, taken := [], sparkRead := none }

theorem crossingDue_iff {s : State} : crossingDue s = true ↔ s.mtb.sign = some (signOf (!comingRising s)) ∧ s.mtb.run = 3 := by
  unfold crossingDue comingRising
  cases s.mtb.sign with
  | none => simp
  | some a => cases a <;> simp [signOf]

theorem keptByUnits_held (b : Bool) : KeptByUnits fun s => s.held = b where
  toKeptByChannels := keptByChannels_of_acts fun s t h hs => by rw [h.station]; exact hs
  recompute s hs := by simpa using hs
  unseen s t h hs := by rw [h.held]; exact hs
  rpu _ _ hs _ := hs
  restore _ _ _ ht := ht
  claim _ _ _ hs _ := hs
  gated _ _ _ hs := hs
  gib _ _ hs _ := hs
  clearLockout c s hs := by rw [acts_clearLockout_station]; exact hs
  interval _ _ hs _ := hs
  peers _ _ hs _ := hs
  ageOwnSend s hs := by unfold ageOwnSend; dsimp only; split <;> simpa using hs
  countListen s hs _ := by unfold countListen becomeActive; split_ifs <;> simpa using hs
  clashQuiet _ _ hs _ := hs
  enterSafe s hs := by
    rw [recompute_held, makeRequest_held]
    obtain ⟨-, h⟩ | ⟨-, h⟩ := enterSafe_cases s
    · rw [h]; exact hs
    · rw [h.station]; exact hs
  prescaler _ _ hs _ _ := hs

/-- In TRACKING the turns of a mains failure have no part in a crossing. -/
theorem crossingTaken_mode (rising : Bool) (us : List HalfCycleUnit) {s : State} (hm : s.mtb.mode = .tracking) :
    (crossingTaken rising us s).mtb.mode = .tracking :=
  (KeptByShares.deliverAll { toKeptByUnits := keptByUnits_mode .tracking s.mtb.frequency, taken := fun _ _ h => h }
    rising (us ++ allUnits) ⟨⟨hm, rfl⟩, hm⟩).2

theorem clocked_keeps (s : State) :
    (clocked s).sign = s.mtb.sign ∧ (clocked s).run = s.mtb.run ∧ (clocked s).mode = s.mtb.mode ∧
    (clocked s).frequency = s.mtb.frequency ∧ (clocked s).prescaler = s.mtb.prescaler := by
  unfold clocked
  split <;> exact ⟨rfl, rfl, rfl, rfl, rfl⟩

/-- The half-cycle that a crossing in TRACKING issues (R3). -/
theorem takeCrossing_tracking (us : List HalfCycleUnit) (pins : InputPins) {s : State} (hm : s.mtb.mode = .tracking) :
    takeCrossing us
        { withInputs pins s with
          mtb := { clocked s with sign := some (signOf (comingRising s)), run := 0 }
          pins := { (withInputs pins s).pins with zx := comingRising s }, clockTaken := false } =
      crossingTaken (comingRising s) us (struck pins s) := by
  obtain ⟨-, -, mode, frequency, prescaler⟩ := clocked_keeps s
  have rising : (decide (some (signOf (comingRising s)) = some Sign.positive)) = comingRising s := by
    cases comingRising s <;> rfl
  have found : struck pins s =
      { withInputs pins s with
        mtb := { clocked s with sign := some (signOf (comingRising s)), run := 0, missingTimer := some 0 }
        pins := { (withInputs pins s).pins with zx := comingRising s }, clockTaken := false } := by
    rw [struck, withClock, ← mode, ← frequency, ← prescaler]
    rfl
  have crossing {u : State} (hu : u.mtb.mode = .tracking) :
      takeCrossing us u = { halfCycle us u with mtb := { (halfCycle us u).mtb with spacing := 0 } } := by
    rw [takeCrossing, hu]
  rw [crossing (mode.trans hm), halfCycle, crossingTaken, found]
  simp only [rising]

/-- ACCEPTED_CROSSING in TRACKING, with the crossing due. -/
theorem exec_crossing_tracking {s : State} (pins : InputPins) (us : List HalfCycleUnit) (hs : s.held = false)
    (hdue : crossingDue s = true) (hm : s.mtb.mode = .tracking) :
    exec (.acceptedCrossing pins us) s =
      .next
        { expireTimers [] (crossingTaken (comingRising s) us (struck pins s)) with
          eventsNew := s.rpu.events.isEmpty } := by
  obtain ⟨hsign, hrun⟩ := crossingDue_iff.1 hdue
  obtain ⟨sign, run, -⟩ := clocked_keeps s
  have step : filterStep (comingRising s) (clocked (withInputs pins s)) =
      ({ clocked s with sign := some (signOf (comingRising s)), run := 0 }, true) :=
    filterStep_crossing (sign.trans hsign) (run.trans hrun)
  have going : (crossingTaken (comingRising s) us (struck pins s)).mtb.mode ≠ .missing := by
    rw [crossingTaken_mode (s := struck pins s) _ _ hm]
    decide
  show live (onlyIf (crossingDue s) fun s =>
    takeSample (oppositeLevel s) us (programTurns us) (withInputs pins s)) s = _
  rw [live_powered _ _ hs, onlyIf, if_pos hdue, takeSample, oppositeLevel_of_sign hsign, step, if_pos rfl,
    ← expireTimers_turns going (programTurns us), ← takeCrossing_tracking us pins hm]

/-! ### A row that is a share of the coming half-cycle -/

/-- The row takes the share of `u` at the levels `p`, or it reads none. -/
inductive TakesShare (u : HalfCycleUnit) (i : Instr) (s : State) : Option InputPins → Prop where
  | blind (due : State → Bool) (h : exec i s = live (takeShare u due) s) (hu : readsPins u = false) :
    TakesShare u i s none
  | reading (p : InputPins) (due : State → Bool) (h : exec i s = live (takeShareWith p u due) s) :
    TakesShare u i s (some p)

/-- The levels `p` are those of `pins`, as far as the share of `u` reads them: the gate input block reads the gates and MR
alone (R151). -/
abbrev ReadsAlike (u : HalfCycleUnit) (p pins : InputPins) : Prop :=
  p = pins ∨ u = .manualReset ∧ p.gates = pins.gates ∧ p.mr = pins.mr

theorem takesShare_of_rowUnit {pins : InputPins} {s : State} {i : Instr} {u : HalfCycleUnit}
    (h : rowUnit pins s i = some u) :
    ∃ p, TakesShare u i s p ∧ ∀ x ∈ p, ReadsAlike u x pins := by
  have alike {i : Instr} {u : HalfCycleUnit} {p : InputPins} {due : State → Bool}
      (h : exec i s = live (takeShareWith p u due) s) :
      ∃ q, TakesShare u i s q ∧ ∀ x ∈ q, ReadsAlike u x p :=
    ⟨some p, .reading p due h, fun x hx => .inl (Option.mem_some_iff.1 hx).symm⟩
  cases i <;> simp only [rowUnit, reduceCtorEq, Option.some.injEq, Option.ite_none_right_eq_some] at h
  case stepExpiry c =>
    subst h
    exact ⟨none, .blind _ (show execStepExpiry c s = _ from rfl) rfl, fun _ hx => absurd hx (Option.not_mem_none _)⟩
  case delayEnd c =>
    subst h
    exact ⟨none, .blind _ (show execDelayEnd c s = _ from rfl) rfl, fun _ hx => absurd hx (Option.not_mem_none _)⟩
  case intervalEvent =>
    subst h
    exact ⟨none, .blind _ (show execIntervalEvent s = _ from rfl) rfl, fun _ hx => absurd hx (Option.not_mem_none _)⟩
  case stationActive =>
    subst h
    exact ⟨none, .blind _ (show execStationActive s = _ from rfl) rfl, fun _ hx => absurd hx (Option.not_mem_none _)⟩
  case peerRowRemoved q =>
    subst h
    exact ⟨none, .blind _ (show execPeerRowRemoved q s = _ from rfl) rfl, fun _ hx => absurd hx (Option.not_mem_none _)⟩
  case starvationBegin =>
    subst h
    exact ⟨none, .blind _ (show execStarvationBegin s = _ from rfl) rfl, fun _ hx => absurd hx (Option.not_mem_none _)⟩
  case secondEvent =>
    subst h
    exact ⟨none, .blind _ (show execSecondEvent s = _ from rfl) rfl, fun _ hx => absurd hx (Option.not_mem_none _)⟩
  case raiseHoldClear c =>
    subst h
    exact ⟨none, .blind _ (show execRaiseHoldClear c s = _ from rfl) rfl, fun _ hx => absurd hx (Option.not_mem_none _)⟩
  case purgeEnd c =>
    subst h
    exact ⟨none, .blind _ (show execPurgeEnd c s = _ from rfl) rfl, fun _ hx => absurd hx (Option.not_mem_none _)⟩
  case slowPeriodStart c x =>
    obtain ⟨rfl, rfl⟩ := h
    exact alike (show execSlowPeriodStart c x s = _ from rfl)
  case slowOnTimeEnd c x =>
    obtain ⟨rfl, rfl⟩ := h
    exact alike (show execSlowOnTimeEnd c x s = _ from rfl)
  case stuckOff c x =>
    obtain ⟨rfl, rfl⟩ := h
    exact alike (show execStuckOff c x s = _ from rfl)
  case stuckOn c x =>
    obtain ⟨rfl, rfl⟩ := h
    exact alike (show execStuckOn c x s = _ from rfl)
  case stuckOnRepeat c x =>
    obtain ⟨rfl, rfl⟩ := h
    exact alike (show execStuckOnRepeat c x s = _ from rfl)
  case uncontrolledCleared c x =>
    obtain ⟨rfl, rfl⟩ := h
    exact alike (show execUncontrolledCleared c x s = _ from rfl)
  case sparkStart c x =>
    obtain ⟨rfl, rfl⟩ := h
    exact alike (show execSparkStart c x s = _ from rfl)
  case flameProven c x =>
    obtain ⟨rfl, rfl⟩ := h
    exact alike (show execFlameProven c x s = _ from rfl)
  case attemptFail c x =>
    obtain ⟨rfl, rfl⟩ := h
    exact alike (show execAttemptFail c x s = _ from rfl)
  case falseFlameSet c x =>
    obtain ⟨rfl, rfl⟩ := h
    exact alike (show execFalseFlameSet c x s = _ from rfl)
  case falseFlameCleared c x =>
    obtain ⟨rfl, rfl⟩ := h
    exact alike (show execFalseFlameCleared c x s = _ from rfl)
  case falseFlameLockout c x =>
    obtain ⟨rfl, rfl⟩ := h
    exact alike (show execFalseFlameLockout c x s = _ from rfl)
  case flameLoss c x =>
    obtain ⟨rfl, rfl⟩ := h
    exact alike (show execFlameLoss c x s = _ from rfl)
  case sparkEnd c x =>
    obtain ⟨rfl, rfl⟩ := h
    exact alike (show execSparkEnd c s x = _ from rfl)
  case gateChangeAccepted x =>
    obtain ⟨rfl, rfl⟩ := h
    exact alike (show execGateChangeAccepted x s = _ from rfl)
  case manualResetRequest g =>
    obtain ⟨⟨gates, mr⟩, rfl⟩ := h
    refine ⟨some (withButton true g s), .reading _ _ (show execManualResetRequest s g = _ from rfl), fun x hx => ?_⟩
    obtain rfl := Option.mem_some_iff.1 hx
    exact .inr ⟨rfl, gates, mr.symm⟩
  case mrRelease g =>
    obtain ⟨⟨gates, mr⟩, rfl⟩ := h
    refine ⟨some (withButton false g s), .reading _ _ (show execMrRelease s g = _ from rfl), fun x hx => ?_⟩
    obtain rfl := Option.mem_some_iff.1 hx
    exact .inr ⟨rfl, gates, mr.symm⟩

/-- The state in which a row reads the levels `p`, or none. -/
def readAt (p : Option InputPins) (s : State) : State :=
  match p with
  | some x => withInputs x s
  | none => s

/-- A row that has taken the share of `u` has delivered the event of `u`, in TRACKING. -/
theorem TakesShare.delivers {u : HalfCycleUnit} {i : Instr} {p : Option InputPins} {s t : State}
    (h : TakesShare u i s p) (ht : exec i s = .next t) (hu : u ∉ s.taken) (htaken : u ∈ t.taken) :
    s.held = false ∧ s.mtb.mode = .tracking ∧
    t = noted s.rpu.events.isEmpty (noteSpark u (deliver (comingRising s) u (readAt p s))) := by
  have powered (f : State → State) (k : exec i s = live f s) :
      s.held = false ∧ t = noted s.rpu.events.isEmpty (f s) := by
    rw [k] at ht
    cases hs : s.held with
    | true =>
      rw [live_held _ hs] at ht
      cases ht
      exact absurd htaken hu
    | false =>
      rw [live_powered _ _ hs] at ht
      cases ht
      exact ⟨rfl, rfl⟩
  have event (x : State) (hx : x.taken = s.taken) :
      deliver (comingRising s) u x = deliverEvent (comingRising s) u (lead (comingRising s) u x) :=
    deliver_untaken (by rw [hx]; exact hu)
  cases h with
  | blind due k blind =>
    obtain ⟨hs, result⟩ := powered _ k
    obtain ⟨may, -, taken⟩ | ⟨-, stays⟩ := takeShare_cases u due s _ rfl
    · refine ⟨hs, ?_, ?_⟩
      · rw [← lead_mtb (comingRising s) u s]
        exact (mayTake_iff.1 may).1
      · have quiet (x : State) : noteSpark u x = x := by
          cases u with
          | ignition c => exact absurd blind (by simp [readsPins])
          | _ => rfl
        rw [quiet, result, taken]
        exact congrArg (noted _) (event s rfl).symm
    · rw [result, stays] at htaken
      exact absurd htaken hu
  | reading x due k =>
    obtain ⟨hs, result⟩ := powered _ k
    obtain ⟨may, -, taken⟩ | ⟨-, stays⟩ := takeShareWith_cases x u due s _ rfl
    · refine ⟨hs, ?_, ?_⟩
      · rw [← (congrArg Mtb.mode (lead_mtb (comingRising s) u (withInputs x s)) : _ = s.mtb.mode)]
        exact (mayTake_iff.1 may).1
      · rw [result, taken]
        exact congrArg (fun y => noted _ (noteSpark u y)) (event (withInputs x s) rfl).symm
    · rw [result, stays] at htaken
      exact absurd htaken hu

/-! ### The crossing that follows -/

section
variable (m : Mtb) (p : Pins) (k : Bool) (q : Option Bool) (e : Bool)

/-- The gate input block reads the gates and MR alone. -/
theorem keepsClock_inputsShare {v : HalfCycleUnit} (hv : v = .gates ∨ v = .manualReset) (rising : Bool) (s : State)
    (hgates : p.inputs.gates = s.pins.inputs.gates) (hmr : p.inputs.mr = s.pins.inputs.mr) :
    deliverOne rising v (withClock m p k q e s) = withClock m p k q e (deliverOne rising v s) := by
  have share : unitShare rising v (withClock m p k q e s) = withClock m p k q e (unitShare rising v s) := by
    have read : (withClock m p k q e s).pins = p := rfl
    have gib : (withClock m p k q e s).gib = s.gib := rfl
    obtain rfl | rfl := hv
    · show gatesShare _ = withClock m p k q e (gatesShare s)
      unfold gatesShare
      dsimp only
      rw [read, gib, hgates, keepsClock_forChans m p k q e _ (keepsClock_doorEvents m p k q e _ _),
        ← keepsClock_regate]
      rfl
    · show manualShare _ = withClock m p k q e (manualShare s)
      unfold manualShare
      dsimp only
      rw [read, hmr, apply_ite (withClock m p k q e), ← keepsClock_takeManualReset]
      rfl
  unfold deliverOne
  dsimp only
  rw [share, apply_ite (withClock m p k q e)]
  rfl

theorem keepsClock_deliver_manualReset (rising : Bool) (s : State)
    (hgates : p.inputs.gates = s.pins.inputs.gates) (hmr : p.inputs.mr = s.pins.inputs.mr) :
    deliver rising .manualReset (withClock m p k q e s) = withClock m p k q e (deliver rising .manualReset s) := by
  have first := keepsClock_inputsShare m p k q e (v := .manualReset) (.inr rfl) rising s hgates hmr
  have second := keepsClock_inputsShare m p k q e (v := .gates) (.inl rfl) rising (deliverOne rising .manualReset s)
    (by rw [deliverOne_pins]; exact hgates) (by rw [deliverOne_pins]; exact hmr)
  have event (x : State) : deliver rising .manualReset x =
      if x.taken.contains .manualReset then x else deliverOne rising .gates (deliverOne rising .manualReset x) := rfl
  rw [event, event, first, second, apply_ite (withClock m p k q e)]
  rfl

/-- What a share finds at a crossing is what it finds in its row, where it reads the same levels. -/
theorem keepsClock_deliver_alike {u : HalfCycleUnit} {x : Option InputPins} {pins : InputPins} {s : State} (rising : Bool)
    (hblind : x = none → readsPins u = false) (hx : ∀ y ∈ x, ReadsAlike u y pins)
    (hp : p.inputs = levelsRead pins s) :
    deliver rising u (withClock m p k q e s) = withClock m p k q e (deliver rising u (readAt x s)) := by
  cases x with
  | none =>
    have blind := hblind rfl
    exact (keepsClock_deliver m p k q e rising u s fun reads => absurd (blind.symm.trans reads) (by decide)).1
  | some y =>
    have found : withClock m p k q e s = withClock m p k q e (withInputs y s) := rfl
    rw [found]
    obtain rfl | ⟨rfl, gates, mr⟩ := hx y rfl
    · exact (keepsClock_deliver m p k q e rising u (withInputs y s) fun _ => hp).1
    · refine keepsClock_deliver_manualReset m p k q e rising (withInputs y s) ?_ ?_ <;> rw [hp]
      · exact gates.symm
      · exact mr.symm

end

/-- The clock and the notes that `withClock` gives replace those that it gave before. -/
theorem withClock_withClock (m m' : Mtb) (p p' : Pins) (k k' : Bool) (q q' : Option Bool) (e e' : Bool) (s : State) :
    withClock m p k q e (withClock m' p' k' q' e' s) = withClock m p k q e s := rfl

/-- The notes have no part in what the units make of a crossing. -/
theorem crossingTaken_notes (rising : Bool) (us : List HalfCycleUnit) (m : Mtb) (p : Pins) (k : Bool)
    (q q' : Option Bool) (e e' : Bool) (s : State) :
    crossingTaken rising us (withClock m p k q e s) =
      { crossingTaken rising us (withClock m p k q' e' s) with eventsNew := e } := by
  have other := keepsClock_deliverAll m p k q e rising (us ++ allUnits) (withClock m p k q' e' s) rfl
  have same := keepsClock_deliverAll m p k q' e' rising (us ++ allUnits) (withClock m p k q' e' s) rfl
  rw [withClock_withClock] at other same
  unfold crossingTaken
  rw [other]
  generalize deliverAll rising (us ++ allUnits) (withClock m p k q' e' s) = w at *
  rw [same]
  rfl

/-- What keeps the clock keeps the note of an empty event queue. -/
theorem note_of_keeps {f : State → State} (h : ∀ m p k q e, KeepsClock m p k q e f) (s : State) (e : Bool) :
    f { s with eventsNew := e } = { f s with eventsNew := e } := by
  have other : f { s with eventsNew := e } = withClock s.mtb s.pins s.clockTaken s.sparkRead e (f s) := h _ _ _ _ _ s
  have same : f s = withClock s.mtb s.pins s.clockTaken s.sparkRead s.eventsNew (f s) := h _ _ _ _ _ s
  rw [other]
  generalize f s = w at *
  rw [same]
  rfl

/-- The note of an empty event queue has no part in the expiry of the timers. -/
theorem expireTimers_note {s : State} (hm : s.mtb.mode = .tracking) (e : Bool) :
    expireTimers [] { s with eventsNew := e } = { expireTimers [] s with eventsNew := e } := by
  have going : rideExpired s.mtb = false := by
    rw [Bool.eq_false_iff, ne_eq, rideExpired_iff]
    rintro ⟨missing, -⟩
    exact absurd (hm.symm.trans missing) (by decide)
  unfold expireTimers
  dsimp only
  rw [going]
  split
  · rw [reportMainsAbsent_eq, reportMainsAbsent_eq]
    exact note_of_keeps (fun m p k q e => keepsClock_afterAbsence m p k q e)
      { s with mtb := s.mtb.mainsAbsent, ssv := s.ssv.mainsAbsent, taken := [], sparkRead := none } e
  · rfl

/-- What a delivery leaves of the clock. -/
theorem deliver_clock (rising : Bool) (u : HalfCycleUnit) (s : State) :
    deliver rising u s = withClock s.mtb s.pins s.clockTaken s.sparkRead s.eventsNew (deliver rising u s) :=
  (keepsClock_deliver s.mtb s.pins s.clockTaken s.sparkRead s.eventsNew rising u s fun _ => rfl).1

/-- The time base at the crossing after a row is that at the crossing without it, but for what the shares count. -/
theorem struck_clocked_congr {s t : State} (r : Bool) (hk : t.clockTaken = s.clockTaken)
    (hm : t.mtb = { s.mtb with mode := t.mtb.mode, frequency := t.mtb.frequency, prescaler := t.mtb.prescaler }) :
    (clocked t).struck r =
      { (clocked s).struck r with mode := t.mtb.mode, frequency := t.mtb.frequency, prescaler := t.mtb.prescaler } := by
  unfold clocked
  rw [hk, hm]
  split <;> rfl

/-- SPK_SENSE reads at the crossing as it has read in the row (R128). -/
theorem sparkRead_after_row {pins : InputPins} {u : HalfCycleUnit} {i : Instr} {x : Option InputPins} {s : State}
    (h : TakesShare u i s x) (hx : ∀ y ∈ x, ReadsAlike u y pins) (r : Bool) :
    (noteSpark u (deliver r u (readAt x s))).sparkRead.getD pins.spark = s.sparkRead.getD pins.spark := by
  have clock := deliver_clock r u (readAt x s)
  cases u with
  | ignition c =>
    cases h with
    | blind due _ blind => exact absurd blind (by simp [readsPins])
    | reading y due _ =>
      obtain rfl | ⟨other, -⟩ := hx y rfl
      · have read : (deliver r (.ignition c) (readAt (some y) s)).pins = (withInputs y s).pins :=
          (congrArg State.pins clock :)
        show (some (deliver r (.ignition c) (readAt (some y) s)).pins.inputs.spark).getD y.spark = _
        rw [read]
        rfl
      · exact absurd other (by simp)
  | _ =>
    have kept := congrArg State.sparkRead clock
    cases x <;> exact congrArg (fun q => Option.getD q pins.spark) kept

/-- What the crossing finds after the row of `u`. -/
theorem struck_after_row {pins : InputPins} {u : HalfCycleUnit} {i : Instr} {x : Option InputPins} {s t : State}
    (h : TakesShare u i s x) (hx : ∀ y ∈ x, ReadsAlike u y pins)
    (ht : t = noted s.rpu.events.isEmpty (noteSpark u (deliver (comingRising s) u (readAt x s)))) :
    comingRising t = comingRising s ∧ crossingDue t = crossingDue s ∧
    ∃ q e, struck pins t =
      withClock ((clocked s).struck (comingRising s)) { (withInputs pins s).pins with zx := comingRising s } false q e
        (deliver (comingRising s) u (readAt x s)) := by
  have spark := sparkRead_after_row h hx (comingRising s)
  have clock := deliver_clock (comingRising s) u (readAt x s)
  generalize deliver (comingRising s) u (readAt x s) = d at *
  have keeps (m : Mtb) (p : Pins) (k : Bool) (q : Option Bool) (e : Bool) :
      withClock m p k q e t = withClock m p k q e d := by
    rw [ht]
    cases u <;> rfl
  obtain ⟨tmtb, tclock, tpins, tspark⟩ : t.mtb = d.mtb ∧ t.clockTaken = d.clockTaken ∧ t.pins = d.pins ∧
      t.sparkRead = (noteSpark u d).sparkRead := by
    rw [ht]
    cases u <;> exact ⟨rfl, rfl, rfl, rfl⟩
  obtain ⟨rmtb, rclock, rstraps⟩ : (readAt x s).mtb = s.mtb ∧ (readAt x s).clockTaken = s.clockTaken ∧
      (readAt x s).pins.straps = s.pins.straps := by
    cases x <;> exact ⟨rfl, rfl, rfl⟩
  have mtb : t.mtb = { s.mtb with mode := t.mtb.mode, frequency := t.mtb.frequency, prescaler := t.mtb.prescaler } := by
    have base := (congrArg State.mtb clock :)
    rw [← rmtb, tmtb]
    exact base
  have taken : t.clockTaken = s.clockTaken := tclock.trans ((congrArg State.clockTaken clock :).trans rclock)
  have straps : t.pins.straps = s.pins.straps := by
    have read := (congrArg State.pins clock :)
    rw [tpins, ← rstraps]
    exact congrArg Pins.straps read
  have sign : t.mtb.sign = s.mtb.sign := by rw [mtb]
  have run : t.mtb.run = s.mtb.run := by rw [mtb]
  have rising : comingRising t = comingRising s := by rw [comingRising, comingRising, sign]
  have levels : levelsRead pins t = levelsRead pins s := by rw [levelsRead, levelsRead, tspark, spark]
  refine ⟨rising, by rw [crossingDue, crossingDue, sign, run], t.sparkRead, t.eventsNew, ?_⟩
  have read : ({ (withInputs pins t).pins with zx := comingRising t } : Pins) =
      { (withInputs pins s).pins with zx := comingRising s } := by
    show (⟨comingRising t, t.pins.straps, levelsRead pins t⟩ : Pins) = ⟨comingRising s, s.pins.straps, levelsRead pins s⟩
    rw [rising, straps, levels]
  rw [struck, keeps, read, rising, struck_clocked_congr _ taken mtb]
  rfl

/-- A row that is one unit's share, and the crossing after it, are the crossing with the unit first. -/
theorem crossing_after_row {pins : InputPins} {us : List HalfCycleUnit} {u : HalfCycleUnit} {i : Instr} {s t : State}
    (hsign : s.mtb.sign.isSome = true) (hrun : s.mtb.run = 3) (hrow : rowUnit pins s i = some u)
    (ht : exec i s = .next t) (hu : u ∉ s.taken) (htaken : u ∈ t.taken) :
    ∃ v w, exec (.acceptedCrossing pins (u :: us)) s = .next v ∧ exec (.acceptedCrossing pins us) t = .next w ∧
      v = { w with eventsNew := v.eventsNew } := by
  obtain ⟨x, takes, alike⟩ := takesShare_of_rowUnit hrow
  obtain ⟨held, mode, result⟩ := takes.delivers ht hu htaken
  have due : crossingDue s = true := by
    rw [crossingDue, hsign, hrun]
    rfl
  obtain ⟨rising, dueAfter, q, e, after⟩ := struck_after_row takes alike result
  have blind : x = none → readsPins u = false := by
    rintro rfl
    cases takes with
    | blind _ _ h => exact h
  have share := keepsClock_deliver_alike ((clocked s).struck (comingRising s))
    { (withInputs pins s).pins with zx := comingRising s } false s.sparkRead s.eventsNew (comingRising s) blind alike rfl
  obtain ⟨afterMode, afterHeld⟩ : t.mtb.mode = .tracking ∧ t.held = false := by
    have found : (readAt x s).mtb = s.mtb ∧ (readAt x s).held = s.held := by cases x <;> exact ⟨rfl, rfl⟩
    have tracking : (readAt x s).mtb.mode = .tracking := by rw [found.1, mode]
    have kept := KeptByShares.deliver
      { toKeptByUnits := keptByUnits_mode .tracking s.mtb.frequency, taken := fun _ _ h => h } (comingRising s) u
      (s := readAt x s) ⟨⟨tracking, by rw [found.1]⟩, tracking⟩
    have powered := KeptByShares.deliver
      { toKeptByUnits := keptByUnits_held false, taken := fun _ _ h => h } (comingRising s) u
      (s := readAt x s) ⟨found.2.trans held, tracking⟩
    rw [result]
    cases u <;> exact ⟨kept.2, powered.1⟩
  have first : crossingTaken (comingRising s) (u :: us) (struck pins s) =
      { crossingTaken (comingRising s) us (struck pins t) with eventsNew := s.eventsNew } := by
    show crossingTaken (comingRising s) us (deliver (comingRising s) u (struck pins s)) = _
    rw [struck, share, after]
    exact crossingTaken_notes _ _ _ _ _ _ _ _ _ _
  have tracking : (crossingTaken (comingRising s) us (struck pins t)).mtb.mode = .tracking :=
    crossingTaken_mode (s := struck pins t) _ _ afterMode
  refine ⟨_, _, exec_crossing_tracking pins (u :: us) held due mode,
    exec_crossing_tracking pins us afterHeld (dueAfter.trans due) afterMode, ?_⟩
  rw [first, expireTimers_note tracking, rising]

/-- A crossing in TRACKING at a measured frequency expires no timer (R3, R5). -/
theorem expireTimers_crossingTaken (rising : Bool) (us : List HalfCycleUnit) {s : State} (hm : s.mtb.mode = .tracking)
    (ht : s.mtb.missingTimer = some 0) (hf : s.mtb.frequency.isSome = true) :
    expireTimers [] (crossingTaken rising us s) = crossingTaken rising us s := by
  obtain ⟨⟨-, frequency⟩, -⟩ := KeptByShares.deliverAll
    { toKeptByUnits := keptByUnits_mode .tracking s.mtb.frequency, taken := fun _ _ h => h } rising (us ++ allUnits)
    (s := s) ⟨⟨hm, rfl⟩, hm⟩
  have clock := keepsClock_deliverAll s.mtb s.pins s.clockTaken s.sparkRead s.eventsNew rising (us ++ allUnits) s rfl
  have timer : (deliverAll rising (us ++ allUnits) s).mtb.missingTimer = s.mtb.missingTimer :=
    (congrArg (fun x : State => x.mtb.missingTimer) clock :)
  refine expireTimers_started (crossingTaken_mode rising us hm) (timer.trans ht) ?_ []
  show (deliverAll rising (us ++ allUnits) s).mtb.frequency ≠ none
  rw [frequency]
  exact Option.isSome_iff_ne_none.1 hf

theorem exec_crossing_measured {s t : State} {rising : Bool} (pins : InputPins) (us : List HalfCycleUnit)
    (hs : s.held = false) (hk : s.clockTaken = false) (hsign : s.mtb.sign = some (signOf (!rising)))
    (hrun : s.mtb.run = 3) (hm : s.mtb.mode = .tracking) (hf : s.mtb.frequency.isSome = true)
    (ht : t =
      deliverAll rising (us ++ allUnits)
        { s with
          mtb := { s.mtb.tick with sign := some (signOf rising), run := 0, missingTimer := some 0 }
          pins := { (withInputs pins s).pins with zx := rising } }) :
    exec (.acceptedCrossing pins us) s =
      .next
        { t with
          mtb := { t.mtb with spacing := 0 }, taken := [], sparkRead := none
          eventsNew := s.rpu.events.isEmpty } := by
  have coming : comingRising s = rising := by
    rw [comingRising, hsign]
    cases rising <;> rfl
  have found : struck pins s =
      { s with
        mtb := { s.mtb.tick with sign := some (signOf rising), run := 0, missingTimer := some 0 }
        pins := { (withInputs pins s).pins with zx := rising } } := by
    have clock : clocked s = s.mtb.tick := by
      rw [clocked, hk]
      rfl
    rw [struck, coming, clock, ← hk]
    rfl
  have quiet := expireTimers_crossingTaken rising us (s := struck pins s) hm rfl hf
  rw [exec_crossing_tracking pins us hs (crossingDue_of_sign hsign hrun) hm, coming, quiet, crossingTaken, found, ← ht]

/-- Settles O18, from the marks, what each share spares, and that the clock has no part in a share. -/
theorem eachUnitTakesAHalfCycleOnce : Obligations.EachUnitTakesAHalfCycleOnce := by
  intro rising us u s t c d pins i
  refine ⟨deliver_taken rising u s, mem_taken_deliverAll, fun h => ?_, fun h => ⟨?_, ?_⟩, fun h => ⟨?_, ?_⟩, fun h => ?_,
    deliver_untaken, fun h => ?_, fun h => ?_, fun h => ?_, fun h => ?_, deliverOne_untaken rising u s, newHolder_taken,
    newlyProven_taken, newPurge_taken, exec_crossing_measured pins us, crossing_after_row⟩
  · exact mem_taken_deliver (.inr ⟨h, mem_event_ignition c d⟩)
  · exact mem_taken_deliver (.inr ⟨h, (mem_event_purge c d).1⟩)
  · exact mem_taken_deliver (.inr ⟨h, (mem_event_purge c d).2⟩)
  · exact mem_taken_deliver (.inr ⟨h, (mem_event_hold c d).1⟩)
  · exact mem_taken_deliver (.inr ⟨h, (mem_event_hold c d).2⟩)
  · exact mem_taken_deliver (.inr ⟨h, mem_event_interval d⟩)
  · obtain ⟨program, valve, events⟩ := spared_trail h rising s
    exact ⟨program, valve, events⟩
  · exact mem_taken_deliver (.inr ⟨h, by decide⟩)
  · exact mem_taken_deliver (.inr ⟨h, by decide⟩)
  · have lead : lead rising u s = s := lead_of_taken rising u s fun v hv => h v (List.mem_append_left _ hv)
    have trail : trail rising u (deliverOne rising u s) = deliverOne rising u s :=
      trail_of_taken rising u _ fun v hv => mem_taken_deliverOne (h v (List.mem_append_right _ hv))
    by_cases taken : u ∈ s.taken
    · rw [deliver_taken rising u s taken, deliverOne_taken rising u s taken]
    · rw [deliver_untaken taken, lead, trail]

end Sys2Proof.Machine
end

section
/-! What counting is on each unit: the shares of a half-cycle that brings nothing to its end (01, 02, 04, 05, 06, 07). -/

namespace Sys2Proof.Machine

section
variable {f : Nat} {s : State}

/-! ### The program unit -/

theorem programShare_quiet {c : Chan} (hf : perSecond s.mtb.frequency = 2 * f)
    (hq : quietProgram f (s.chan c) = true) :
    programShare c s = s.mapChan c fun ch => { ch with pgu := countedProgram f ch } := by
  have quiet := of_decide_eq_true hq
  have runs : stepTimerRuns (s.chan c) = true ↔
      (s.chan c).chc.state = .running ∧ (s.chan c).pgu.timing = .timed ∧ (s.chan c).pgu.holding = false := by
    simp [stepTimerRuns, and_assoc]
  unfold programShare
  by_cases hr : stepTimerRuns (s.chan c) = true
  · obtain ⟨state, timed, held⟩ := runs.1 hr
    have more : stepExpires s.mtb.frequency (s.chan c) = false := by
      rw [stepExpires, hr, lastHalfCycle, hf, Bool.true_and, Bool.and_eq_false_iff]
      by_cases hp : 2 * f ≤ (s.chan c).pgu.phase + 1
      · exact .inr (decide_eq_false (by have := (quiet hp).1 state timed held; omega))
      · exact .inl (decide_eq_false hp)
    rw [if_pos hr, more]
    refine mapChan_congr (f := fun ch => { ch with pgu := ch.pgu.countStep s.mtb.frequency }) ?_
    rw [countedProgram, if_pos ⟨state, timed, held⟩, Pgu.countStep, hf]
  · rw [if_neg hr]
    by_cases hd : (s.chan c).chc.state = .delayed
    · have more : delayExpires s.mtb.frequency (s.chan c) = false := by
        rw [delayExpires, lastHalfCycle, hf, Bool.and_eq_false_iff, Bool.and_eq_false_iff]
        by_cases hp : 2 * f ≤ (s.chan c).pgu.phase + 1
        · exact .inr (.inr (decide_eq_false (by have := (quiet hp).2 hd; omega)))
        · exact .inr (.inl (decide_eq_false hp))
      rw [if_pos hd, more]
      refine mapChan_congr (f := fun ch => { ch with pgu := ch.pgu.countDelay s.mtb.frequency }) ?_
      rw [countedProgram, if_neg (fun h => hr (runs.2 h)), if_pos hd, Pgu.countDelay, hf]
    · rw [if_neg hd]
      refine (mapChan_of_fixed ?_).symm
      rw [countedProgram, if_neg (fun h => hr (runs.2 h)), if_neg hd]

/-! ### The element drivers -/

theorem judgeUncontrolled_quiet {x : Bool} {d : Driver} (h : x = false → d.clearCount < 5) :
    judgeUncontrolled x d = ({ d with clearCount := if x then 0 else d.clearCount + 1 }, .nothing) := by
  cases x with
  | true => rfl
  | false => exact if_pos (Nat.succ_lt_succ (h rfl))

theorem judgeControlled_quiet {x : Bool} {d : Driver} (on : d.output = true → x = false → d.onMismatch < 5)
    (off : d.output = false → x = true → d.offMismatch < 5) :
    judgeControlled x d =
      (if d.output = true then { d with onMismatch := if x then 0 else d.onMismatch + 1 }
        else { d with offMismatch := if x then d.offMismatch + 1 else 0 }, .nothing) := by
  unfold judgeControlled
  cases x <;> cases ho : d.output
  · rfl
  · exact if_pos (Nat.succ_lt_succ (on ho rfl))
  · exact if_pos (Nat.succ_lt_succ (off ho rfl))
  · rfl

theorem driverSample_quiet {c : Chan} (hk : (s.chan c).cfg.kind = .cycle ∨ (s.chan c).cfg.kind = .slow)
    (hl : (s.chan c).chc.state ≠ .lockout) (hq : quietDriver (s.pins.inputs.sense.get c) (s.chan c) = true) :
    driverSample s c = (judgedDriver (s.pins.inputs.sense.get c) (s.chan c), .nothing) := by
  have quiet := of_decide_eq_true hq hk hl
  unfold driverSample driveSample judgedDriver
  by_cases hs : (s.chan c).driver.suspended = true
  · rw [if_pos hs, if_pos hs]
  rw [if_neg hs, if_neg hs]
  by_cases settling : (s.chan c).cfg.kind = .slow ∧ 0 < (s.chan c).driver.settle
  · rw [if_pos settling, if_pos settling]
  obtain ⟨clears, on, off⟩ := quiet (Bool.not_eq_true _ ▸ hs) fun k => by
    by_contra h
    exact settling ⟨k, Nat.pos_of_ne_zero h⟩
  rw [if_neg settling, if_neg settling]
  by_cases hu : (s.chan c).driver.uncontrolled = true
  · rw [if_pos hu, if_pos hu, judgeUncontrolled_quiet (clears hu)]
  · have controlled := Bool.eq_false_iff.2 hu
    rw [if_neg hu, if_neg hu, judgeControlled_quiet (on controlled) (off controlled)]

theorem slowCommand_eq (P M : Nat) (ch : Channel) : slowCommand P M ch = slowedDriver P M ch ch.driver := by
  unfold slowCommand slowedDriver
  by_cases hr : ch.chc.state = .running
  · have limit : driveLimit ch = if ch.gated then 0 else ch.claim.ceiling := by
      unfold driveLimit
      cases ch.gated <;> simp [hr]
    rw [if_pos hr, if_neg (by simp [hr]), limit]
    unfold slowAdvance
    split <;> rfl
  · rw [if_neg hr, if_pos hr]
    unfold Driver.commandRelay
    cases ch.driver.output <;> rfl

/-- The command of a half-cycle at a measured frequency (R101, step 2). -/
theorem driveCommand_counted {k : Option Frequency} (hf : perSecond k = 2 * f) (rising : Bool) (ch : Channel)
    (he : ch.cfg.kind = .cycle ∨ ch.cfg.kind = .slow) :
    driveCommand k rising ch =
      if ch.cfg.kind = .cycle then cycledDriver rising ch.driver
      else slowedDriver (ch.cfg.period * (2 * f)) (ch.cfg.minSwitch * (2 * f)) ch ch.driver := by
  unfold driveCommand
  obtain hk | hk := he <;> rw [hk]
  · unfold cycleCommand cycledDriver
    rfl
  · dsimp only
    rw [if_neg (by decide), slowCommand_eq, slowPeriod, slowMinSwitch, hf]

theorem driverShare_quiet {c : Chan} (rising : Bool) (hf : perSecond s.mtb.frequency = 2 * f)
    (hq : quietDriver (s.pins.inputs.sense.get c) (s.chan c) = true) :
    driverShare rising c s = s.mapChan c fun ch =>
      { ch with driver := countedDriver f rising (s.pins.inputs.sense.get c) ch } := by
  have element : (s.chan c).cfg.kind.isElement = true ↔ (s.chan c).cfg.kind = .cycle ∨ (s.chan c).cfg.kind = .slow := by
    cases (s.chan c).cfg.kind <;> simp [ChanKind.isElement]
  have works : driverWorks (s.chan c) = true ↔
      ((s.chan c).cfg.kind = .cycle ∨ (s.chan c).cfg.kind = .slow) ∧ (s.chan c).chc.state ≠ .lockout := by
    rw [driverWorks, Bool.and_eq_true, element, bne_iff_ne]
  by_cases hw : driverWorks (s.chan c) = true
  · obtain ⟨he, hl⟩ := works.1 hw
    have share := driverSample_quiet he hl hq
    rw [driverShare, if_pos hw, share]
    refine (mapChan_mapChan c
      (fun ch => { ch with driver := judgedDriver (s.pins.inputs.sense.get c) (s.chan c) })
      (fun ch => { ch with driver := driveCommand s.mtb.frequency rising ch }) s).trans (mapChan_congr ?_)
    have command := driveCommand_counted hf rising
      { s.chan c with driver := judgedDriver (s.pins.inputs.sense.get c) (s.chan c) } he
    refine congrArg (fun d => { s.chan c with driver := d }) (command.trans ?_)
    rw [countedDriver, if_neg hl]
    obtain hk | hk := he
    · rw [if_pos hk, if_pos hk]
    · have other : (s.chan c).cfg.kind ≠ .cycle := by simp [hk]
      rw [if_neg other, if_neg other, if_pos hk]
      rfl
  · rw [driverShare, if_neg hw]
    refine (mapChan_of_fixed ?_).symm
    have idle : countedDriver f rising (s.pins.inputs.sense.get c) (s.chan c) = (s.chan c).driver := by
      unfold countedDriver
      split_ifs with hl hc hs
      · rfl
      · exact absurd (works.2 ⟨.inl hc, hl⟩) hw
      · exact absurd (works.2 ⟨.inr hs, hl⟩) hw
      · rfl
    rw [idle]

/-! ### The ignition unit -/

/-- The sample of a burner whose reading `blanked` and `flame` give (R128). -/
def sampleOf (blanked flame : Bool) : Sample := if blanked then .blanked else if flame then .flame else .noFlame

theorem flameSample_eq (s : State) (c : Chan) :
    flameSample s c = sampleOf s.pins.inputs.spark (flameAt s.pins.inputs s c) := by
  simp [flameSample, sampleOf, flameAt]

section
variable (blanked flame : Bool) (ch : Channel) (b : Burner)

theorem sampled_eq : b.sampled (sampleOf blanked flame) = sampledBurner blanked flame b := by
  cases blanked <;> cases flame <;> rfl

theorem flameOn_eq : b.flameOn (sampleOf blanked flame) ch.cfg.params = onReached blanked flame ch b := by
  cases blanked <;> cases flame <;> rfl

theorem flameOff_eq : b.flameOff (sampleOf blanked flame) ch.cfg.params = offReached blanked flame ch b := by
  cases blanked <;> cases flame <;> rfl

theorem sampledBurner_eq :
    sampledBurner blanked flame b =
      { b with onRun := (sampledBurner blanked flame b).onRun, offRun := (sampledBurner blanked flame b).offRun } := by
  cases blanked <;> cases flame <;> rfl

/-- The counted sample reaches W_on, or W_off, by the runs alone. -/
theorem reached_congr {x y : Burner} (on : x.onRun = y.onRun) (off : x.offRun = y.offRun) :
    onReached blanked flame ch x = onReached blanked flame ch y ∧
    offReached blanked flame ch x = offReached blanked flame ch y := by
  simp [onReached, offReached, on, off]

theorem falseFlameStep_eq :
    b.falseFlameStep (sampleOf blanked flame) ch.cfg.params =
      { b with
        falseFlame := if b.falseFlame then !offReached blanked flame ch b else onReached blanked flame ch b
        falseTimer :=
          if b.falseFlame then if offReached blanked flame ch b then 0 else b.falseTimer + 1
          else if onReached blanked flame ch b then 0 else b.falseTimer } := by
  unfold Burner.falseFlameStep
  rw [flameOn_eq, flameOff_eq]
  obtain ⟨⟩ := b
  split_ifs <;> simp_all

end

theorem countedBurner_lineWait {blanked flame : Bool} {ch : Channel} (hk : ch.cfg.kind = .burner)
    (hp : ch.burner.phase = .lineWait) :
    countedBurner f blanked flame ch =
      ((ch.burner.sampled (sampleOf blanked flame)).falseFlameStep (sampleOf blanked flame) ch.cfg.params).quietStep f
        blanked := by
  rw [falseFlameStep_eq, sampled_eq, countedBurner, if_neg (not_not.2 hk), hp, Burner.quietStep]
  rw [sampledBurner_eq]

theorem countedBurner_spark {blanked flame : Bool} {ch : Channel} (hk : ch.cfg.kind = .burner)
    (hp : ch.burner.phase = .spark) :
    countedBurner f blanked flame ch = { ch.burner with safety := ch.burner.safety + 1 } := by
  simp [countedBurner, hk, hp]

theorem countedBurner_prove {blanked flame : Bool} {ch : Channel} (hk : ch.cfg.kind = .burner)
    (hp : ch.burner.phase = .prove) :
    countedBurner f blanked flame ch = { ch.burner with safety := ch.burner.safety + 1 }.sampled (sampleOf blanked flame) := by
  rw [sampled_eq, countedBurner, if_neg (not_not.2 hk), hp]
  cases blanked <;> cases flame <;> rfl

theorem watched_eq (blanked flame : Bool) (b : Burner) :
    b.watched (sampleOf blanked flame) =
      { sampledBurner blanked flame b with blankRun := if blanked then b.blankRun + 1 else 0 } := by
  cases blanked <;> cases flame <;> rfl

theorem countedBurner_apart {blanked flame : Bool} {ch : Channel} (hk : ch.cfg.kind = .burner)
    (hp : ch.burner.phase.holdsUnit = false) :
    countedBurner f blanked flame ch =
      if ch.burner.supervising then ch.burner.watched (sampleOf blanked flame) else ch.burner := by
  rw [watched_eq, countedBurner, if_neg (not_not.2 hk)]
  cases h : ch.burner.phase <;> simp_all [IgnitionPhase.holdsUnit]

theorem ignitionStep_quiet {c : Chan} (hf : hertz s.mtb.frequency = f)
    (hq : quietBurner f s.pins.inputs.spark (flameAt s.pins.inputs s c) (s.chan c)
      (countedBurner f s.pins.inputs.spark (flameAt s.pins.inputs s c) (s.chan c)) = true) :
    ignitionStep s c = (countedBurner f s.pins.inputs.spark (flameAt s.pins.inputs s c) (s.chan c), .stays) := by
  by_cases hk : (s.chan c).cfg.kind = .burner
  case neg => rw [ignitionStep_other hk, countedBurner, if_pos hk]
  obtain ⟨belowFalse, belowQuiet, belowSpark, belowProof, supervised⟩ := of_decide_eq_true hq hk
  have apart (hp : (s.chan c).burner.phase.holdsUnit = false) :
      ignitionStep s c = (countedBurner f s.pins.inputs.spark (flameAt s.pins.inputs s c) (s.chan c), .stays) := by
    have below := supervised hp
    rw [ignitionStep_apart hk hp, flameSample_eq, hf]
    rw [countedBurner_apart hk hp] at below ⊢
    by_cases hs : (s.chan c).burner.supervising = true
    · rw [if_pos hs] at below ⊢
      obtain ⟨run, off⟩ := below hs
      rw [if_pos hs, superviseStep_watched, flameOff_eq, if_neg (Bool.eq_false_iff.1 off), if_neg (Nat.not_le.2 run)]
    · rw [if_neg hs, if_neg hs]
  cases hp : (s.chan c).burner.phase with
  | lineWait =>
    rw [ignitionStep_lineWait hk hp, flameSample_eq, hf]
    rw [countedBurner_lineWait hk hp] at belowFalse belowQuiet ⊢
    cases hff : (((s.chan c).burner.sampled (sampleOf s.pins.inputs.spark (flameAt s.pins.inputs s c))).falseFlameStep
      (sampleOf s.pins.inputs.spark (flameAt s.pins.inputs s c)) (s.chan c).cfg.params).falseFlame with
    | true => exact (lineWaitStep_false hff).trans (congrArg (Prod.mk _) (if_neg (Nat.not_le.2 (belowFalse hp hff))))
    | false => exact (lineWaitStep_quiet hff).trans (congrArg (Prod.mk _) (if_neg (Nat.not_le.2 (belowQuiet hp hff))))
  | spark =>
    have below := belowSpark hp
    rw [countedBurner_spark hk hp] at below ⊢
    rw [ignitionStep_spark hk hp, sparkStep, if_neg (Nat.not_le.2 below)]
  | prove =>
    obtain ⟨below, unproven⟩ := belowProof hp
    rw [countedBurner_prove hk hp] at below unproven ⊢
    rw [ignitionStep_prove hk hp, flameSample_eq, proveStep, flameOn_eq, if_neg (Bool.eq_false_iff.1 unproven),
      if_neg (Nat.not_le.2 below)]
  | none | queued | purge => exact apart (by rw [hp]; rfl)

theorem ignitionShare_quiet {c : Chan} (hf : hertz s.mtb.frequency = f)
    (hq : quietBurner f s.pins.inputs.spark (flameAt s.pins.inputs s c) (s.chan c)
      (countedBurner f s.pins.inputs.spark (flameAt s.pins.inputs s c) (s.chan c)) = true) :
    ignitionShare c s = s.mapChan c fun ch =>
      { ch with burner := countedBurner f s.pins.inputs.spark (flameAt s.pins.inputs s c) ch } := by
  rw [ignitionShare, ignitionStep_quiet hf hq]
  exact mapChan_congr (c := c) (s := s) (f := fun ch => { ch with burner := countedBurner f s.pins.inputs.spark (flameAt s.pins.inputs s c) (s.chan c) }) rfl

/-! ### The apportionment unit and the gate input block -/

theorem holdShare_quiet {c : Chan} (hq : (s.chan c).claim.stage = .counting → 1 < (s.chan c).claim.count) :
    holdShare c s = s.mapChan c fun ch =>
      { ch with
        claim := if ch.claim.stage = .counting then { ch.claim with count := ch.claim.count - 1 } else ch.claim } := by
  unfold holdShare
  split
  · next counting =>
    rw [if_pos (hq counting)]
    exact mapChan_congr (by rw [if_pos counting])
  · next other => exact (mapChan_of_fixed (by rw [if_neg other])).symm

theorem gatesShare_quiet (hq : GatesQuiet s.pins.inputs.gates s) :
    gatesShare s =
      { s with
        gib := { s.gib with
          gates := .ofFn fun g => countedGate (s.pins.inputs.gates.get g) (s.gib.gates.get g) } } := by
  obtain ⟨runs, -⟩ := id hq
  have sampled : s.gib.sampled s.pins.inputs.gates =
      { s.gib with
        gates := .ofFn fun g => countedGate (s.pins.inputs.gates.get g) (s.gib.gates.get g) } := by
    rw [Gib.sampled]
    congr 2
    funext g
    rw [gateStep_eq, if_neg fun ⟨hne, hrun⟩ => absurd (runs g hne) (not_lt.2 hrun)]
  rw [gatesShare_eq, doorRecords_of_quiet hq, regate_of_fixed, sampled]
  · rfl
  · exact gatedBy_sampled hq

theorem manualShare_quiet (hq : pressQualifies s.pins.inputs s = false) :
    manualShare s = { s with gib := countedButton s.pins.inputs.mr s.gib } := by
  rw [manualShare_eq, if_neg (by simp [hq]), manualSampled, buttonSampled, if_neg (by simp [hq])]

end

end Sys2Proof.Machine
end

section
/-! The half-cycle of an ordinary crossing (03 R3; 02, 04, 05, 06, 07): which units have counted, and the state with what
they have counted. -/

namespace Sys2Proof.Machine

/-! ### The units that have counted -/

/-- The units that have taken the half-cycle by the marks `l`, and had not in `s`. -/
def newly (s : State) (l : List HalfCycleUnit) (u : HalfCycleUnit) : Bool := decide (u ∉ s.taken ∧ u ∈ l)

theorem newly_cons {s : State} {u : HalfCycleUnit} (l : List HalfCycleUnit) (hu : u ∉ s.taken) :
    newly s (u :: l) = Function.update (newly s l) u true := by
  funext v
  by_cases hv : v = u
  · subst hv
    simp [newly, hu]
  · simp [newly, hv]

theorem newly_self (s : State) : newly s s.taken = fun _ => false := by
  funext u
  simp [newly]

/-- The channel `c` of `s` after the counting of the units that `k` names. -/
def countedChannel (f : Nat) (rising : Bool) (k : HalfCycleUnit → Bool) (s : State) (c : Chan) : Channel :=
  { s.chan c with
    pgu := if k (.program c) then countedProgram f (s.chan c) else (s.chan c).pgu
    driver := if k (.driver c) then countedDriver f rising (s.pins.inputs.sense.get c) (s.chan c) else (s.chan c).driver
    burner :=
      if k (.ignition c) then countedBurner f s.pins.inputs.spark (flameAt s.pins.inputs s c) (s.chan c)
      else (s.chan c).burner
    claim :=
      if k (.hold c) ∧ (s.chan c).claim.stage = .counting then
        { (s.chan c).claim with count := (s.chan c).claim.count - 1 }
      else (s.chan c).claim }

/-- The gate input block of `s` after the counting of the units that `k` names. -/
def countedInputs (k : HalfCycleUnit → Bool) (s : State) : Gib :=
  { (if k .manualReset then countedButton s.pins.inputs.mr s.gib else s.gib) with
    gates :=
      if k .gates then .ofFn fun g => countedGate (s.pins.inputs.gates.get g) (s.gib.gates.get g) else s.gib.gates }

/-- `s` after the counting of the units that `k` names, where nothing reaches its end; the marks are `l`. -/
def counted (f : Nat) (rising : Bool) (k : HalfCycleUnit → Bool) (l : List HalfCycleUnit) (s : State) : State :=
  { s with
    mtb := { s.mtb with prescaler := if k .prescaler then s.mtb.prescaler + 1 else s.mtb.prescaler }
    apu := { s.apu with interval := if k .interval then s.apu.interval + 1 else s.apu.interval }
    gib := countedInputs k s
    chans := .ofFn (countedChannel f rising k s)
    taken := l }

section
variable {f : Nat} {rising : Bool} {k : HalfCycleUnit → Bool} {l : List HalfCycleUnit} {s : State}

@[simp] theorem counted_chan (c : Chan) : (counted f rising k l s).chan c = countedChannel f rising k s c :=
  Quad.get_ofFn _ _

theorem countedInputs_gates (hk : k .gates = false) : (countedInputs k s).gates = s.gib.gates := by
  simp [countedInputs, hk]

theorem countedInputs_button (hk : k .manualReset = false) :
    countedInputs k s = { s.gib with gates := (countedInputs k s).gates } := by
  simp [countedInputs, hk]

theorem countedBurner_phase (blanked flame : Bool) (ch : Channel) :
    (countedBurner f blanked flame ch).phase = ch.burner.phase := by
  unfold countedBurner
  dsimp only
  rw [sampledBurner_eq]
  split_ifs
  · rfl
  all_goals split <;> rfl

/-- A purge counts nothing: its burner's second event belongs to the prescaler's share (R139). -/
theorem counted_congr {k' : HalfCycleUnit → Bool} (h : ∀ u, (∀ c, u ≠ .purge c) → k u = k' u) :
    counted f rising k l s = counted f rising k' l s := by
  have channel : countedChannel f rising k s = countedChannel f rising k' s := by
    funext c
    simp [countedChannel, h]
  simp [counted, countedInputs, channel, h]

end

/-! ### What a unit's counting does to the others -/

/-- Nothing has begun where the holder, the controllers and the phases stand as they did (R28, R126, R139). -/
theorem begun_of_steady {s t : State} (holder : t.igu.holder = s.igu.holder)
    (state : ∀ c, (t.chan c).chc.state = (s.chan c).chc.state)
    (phase : ∀ c, (t.chan c).burner.phase = (s.chan c).burner.phase) : begun s t = [] := by
  have program (c : Chan) : ((s.chan c).chc.state == .igniting && (t.chan c).chc.state == .running) = false := by
    rw [state c]
    cases (s.chan c).chc.state <;> rfl
  have purge (c : Chan) : ((s.chan c).burner.phase != .purge && (t.chan c).burner.phase == .purge) = false := by
    rw [phase c]
    cases (s.chan c).burner.phase <;> rfl
  rw [begun, newHolder, if_pos holder.symm, newlyProven, newPurges]
  simp [program, purge]

section
variable {f : Nat} {rising : Bool} {k k' : HalfCycleUnit → Bool} {l : List HalfCycleUnit} {s : State}

theorem begun_counted (l' : List HalfCycleUnit) : begun (counted f rising k l s) (counted f rising k' l' s) = [] := by
  have phase (k : HalfCycleUnit → Bool) (c : Chan) : (countedChannel f rising k s c).burner.phase = (s.chan c).burner.phase := by
    unfold countedChannel
    dsimp only
    split_ifs
    · exact countedBurner_phase _ _ _
    · rfl
  refine begun_of_steady rfl (fun c => ?_) fun c => ?_
  · rw [counted_chan, counted_chan]
    rfl
  · rw [counted_chan, counted_chan, phase, phase]

/-- A share that moves channel `c` as its counting does, and no other channel, counts it. -/
theorem mapChan_counted {c : Chan} {g : Channel → Channel}
    (self : g (countedChannel f rising k s c) = countedChannel f rising k' s c)
    (others : ∀ d, d ≠ c → countedChannel f rising k' s d = countedChannel f rising k s d)
    (prescaler : k' .prescaler = k .prescaler) (interval : k' .interval = k .interval)
    (gates : k' .gates = k .gates) (button : k' .manualReset = k .manualReset) :
    (counted f rising k l s).mapChan c g = counted f rising k' l s := by
  have chans : ((counted f rising k l s).mapChan c g).chans = (counted f rising k' l s).chans := by
    refine Quad.ext_get _ _ fun d => ?_
    show ((counted f rising k l s).mapChan c g).chan d = (counted f rising k' l s).chan d
    by_cases hd : d = c
    · subst hd
      rw [State.chan_mapChan_self, counted_chan, counted_chan, self]
    · rw [State.chan_mapChan_ne _ _ _ _ hd, counted_chan, counted_chan, others d hd]
  have inputs : countedInputs k' s = countedInputs k s := by simp only [countedInputs, gates, button]
  show { counted f rising k l s with chans := ((counted f rising k l s).mapChan c g).chans } = _
  rw [chans]
  simp only [counted, prescaler, interval, inputs]

end

/-! ### One unit counts -/

/-- The half-cycle of `s` brings nothing to its end (Ordinary), and SPK_SENSE reads as it has been read (R128). -/
abbrev Quiet (f : Nat) (s : State) : Prop :=
  Ordinary f s.pins.inputs s ∧ blankedAt s.pins.inputs s = s.pins.inputs.spark ∧
  perSecond s.mtb.frequency = 2 * f ∧ hertz s.mtb.frequency = f

/-- The units that are no channel's leave every channel as it was. -/
theorem countedChannel_update {f : Nat} {rising : Bool} {k : HalfCycleUnit → Bool} {s : State} {u : HalfCycleUnit}
    (hu : ∀ c, u ≠ .program c ∧ u ≠ .driver c ∧ u ≠ .ignition c ∧ u ≠ .hold c) :
    countedChannel f rising (Function.update k u true) s = countedChannel f rising k s := by
  funext c
  obtain ⟨program, driver, ignition, hold⟩ := hu c
  simp [countedChannel, program.symm, driver.symm, ignition.symm, hold.symm]

section
variable {f : Nat} {rising : Bool} {k : HalfCycleUnit → Bool} {l : List HalfCycleUnit} {s : State} (hs : Quiet f s)
include hs

theorem programShare_counted {c : Chan} (hu : .program c ∉ s.taken) (hk : k (.program c) = false) :
    programShare c (counted f rising k l s) = counted f rising (Function.update k (.program c) true) l s := by
  obtain ⟨⟨-, -, -, -, quiet⟩, -, hf, -⟩ := hs
  have found : countedProgram f (countedChannel f rising k s c) = countedProgram f (s.chan c) ∧
      quietProgram f (countedChannel f rising k s c) = quietProgram f (s.chan c) := by
    unfold countedChannel
    simp only [hk, Bool.false_eq_true, ↓reduceIte]
    exact ⟨rfl, rfl⟩
  rw [programShare_quiet (s := counted f rising k l s) hf (by rw [counted_chan, found.2]; exact (quiet c).1 hu)]
  refine mapChan_counted ?_ (fun d hd => ?_) ?_ ?_ ?_ ?_
  · rw [found.1]
    simp [countedChannel, Function.update]
  all_goals simp [countedChannel, Function.update, *]

omit hs in
theorem countedDriver_congr {x : Bool} {ch ch' : Channel} (chc : ch'.chc = ch.chc) (cfg : ch'.cfg = ch.cfg)
    (gated : ch'.gated = ch.gated) (ceiling : ch'.claim.ceiling = ch.claim.ceiling) (driver : ch'.driver = ch.driver) :
    countedDriver f rising x ch' = countedDriver f rising x ch ∧ quietDriver x ch' = quietDriver x ch := by
  constructor
  · simp only [countedDriver, judgedDriver, slowedDriver, chc, cfg, gated, ceiling, driver]
  · simp only [quietDriver, chc, cfg, driver]

theorem driverShare_counted {c : Chan} (hu : .driver c ∉ s.taken) (hk : k (.driver c) = false) :
    driverShare rising c (counted f rising k l s) = counted f rising (Function.update k (.driver c) true) l s := by
  obtain ⟨⟨-, -, -, -, quiet⟩, -, hf, -⟩ := hs
  have ceiling : (countedChannel f rising k s c).claim.ceiling = (s.chan c).claim.ceiling := by
    unfold countedChannel
    dsimp only
    split_ifs <;> rfl
  have driver : (countedChannel f rising k s c).driver = (s.chan c).driver := if_neg (by simp [hk])
  have found (x : Bool) := countedDriver_congr (f := f) (rising := rising) (x := x)
    (ch' := countedChannel f rising k s c) (ch := s.chan c) rfl rfl rfl ceiling driver
  rw [driverShare_quiet (s := counted f rising k l s) rising hf
    (by rw [counted_chan, (found _).2]; exact (quiet c).2.1 hu)]
  refine mapChan_counted ?_ (fun d hd => ?_) ?_ ?_ ?_ ?_
  · rw [(found _).1]
    simp [countedChannel, Function.update, counted]
  all_goals simp [countedChannel, Function.update, *]

omit hs in
theorem countedBurner_congr {blanked flame : Bool} {ch ch' : Channel} (cfg : ch'.cfg = ch.cfg)
    (burner : ch'.burner = ch.burner) :
    countedBurner f blanked flame ch' = countedBurner f blanked flame ch ∧
    ∀ b, quietBurner f blanked flame ch' b = quietBurner f blanked flame ch b := by
  obtain ⟨⟩ := ch
  obtain ⟨⟩ := ch'
  subst cfg burner
  exact ⟨rfl, fun _ => rfl⟩

theorem ignitionShare_counted {c : Chan} (hu : .ignition c ∉ s.taken) (hk : k (.ignition c) = false) :
    ignitionShare c (counted f rising k l s) = counted f rising (Function.update k (.ignition c) true) l s := by
  obtain ⟨⟨-, -, -, -, quiet⟩, read, -, hf⟩ := hs
  have burner : (countedChannel f rising k s c).burner = (s.chan c).burner := if_neg (by simp [hk])
  have found (x y : Bool) := countedBurner_congr (f := f) (blanked := x) (flame := y)
    (ch' := countedChannel f rising k s c) (ch := s.chan c) rfl burner
  have flame : flameAt s.pins.inputs (counted f rising k l s) c = flameAt s.pins.inputs s c := by
    rw [flameAt, counted_chan]
    rfl
  have outcome : quietBurner f s.pins.inputs.spark (flameAt s.pins.inputs s c) (s.chan c)
      (countedBurner f s.pins.inputs.spark (flameAt s.pins.inputs s c) (s.chan c)) = true := by
    have := (quiet c).2.2.1 hu
    rwa [burnerAfter, read] at this
  rw [ignitionShare_quiet (s := counted f rising k l s) (f := f) hf]
  · show (counted f rising k l s).mapChan c (fun ch => { ch with
      burner := countedBurner f s.pins.inputs.spark (flameAt s.pins.inputs (counted f rising k l s) c) ch }) = _
    rw [flame]
    refine mapChan_counted ?_ (fun d hd => ?_) ?_ ?_ ?_ ?_
    · rw [(found _ _).1]
      simp [countedChannel, Function.update]
    all_goals simp [countedChannel, Function.update, *]
  · show quietBurner f s.pins.inputs.spark (flameAt s.pins.inputs (counted f rising k l s) c) _
      (countedBurner f s.pins.inputs.spark (flameAt s.pins.inputs (counted f rising k l s) c) _) = true
    rw [flame, counted_chan, (found _ _).1, (found _ _).2, outcome]

theorem holdShare_counted_chan {c : Chan} (hu : .hold c ∉ s.taken) (hk : k (.hold c) = false) :
    holdShare c (counted f rising k l s) = counted f rising (Function.update k (.hold c) true) l s := by
  obtain ⟨⟨-, -, -, -, quiet⟩, -⟩ := hs
  have claim : (countedChannel f rising k s c).claim = (s.chan c).claim := if_neg (by simp [hk])
  rw [holdShare_quiet (s := counted f rising k l s) (by rw [counted_chan, claim]; exact (quiet c).2.2.2 hu)]
  refine mapChan_counted ?_ (fun d hd => ?_) ?_ ?_ ?_ ?_
  · dsimp only
    rw [claim]
    simp [countedChannel, Function.update]
  all_goals simp [countedChannel, Function.update, *]

theorem prescalerShare_counted (hu : .prescaler ∉ s.taken) (hk : k .prescaler = false) :
    prescalerShare (counted f rising k l s) = counted f rising (Function.update k .prescaler true) l s := by
  obtain ⟨⟨below, -⟩, -, hf, -⟩ := hs
  have same : (counted f rising k l s).mtb.prescaler = s.mtb.prescaler := if_neg (by simp [hk])
  have short : (counted f rising k l s).mtb.prescaler + 1 < perSecond (counted f rising k l s).mtb.frequency := by
    rw [same]
    exact hf ▸ below hu
  rw [prescalerShare, if_pos short, same]
  simp [counted, countedChannel_update (u := .prescaler) (by simp), countedInputs, Function.update]

theorem intervalShare_counted (hu : .interval ∉ s.taken) (hk : k .interval = false) :
    intervalShare (counted f rising k l s) = counted f rising (Function.update k .interval true) l s := by
  obtain ⟨⟨-, below, -⟩, -⟩ := hs
  have same : (counted f rising k l s).apu.interval = s.apu.interval := if_neg (by simp [hk])
  have short : (counted f rising k l s).apu.interval + 1 < Config.intervalLength := by
    rw [same]
    exact Nat.succ_lt_succ (below hu)
  rw [intervalShare, if_pos short, same]
  simp [counted, countedChannel_update (u := .interval) (by simp), countedInputs, Function.update]

theorem manualShare_counted (hu : .manualReset ∉ s.taken) (hk : k .manualReset = false) :
    manualShare (counted f rising k l s) = counted f rising (Function.update k .manualReset true) l s := by
  obtain ⟨⟨-, -, below, -⟩, -, hf, -⟩ := hs
  have inputs : (counted f rising k l s).gib = { s.gib with gates := (countedInputs k s).gates } := countedInputs_button hk
  have press : pressQualifies s.pins.inputs (counted f rising k l s) = false := by
    rw [pressQualifies, inputs, Bool.eq_false_iff]
    intro h
    simp only [Bool.and_eq_true, Bool.not_eq_true', decide_eq_true_eq] at h
    obtain ⟨⟨released, pressed⟩, due⟩ := h
    exact absurd (below hu released pressed) (not_lt.2 (hf ▸ due))
  rw [manualShare_quiet (s := counted f rising k l s) press, inputs, countedButton_gates]
  simp [counted, countedChannel_update (u := .manualReset) (by simp), countedInputs, Function.update]

theorem gatesShare_counted (hu : .gates ∉ s.taken) (hk : k .gates = false) :
    gatesShare (counted f rising k l s) = counted f rising (Function.update k .gates true) l s := by
  obtain ⟨⟨-, -, -, quiet, -⟩, -⟩ := hs
  obtain ⟨runs, gated⟩ := quiet hu
  have gates : (counted f rising k l s).gib.gates = s.gib.gates := countedInputs_gates hk
  have still : GatesQuiet s.pins.inputs.gates (counted f rising k l s) := by
    refine ⟨gates.symm ▸ runs, fun c => ?_⟩
    rw [GatedAsConfigured, gates, counted_chan]
    exact gated c
  rw [gatesShare_quiet (s := counted f rising k l s) still, gates]
  simp [counted, countedChannel_update (u := .gates) (by simp), countedInputs, Function.update]

/-- No second event is due: a purge's share finds nothing to do. -/
theorem secondDue_counted (hin : s.taken ⊆ l) : secondDue (counted f rising (newly s l) l s) = false := by
  obtain ⟨⟨below, -⟩, -, hf, -⟩ := hs
  by_cases due : .prescaler ∈ l
  · have taken : mayTake .prescaler (counted f rising (newly s l) l s) = false :=
      Bool.eq_false_iff.2 fun h => (mayTake_iff.1 h).2 due
    rw [secondDue, taken, Bool.false_and]
  · have same : (counted f rising (newly s l) l s).mtb.prescaler = s.mtb.prescaler := if_neg (by simp [newly, due])
    have short := below fun h => due (hin h)
    rw [secondDue, same, Bool.and_eq_false_iff]
    exact .inr (decide_eq_false (not_le.2 (hf ▸ short)))

theorem unitShare_counted {u : HalfCycleUnit} (hl : u ∉ l) (hin : s.taken ⊆ l) :
    unitShare rising u (counted f rising (newly s l) l s) = counted f rising (newly s (u :: l)) l s := by
  have hu : u ∉ s.taken := fun h => hl (hin h)
  have hk : newly s l u = false := by simp [newly, hl]
  rw [newly_cons l hu]
  cases u with
  | program c => exact programShare_counted hs hu hk
  | driver c => exact driverShare_counted hs hu hk
  | ignition c => exact ignitionShare_counted hs hu hk
  | hold c => exact holdShare_counted_chan hs hu hk
  | prescaler => exact prescalerShare_counted hs hu hk
  | interval => exact intervalShare_counted hs hu hk
  | gates => exact gatesShare_counted hs hu hk
  | manualReset => exact manualShare_counted hs hu hk
  | purge c =>
    rw [unitShare, onlyIf, secondDue_counted hs hin]
    simp [counted, countedChannel_update (u := .purge c) (by simp), countedInputs, Function.update]

theorem deliverOne_counted (u : HalfCycleUnit) (hin : s.taken ⊆ l) :
    ∃ l', s.taken ⊆ l' ∧
      deliverOne rising u (counted f rising (newly s l) l s) = counted f rising (newly s l') l' s := by
  by_cases hl : u ∈ l
  · exact ⟨l, hin, deliverOne_taken _ _ _ hl⟩
  · refine ⟨u :: l, List.subset_cons_of_subset u hin, ?_⟩
    rw [deliverOne_untaken _ _ _ hl, unitShare_counted hs hl hin, begun_counted]
    rfl

end

end Sys2Proof.Machine
end

section
/-! The two counters of half-cycles, prescaler and demand interval (R4, R79), and the configuration, across a delivery. -/

namespace Sys2Proof.Machine

/-! ### What a delivery keeps -/

theorem foldl_deliverOne_keeps {P : State → Prop} {rising : Bool} (h : ∀ u s, P s → P (deliverOne rising u s))
    (us : List HalfCycleUnit) {s : State} (hs : P s) : P (us.foldl (fun s v => deliverOne rising v s) s) := by
  induction us generalizing s with
  | nil => exact hs
  | cons u us ih => exact ih (h u s hs)

/-- What every single share keeps, a delivery keeps. -/
theorem deliverAll_keeps {P : State → Prop} {rising : Bool} (h : ∀ u s, P s → P (deliverOne rising u s))
    (us : List HalfCycleUnit) {s : State} (hs : P s) : P (deliverAll rising us s) := by
  unfold deliverAll
  induction us generalizing s with
  | nil => exact hs
  | cons u us ih =>
    refine ih ?_
    show P (deliver rising u s)
    unfold deliver
    split
    · exact hs
    · exact foldl_deliverOne_keeps h _ (h u _ (foldl_deliverOne_keeps h _ hs))

/-! ### The prescaler and the demand interval (R4, R79) -/

/-- A counter of half-cycles that `v` alone moves is moved once, unless it had been before. -/
theorem counter_deliverAll {rising : Bool} {C : State → Nat} {v : HalfCycleUnit} {n : Nat} {us : List HalfCycleUnit}
    {s : State} (hm : s.mtb.mode = .tracking) (hv : v ∈ us) (begins : ∀ x y, v ∉ begun x y)
    (marks : ∀ l x, C { x with taken := l } = C x)
    (others : ∀ u x, u ≠ v → x.mtb.mode = .tracking → C (unitShare rising u x) = C x)
    (own : ∀ x, x.mtb.frequency = s.mtb.frequency → C x = C s → C (unitShare rising v x) = n) :
    C (deliverAll rising us s) = if v ∈ s.taken then C s else n := by
  have kept : ∀ u x,
      ((x.mtb.mode = .tracking ∧ x.mtb.frequency = s.mtb.frequency) ∧ (v ∈ s.taken → v ∈ x.taken) ∧
        C x = if v ∈ s.taken ∨ v ∉ x.taken then C s else n) →
      (((deliverOne rising u x).mtb.mode = .tracking ∧ (deliverOne rising u x).mtb.frequency = s.mtb.frequency) ∧
        (v ∈ s.taken → v ∈ (deliverOne rising u x).taken) ∧
        C (deliverOne rising u x) = if v ∈ s.taken ∨ v ∉ (deliverOne rising u x).taken then C s else n) := by
    rintro u x ⟨clock, hin, count⟩
    by_cases hu : u ∈ x.taken
    · rw [deliverOne_taken _ _ _ hu]
      exact ⟨clock, hin, count⟩
    have clock' := (keptByUnits_mode .tracking s.mtb.frequency).unitShare rising u clock clock.1
    rw [deliverOne_untaken _ _ _ hu, marks]
    refine ⟨clock', fun h => List.mem_cons_of_mem _ (List.mem_append_right _ (hin h)), ?_⟩
    by_cases same : u = v
    · subst same
      have fresh : u ∉ s.taken := fun h => hu (hin h)
      rw [if_pos (.inr hu)] at count
      rw [own x clock.2 count, if_neg (by simp [fresh])]
    · rw [others u x same clock.1, count]
      simp [Ne.symm same, begins]
  obtain ⟨-, -, count⟩ := deliverAll_keeps kept us (s := s) ⟨⟨hm, rfl⟩, id, by simp [em]⟩
  have taken := mem_taken_deliverAll (rising := rising) (s := s) (Or.inl hv)
  simpa [taken] using count

theorem prescalerShare_keeps (s : State) :
    (prescalerShare s).mtb.prescaler =
      (if s.mtb.prescaler + 1 < perSecond s.mtb.frequency then s.mtb.prescaler + 1 else 0) ∧
    (prescalerShare s).apu = s.apu := by
  unfold prescalerShare
  split_ifs
  · exact ⟨rfl, rfl⟩
  · refine forChans_keeps (fun t => t.mtb.prescaler = 0 ∧ t.apu = s.apu) _ (fun c t ht => ?_) _ ⟨rfl, rfl⟩
    unfold purgeShare
    split
    · exact ht
    · rw [(acts_purgeSecond c t).station]
      exact ht

theorem intervalShare_keeps (s : State) :
    (intervalShare s).apu.interval = (if s.apu.interval < 49 then s.apu.interval + 1 else 0) ∧
    (intervalShare s).mtb = s.mtb := by
  refine ⟨?_, (apportioned_intervalShare s).mtb⟩
  have short : s.apu.interval + 1 < Config.intervalLength ↔ s.apu.interval < 49 := Nat.succ_lt_succ_iff
  unfold intervalShare
  rw [if_congr short rfl rfl]
  split_ifs
  · rfl
  · obtain ⟨-, -, -, interval, -⟩ := agesTaken_moves { s with apu := { s.apu with interval := 0 } }
    obtain ⟨-, -, counts⟩ := countListen_moves (agesTaken { s with apu := { s.apu with interval := 0 } })
    exact counts.interval.trans interval

theorem keptByBlocks_prescaler (n : Nat) : KeptByBlocks fun s => s.mtb.prescaler = n where
  toKeptByChannels := keptByChannels_of_acts fun s t h hs => by rw [h.mtb]; exact hs
  recompute s hs := by simpa using hs
  unseen s t h hs := by rw [h.mtb]; exact hs
  rpu _ _ hs _ := hs
  restore _ _ _ ht := ht
  claim _ _ _ hs _ := hs
  gated _ _ _ hs := hs
  gib _ _ hs _ := hs
  clearLockout c s hs := by rw [acts_clearLockout_station]; exact hs
  enterSafe s hs := by
    rw [recompute_mtb, makeRequest_mtb]
    obtain ⟨-, h⟩ | ⟨-, h⟩ := enterSafe_cases s
    · rw [h]; exact hs
    · rw [h.mtb]; exact hs

theorem keptByBlocks_interval (n : Nat) : KeptByBlocks fun s => s.apu.interval = n where
  toKeptByChannels := keptByChannels_of_acts fun s t h hs => by rw [h.station]; exact hs
  recompute s hs := by simpa using hs
  unseen s t h hs := by rw [h.interval]; exact hs
  rpu _ _ hs _ := hs
  restore _ _ _ ht := ht
  claim _ _ _ hs _ := hs
  gated _ _ _ hs := hs
  gib _ _ hs _ := hs
  clearLockout c s hs := by rw [acts_clearLockout_station]; exact hs
  enterSafe s hs := by
    rw [recompute_apu_interval, (keepsCounts_makeRequest _).interval]
    obtain ⟨-, h⟩ | ⟨-, h⟩ := enterSafe_cases s
    · rw [h]; exact hs
    · rw [h.station]; exact hs

section
variable {rising : Bool} {us : List HalfCycleUnit} {s : State} (hm : s.mtb.mode = .tracking)
include hm

theorem prescaler_deliverAll (hv : .prescaler ∈ us) :
    (deliverAll rising us s).mtb.prescaler =
      if .prescaler ∈ s.taken then s.mtb.prescaler
      else if s.mtb.prescaler + 1 < perSecond s.mtb.frequency then s.mtb.prescaler + 1 else 0 := by
  refine counter_deliverAll (C := fun x => x.mtb.prescaler) hm hv prescaler_not_mem_begun (fun _ _ => rfl)
    (fun u x hu hx => ?_) fun x hf hx => ?_
  · by_cases hi : u = .interval
    · subst hi
      exact congrArg Mtb.prescaler (intervalShare_keeps x).2
    · exact (keptByBlocks_prescaler _).unitShare rising u hu hi rfl hx
  · have count := (prescalerShare_keeps x).1
    rwa [hx, hf] at count

theorem interval_deliverAll (hv : .interval ∈ us) :
    (deliverAll rising us s).apu.interval =
      if .interval ∈ s.taken then s.apu.interval else if s.apu.interval < 49 then s.apu.interval + 1 else 0 := by
  refine counter_deliverAll (C := fun x => x.apu.interval) hm hv (not_mem_begun rfl) (fun _ _ => rfl)
    (fun u x hu hx => ?_) fun x hf hx => ?_
  · by_cases hp : u = .prescaler
    · subst hp
      exact congrArg Apu.interval (prescalerShare_keeps x).2
    · exact (keptByBlocks_interval _).unitShare rising u hp hu rfl hx
  · have count := (intervalShare_keeps x).1
    rwa [hx] at count

end

/-! ### The configuration -/

theorem Apportioned.cfg {s t : State} (h : Apportioned s t) (c : Chan) : (t.chan c).cfg = (s.chan c).cfg := by
  obtain ⟨⟨-, -, cfg⟩, -⟩ := h.channel c
  exact cfg

theorem clearLockout_cfg (d : Chan) (s : State) (c : Chan) : ((clearLockout d s).chan c).cfg = (s.chan c).cfg := by
  unfold clearLockout
  split
  · rw [raise_chan]
    by_cases hc : c = d
    · subst hc
      rw [State.chan_mapChan_self]
    · rw [State.chan_mapChan_ne _ _ _ _ hc]
  · rfl

/-- No share of a half-cycle moves the configuration of a channel. -/
theorem keptByUnits_cfg (k : Chan → ChanConfig) : KeptByUnits fun s => ∀ c, (s.chan c).cfg = k c where
  toKeptByChannels := keptByChannels_of_acts fun s t h hs c => by rw [(h.channel c).cfg]; exact hs c
  recompute s hs c := by simpa using hs c
  unseen s t h hs c := by
    show (t.chans.get c).cfg = k c
    rw [h.chans]
    exact hs c
  rpu _ _ hs _ := hs
  restore _ _ _ ht := ht
  claim d _ s hs _ c := by
    by_cases hc : c = d
    · subst hc; simpa using hs c
    · simpa [hc] using hs c
  gated d _ s hs c := by
    by_cases hc : c = d
    · subst hc; simpa using hs c
    · simpa [hc] using hs c
  gib _ _ hs _ := hs
  clearLockout d s hs c := (clearLockout_cfg d s c).trans (hs c)
  interval _ _ hs _ := hs
  peers _ _ hs _ := hs
  ageOwnSend s hs c := ((ageOwnSend_moves s).1.cfg c).trans (hs c)
  countListen s hs _ c := ((countListen_moves s).1.cfg c).trans (hs c)
  clashQuiet _ _ hs _ := hs
  enterSafe s hs c := by
    rw [(apportioned_recompute _).cfg, (apportioned_makeRequest _).cfg]
    obtain ⟨-, h⟩ | ⟨-, h⟩ := enterSafe_cases s
    · rw [h]; exact hs c
    · rw [(h.channel c).cfg]; exact hs c
  prescaler _ _ hs _ _ := hs

end Sys2Proof.Machine
end

section
/-! Settles O21: where the shares of a crossing start, and what they leave after an ordinary one. -/

namespace Sys2Proof.Machine

/-- What the shares of a crossing start from (R1, R3, R5). -/
def atCrossing (rising : Bool) (pins : InputPins) (s : State) : State :=
  { s with
    mtb := { s.mtb.tick with sign := some (signOf rising), run := 0, missingTimer := some 0 }
    pins := { (withInputs pins s).pins with zx := rising } }

theorem quiet_atCrossing {f : Nat} {rising : Bool} {pins : InputPins} {s : State}
    (hf : (s.mtb.frequency = some .hz50 ∧ f = 50) ∨ (s.mtb.frequency = some .hz60 ∧ f = 60))
    (h : Ordinary f pins s) : Quiet f (atCrossing rising pins s) := by
  have read : blankedAt (atCrossing rising pins s).pins.inputs (atCrossing rising pins s) = blankedAt pins s := by
    show s.sparkRead.getD (s.sparkRead.getD pins.spark) = s.sparkRead.getD pins.spark
    cases s.sparkRead <;> rfl
  refine ⟨?_, read, ?_⟩
  · obtain ⟨prescaler, interval, button, gates, channels⟩ := h
    refine ⟨prescaler, interval, button, gates, fun c => ?_⟩
    obtain ⟨program, driver, burner, hold⟩ := channels c
    refine ⟨program, driver, ?_, hold⟩
    rw [burnerAfter, read]
    exact burner
  · show perSecond s.mtb.frequency = 2 * f ∧ hertz s.mtb.frequency = f
    obtain ⟨hf, rfl⟩ | ⟨hf, rfl⟩ := hf <;> rw [hf] <;> exact ⟨rfl, rfl⟩

/-- The units that have still to take the half-cycle. -/
def untaken (s : State) (u : HalfCycleUnit) : Bool := decide (u ∉ s.taken)

/-- The shares of an ordinary half-cycle count every unit that has not taken it, in whatever order they come. -/
theorem deliverAll_counted {f : Nat} {rising : Bool} {us : List HalfCycleUnit} {s : State} (hs : Quiet f s)
    (hus : ∀ u, (∀ c, u ≠ .purge c) → u ∈ us) :
    ∃ l, deliverAll rising us s = counted f rising (untaken s) l s := by
  have start : s = counted f rising (newly s s.taken) s.taken s := by
    rw [newly_self]
    have chans : Quad.ofFn (countedChannel f rising (fun _ => false) s) = s.chans :=
      Quad.ext_get _ _ fun c => by rw [Quad.get_ofFn]; rfl
    simp only [counted, chans]
    rfl
  obtain ⟨l, -, found⟩ := deliverAll_keeps (rising := rising)
    (P := fun x => ∃ l, s.taken ⊆ l ∧ x = counted f rising (newly s l) l s)
    (fun u x ⟨l, hin, hx⟩ => hx ▸ deliverOne_counted hs u hin) us (s := s) ⟨s.taken, List.Subset.refl _, start⟩
  refine ⟨l, found.trans (counted_congr fun u hu => ?_)⟩
  have taken : u ∈ (deliverAll rising us s).taken := mem_taken_deliverAll (.inl (hus u hu))
  rw [found] at taken
  have here : u ∈ l := taken
  simp [newly, untaken, here]

theorem mem_allUnits {u : HalfCycleUnit} (hu : ∀ c, u ≠ .purge c) : u ∈ allUnits := by
  cases u with
  | purge c => exact absurd rfl (hu c)
  | program c | driver c | ignition c | hold c => fin_cases c <;> decide
  | _ => decide

/-- A delivery moves nothing of the time base but the prescaler, and leaves the pins. -/
theorem deliverAll_mtb {rising : Bool} {us : List HalfCycleUnit} {s : State} (hm : s.mtb.mode = .tracking) :
    (deliverAll rising us s).mtb = { s.mtb with prescaler := (deliverAll rising us s).mtb.prescaler } ∧
    (deliverAll rising us s).pins = s.pins := by
  obtain ⟨⟨mode, frequency⟩, -⟩ := KeptByShares.deliverAll
    { toKeptByUnits := keptByUnits_mode .tracking s.mtb.frequency, taken := fun _ _ h => h } rising us
    (s := s) ⟨⟨hm, rfl⟩, hm⟩
  have clock := keepsClock_deliverAll s.mtb s.pins s.clockTaken s.sparkRead s.eventsNew rising us s rfl
  have mtb : (deliverAll rising us s).mtb = _ := (congrArg State.mtb clock :)
  refine ⟨mtb.trans ?_, (congrArg State.pins clock :)⟩
  simp only [withClock]
  rw [mode, frequency, hm]

/-- Settles O21: each unit counts its share (deliverOne_counted), whatever the order; and the two counters of half-cycles
move once. -/
theorem crossingInTracking : Obligations.CrossingInTracking := by
  intro s pins order level f hheld hclock hsign hrun hmode hf
  have measured : s.mtb.frequency.isSome = true ∧ perSecond s.mtb.frequency = 2 * f := by
    obtain ⟨hf, rfl⟩ | ⟨hf, rfl⟩ := hf <;> rw [hf] <;> exact ⟨rfl, rfl⟩
  obtain ⟨known, second⟩ := measured
  have all (u : HalfCycleUnit) (hu : ∀ c, u ≠ .purge c) : u ∈ order ++ allUnits :=
    List.mem_append_right _ (mem_allUnits hu)
  have run := exec_crossing_measured (t := deliverAll level (order ++ allUnits) (atCrossing level pins s)) pins order
    hheld hclock hsign hrun hmode known rfl
  have pending := exec_pending run
  obtain ⟨mtb, hpins⟩ := deliverAll_mtb (rising := level) (us := order ++ allUnits) (s := atCrossing level pins s) hmode
  have prescaler := prescaler_deliverAll (rising := level) (us := order ++ allUnits) (s := atCrossing level pins s) hmode
    (all _ (by simp))
  have interval := interval_deliverAll (rising := level) (us := order ++ allUnits) (s := atCrossing level pins s) hmode
    (all _ (by simp))
  obtain ⟨cfg, -⟩ := KeptByShares.deliverAll
    { toKeptByUnits := keptByUnits_cfg fun c => (s.chan c).cfg, taken := fun _ _ h => h } level (order ++ allUnits)
    (s := atCrossing level pins s) ⟨fun _ => rfl, hmode⟩
  have ordinary (h : Ordinary f pins s) :=
    deliverAll_counted (rising := level) (us := order ++ allUnits) (quiet_atCrossing (rising := level) hf h) all
  generalize deliverAll level (order ++ allUnits) (atCrossing level pins s) = t at *
  refine ⟨_, run, ?_, interval, rfl, rfl, hpins, pending, cfg, fun h => ?_⟩
  · have count : t.mtb.prescaler = if .prescaler ∈ s.taken then s.mtb.prescaler
        else if s.mtb.prescaler + 1 < 2 * f then s.mtb.prescaler + 1 else 0 := second ▸ prescaler
    show { t.mtb with spacing := 0 } = _
    rw [mtb, count]
    rfl
  · obtain ⟨l, rfl⟩ := ordinary h
    have mark (u : HalfCycleUnit) : untaken (atCrossing level pins s) u = true ↔ u ∉ s.taken := decide_eq_true_iff
    unfold counted countedInputs countedChannel
    simp only [mark, ite_not]
    rfl

end Sys2Proof.Machine
end
